-- ==== Sys2Proof/Word.lean ====
section
/-! DEFINITION. The number types of the FT4806: bytes, keys, serials, record numbers, sets of carriers and ports. -/

namespace Sys2Proof

/-- One byte of a frame, a unit body, a packet or a slice. -/
abbrev Byte := BitVec 8

/-- A 96-bit scrambling key (R76, R79). -/
abbrev Key := BitVec 96

/-- A key serial: serial numbers count modulo 65,536 (scope 1.6, R77). -/
abbrev Serial := BitVec 16

/-- A station time or a stored scheduled time, in microseconds (R1). -/
abbrev Time := Nat

/-- A carrier number 0 to 3. -/
abbrev CarrierNo := Fin 4

/-- An access port number 0 to 3. -/
abbrev PortNo := Fin 4

/-- A programme number 0 to 47 (R13). -/
abbrev ProgrammeNo := Fin 48

/-- A scrambling group number 0 to 31 (R76). -/
abbrev GroupNo := Fin 32

/-- An ingest link number 0 to 5 (R19). -/
abbrev LinkNo := Fin 6

/-- A picture memory cell number 0 to 32,767 (R32). -/
abbrev CellNo := Fin 32768

/-- A set of carriers, bit n for carrier n (R156). -/
abbrev CarrierSet := BitVec 4

/-- A set of access ports, bit n for port n (R156). -/
abbrev PortSet := BitVec 4

/-- A set of standard period lengths: bits 0 to 7 stand for 6, 10, 15, 20, 30, 45, 60 and 120 s (R156). -/
abbrev LengthMask := BitVec 8

end Sys2Proof
end

