-- ==== Sys2Proof/Syntax.lean ====
section
/-! DEFINITION. The commands of the part: one constructor per row of spec/opcode_table.json. An ORDER row is a frame
that has passed its check; its operands are the fields of its body as they came over the line, so a value the owning
rule refuses RANGE can stand there. -/

namespace Sys2Proof

/-- The five order ports (R145). -/
inductive PortId where
  | manager
  | access (p : PortNo)
  deriving DecidableEq, Repr, Inhabited

/-- What a frame brings beside its fields: the port that took it, and whether its body has the length that R147 asks
of the order (the fixed fields plus the declared variable part, R156). Where `fits` is false the fields are not
read. -/
structure Frame where
  port : PortId
  fits : Bool
  deriving DecidableEq, Repr, Inhabited

/-- The field that tells the rows of one order apart (the target of SET CARRIER and SET PROGRAMME, the selector of
FETCH KEY, the kind of ACKNOWLEDGE). `named` is the value the row stands for. `other v` is a value that names no row
of the order (refused RANGE by the owning rule); the FIRST row of the order carries it (log entry 18). -/
inductive Selector where
  | named
  | other (v : Nat)
  deriving DecidableEq, Repr, Inhabited

/-- An offer of an access system: the lengths it can work to and the lead time it needs, in seconds (R98). -/
structure Offer where
  mask : LengthMask
  lead : Nat
  deriving DecidableEq, Repr, Inhabited

/-- The fields of a unit header after its sync mark, as they stand on the link (R22, R157). -/
structure UnitHeader where
  slotCode   : Byte
  kind       : Byte
  sequence   : BitVec 16
  size       : BitVec 32
  complexity : BitVec 16
  deriving DecidableEq, Repr, Inhabited

/-- The commands, in the order of the table. -/
inductive Instr where
  | defineCarrier (f : Frame) (carrier rate interval reserve : Nat)
  | setCarrierOn (f : Frame) (carrier : Nat) (target : Selector)
  | setCarrierOff (f : Frame) (carrier : Nat)
  | readCarrier (f : Frame) (carrier : Nat)
  | defineProgramme (f : Frame) (programme carrier group weight floor cap : Nat)
  | setProgrammeLive (f : Frame) (programme : Nat) (target : Selector)
  | setProgrammeIdle (f : Frame) (programme : Nat)
  | setProgrammeUnused (f : Frame) (programme : Nat)
  | readProgramme (f : Frame) (programme : Nat)
  | defineGroup (f : Frame) (group : Nat) (roster : BitVec 8) (preference : List Nat) (repeatMs limit policy : Nat)
  | releaseGroup (f : Frame) (group : Nat)
  | restartGroup (f : Frame) (group : Nat)
  | readGroup (f : Frame) (group : Nat)
  | setAllowance (f : Frame) (port carrier allowance : Nat)
  | restartPart (f : Frame)
  | restartCompletion
  | attach (f : Frame) (offer : Offer)
  | detach (f : Frame)
  | planAck (f : Frame) (group number : Nat) (offer : Offer)
  | fetchKeyActive (f : Frame) (group : Nat) (selector : Selector)
  | fetchKeyPending (f : Frame) (group : Nat)
  | submitAccess (f : Frame) (group : Nat) (serial : Serial) (body : List Byte)
  | probeGroup (f : Frame) (group : Nat)
  | openBatch (f : Frame) (present count : Nat)
  | submitSubscriber (f : Frame) (body : List Byte) (mask : BitVec 8) (urgent : Nat)
  | readTime (f : Frame)
  | readCondition (f : Frame)
  | readSummary (f : Frame)
  | acknowledgeBatchEnd (f : Frame) (kind : Selector) (object : Nat)
  | acknowledgeGroupAlert (f : Frame) (object : Nat)
  | acknowledgeCarrierAlert (f : Frame) (object : Nat)
  | unknownOrderCode (port : PortId) (code : Nat)
  | framingFailure (port : PortId) (code : Nat)
  | replySent (port : PortId)
  | orderLinkUp (port : PortId)
  | orderLinkDown (port : PortId)
  | powerOn (straps : BitVec 4)
  | resetInputLow
  | signalDetected (link : LinkNo)
  | lossOfSignal (link : LinkNo)
  | syncMarkFound (link : LinkNo) (header : UnitHeader)
  | headerTaken (link : LinkNo) (header : UnitHeader)
  | cellClaim (link : LinkNo) (stretch : List Byte)
  | missingSyncMark (link : LinkNo)
  | runawayUnit (link : LinkNo)
  | unitCompletion (link : LinkNo)
  | boundary (carrier : CarrierNo)
  | shrinkCompletion (carrier : CarrierNo)
  | sliceEmission (carrier : CarrierNo)
  | drawEvent (group : GroupNo)
  | startEvent (group : GroupNo)
  | changeoverEvent (group : GroupNo)
  deriving DecidableEq, Repr, Inhabited

/-- The 24 orders, by the order codes 1 to 24 of R156. -/
inductive Order where
  | defineCarrier | setCarrier | readCarrier | defineProgramme | setProgramme | readProgramme
  | defineGroup | releaseGroup | restartGroup | readGroup | setAllowance | restartPart
  | attach | detach | planAck | fetchKey | submitAccess | probeGroup | openBatch | submitSubscriber
  | readTime | readCondition | readSummary | acknowledge
  deriving DecidableEq, Repr, Inhabited

end Sys2Proof
end

