-- ==== Sys2Proof/WellFormed.lean ====
section
/-! DEFINITION. Which commands a port, a link or the clock can bring: every field of an order fits its width on the
line (R156), a selector marked `other` names no row of its order, a stretch of a body is one cell or less (R25). -/

namespace Sys2Proof

/-- The field fits one byte, two bytes, four bytes (R156). -/
def fits8 (n : Nat) : Bool := n < 256
def fits16 (n : Nat) : Bool := n < 65536
def fits32 (n : Nat) : Bool := n < 4294967296

/-- A selector names the row, or holds a one-byte value that names no row of the order. -/
def Selector.wf (taken : List Nat) : Selector → Bool
  | .named => true
  | .other v => fits8 v && !taken.contains v

/-- The offer's lead time fits its byte. -/
def Offer.wf (o : Offer) : Bool := fits8 o.lead

/-- The order codes 1 to 24 name the orders (R156); any other byte value is an unknown code. -/
def knownCode (code : Nat) : Bool := 1 ≤ code && code ≤ 24

/-- A command that can reach the part. -/
def Instr.wf : Instr → Bool
  | .defineCarrier _ c q t a => fits8 c && fits32 q && fits32 t && fits16 a
  | .setCarrierOn _ c sel => fits8 c && sel.wf [0, 1]
  | .setCarrierOff _ c => fits8 c
  | .readCarrier _ c => fits8 c
  | .defineProgramme _ p c g w fl k => fits8 p && fits8 c && fits8 g && fits16 w && fits16 fl && fits16 k
  | .setProgrammeLive _ p sel => fits8 p && sel.wf [0, 1, 2]
  | .setProgrammeIdle _ p => fits8 p
  | .setProgrammeUnused _ p => fits8 p
  | .readProgramme _ p => fits8 p
  | .defineGroup _ g _ prefs r l pol =>
      fits8 g && fits8 prefs.length && prefs.all fits8 && fits16 r && fits16 l && fits8 pol
  | .releaseGroup _ g => fits8 g
  | .restartGroup _ g => fits8 g
  | .readGroup _ g => fits8 g
  | .setAllowance _ p c a => fits8 p && fits8 c && fits16 a
  | .restartPart _ => true
  | .restartCompletion => true
  | .attach _ o => o.wf
  | .detach _ => true
  | .planAck _ g n o => fits8 g && fits8 n && o.wf
  | .fetchKeyActive _ g sel => fits8 g && sel.wf [0, 1]
  | .fetchKeyPending _ g => fits8 g
  | .submitAccess _ g _ body => fits8 g && body.length ≤ 1019
  | .probeGroup _ g => fits8 g
  | .openBatch _ p n => fits8 p && fits16 n
  | .submitSubscriber _ body _ u => body.length ≤ 1020 && fits8 u
  | .readTime _ => true
  | .readCondition _ => true
  | .readSummary _ => true
  | .acknowledgeBatchEnd _ k o => k.wf [2, 3, 4] && fits8 o
  | .acknowledgeGroupAlert _ o => fits8 o
  | .acknowledgeCarrierAlert _ o => fits8 o
  | .unknownOrderCode _ code => fits8 code && !knownCode code
  | .framingFailure _ code => fits8 code
  | .replySent _ => true
  | .orderLinkUp _ => true
  | .orderLinkDown _ => true
  | .powerOn _ => true
  | .resetInputLow => true
  | .signalDetected _ => true
  | .lossOfSignal _ => true
  | .syncMarkFound _ _ => true
  | .headerTaken _ _ => true
  | .cellClaim _ stretch => 1 ≤ stretch.length && stretch.length ≤ 2048
  | .missingSyncMark _ => true
  | .runawayUnit _ => true
  | .unitCompletion _ => true
  | .boundary _ => true
  | .shrinkCompletion _ => true
  | .sliceEmission _ => true
  | .drawEvent _ => true
  | .startEvent _ => true
  | .changeoverEvent _ => true

end Sys2Proof
end

