-- ==== Sys2Proof/Decode.lean ====
section
/-! DEFINITION. What the spec gives bits: the order frame (R145, R156) and the unit header (R157), read and written;
the hunt for either in a stream of bytes (R145, R157); the two cyclic redundancy checks (R156, R159). The opcode table gives its rows no bits, so `decodeTableWord` answers
none. -/

namespace Sys2Proof

/-! ### Numbers on the line: most significant byte first (chapter 11) -/

/-- The number that bytes spell, most significant byte first. -/
def beNat (bytes : List Byte) : Nat := bytes.foldl (fun n b => n * 256 + b.toNat) 0

/-- `n` bytes of a number, most significant byte first. -/
def beBytes : Nat → Nat → List Byte
  | 0, _ => []
  | n + 1, v => BitVec.ofNat 8 (v / 256 ^ n) :: beBytes n v

/-! ### The hunt for a mark in a stream of bytes (R145, R157) -/

/-- The bytes begin a mark, or are so few that they may when more have arrived. -/
def beginsMark (mark bytes : List Byte) : Bool := mark.isPrefixOf bytes || bytes.isPrefixOf mark

/-- The hunt for a mark, at every byte position: bytes that do not begin one are discarded (R145, R157). -/
def hunt (mark : List Byte) : List Byte → List Byte
  | [] => []
  | b :: rest => if beginsMark mark (b :: rest) then b :: rest else hunt mark rest

/-! ### Cyclic redundancy checks -/

/-- The bits of a byte, most significant first. -/
def byteBits (b : Byte) : List Bool := (List.range 8).map (fun i => b.getLsbD (7 - i))

/-- One bit into the register of a check with polynomial `poly`. -/
def crcBit {n : Nat} (poly : BitVec n) (reg : BitVec n) (b : Bool) : BitVec n :=
  if (reg.msb != b) then (reg <<< 1) ^^^ poly else reg <<< 1

/-- The register after `bytes`, each taken most significant bit first. -/
def crcRun {n : Nat} (poly : BitVec n) (reg : BitVec n) (bytes : List Byte) : BitVec n :=
  (bytes.flatMap byteBits).foldl (crcBit poly) reg

/-- x^16 + x^15 + x^10 + x^6 + x^3 + 1 (R156). -/
def framePoly : BitVec 16 := 0x8449#16

/-- x^32 + x^29 + x^26 + x^21 + x^17 + x^14 + x^11 + x^9 + x^7 + x^4 + x^2 + x + 1 (R159). -/
def directoryPoly : BitVec 32 := 0x24224A97#32

/-- The frame check: the register starts at all ones and is sent without inversion (R156). -/
def frameCheck (covered : List Byte) : BitVec 16 := crcRun framePoly (BitVec.allOnes 16) covered

/-- The directory check: the register starts at all ones and the final value is inverted (R139, R159). -/
def directoryCheck (body : List Byte) : BitVec 32 := ~~~ crcRun directoryPoly (BitVec.allOnes 32) body

/-! ### Order codes -/

/-- The order codes 1 to 24 (R156). -/
def Order.code : Order → Nat
  | .defineCarrier => 1 | .setCarrier => 2 | .readCarrier => 3 | .defineProgramme => 4 | .setProgramme => 5
  | .readProgramme => 6 | .defineGroup => 7 | .releaseGroup => 8 | .restartGroup => 9 | .readGroup => 10
  | .setAllowance => 11 | .restartPart => 12 | .attach => 13 | .detach => 14 | .planAck => 15 | .fetchKey => 16
  | .submitAccess => 17 | .probeGroup => 18 | .openBatch => 19 | .submitSubscriber => 20 | .readTime => 21
  | .readCondition => 22 | .readSummary => 23 | .acknowledge => 24

/-! ### Order bodies (R156)

Bodies carry their fields in the order in which the owning rule lists them. A body of the wrong length still names
its order (`fits` false), since R147 judges the length last. -/

/-- The frame of an order whose body has the right length, and of one whose body has not. -/
def goodFrame (p : PortId) : Frame := ⟨p, true⟩
def badFrame (p : PortId) : Frame := ⟨p, false⟩

def readDefineCarrier (p : PortId) : List Byte → Instr
  | [c, q3, q2, q1, q0, t3, t2, t1, t0, a1, a0] =>
      .defineCarrier (goodFrame p) c.toNat (beNat [q3, q2, q1, q0]) (beNat [t3, t2, t1, t0]) (beNat [a1, a0])
  | _ => .defineCarrier (badFrame p) 0 0 0 0

/-- SET CARRIER: a carrier number and a target, ON 0 or OFF 1 (R6, R156). -/
def readSetCarrier (p : PortId) : List Byte → Instr
  | [c, t] =>
      if t.toNat = 0 then .setCarrierOn (goodFrame p) c.toNat .named
      else if t.toNat = 1 then .setCarrierOff (goodFrame p) c.toNat
      else .setCarrierOn (goodFrame p) c.toNat (.other t.toNat)
  | _ => .setCarrierOn (badFrame p) 0 .named

def readReadCarrier (p : PortId) : List Byte → Instr
  | [c] => .readCarrier (goodFrame p) c.toNat
  | _ => .readCarrier (badFrame p) 0

def readDefineProgramme (p : PortId) : List Byte → Instr
  | [n, c, g, w1, w0, f1, f0, k1, k0] =>
      .defineProgramme (goodFrame p) n.toNat c.toNat g.toNat (beNat [w1, w0]) (beNat [f1, f0]) (beNat [k1, k0])
  | _ => .defineProgramme (badFrame p) 0 0 0 0 0 0

/-- SET PROGRAMME: a programme number and a target, LIVE 0, IDLE 1 or UNUSED 2 (R15, R156). -/
def readSetProgramme (p : PortId) : List Byte → Instr
  | [n, t] =>
      if t.toNat = 0 then .setProgrammeLive (goodFrame p) n.toNat .named
      else if t.toNat = 1 then .setProgrammeIdle (goodFrame p) n.toNat
      else if t.toNat = 2 then .setProgrammeUnused (goodFrame p) n.toNat
      else .setProgrammeLive (goodFrame p) n.toNat (.other t.toNat)
  | _ => .setProgrammeLive (badFrame p) 0 .named

def readReadProgramme (p : PortId) : List Byte → Instr
  | [n] => .readProgramme (goodFrame p) n.toNat
  | _ => .readProgramme (badFrame p) 0

/-- DEFINE GROUP: group, roster, preference list (a count, then its entries), repeat period in ms, extension limit,
late policy (R80, R156). R156 gives the late policy no width: it is read as one byte (log entry 20). -/
def readDefineGroup (p : PortId) : List Byte → Instr
  | g :: r :: n :: rest =>
      match rest.drop n.toNat with
      | [m1, m0, l1, l0, pol] =>
          .defineGroup (goodFrame p) g.toNat r ((rest.take n.toNat).map (·.toNat)) (beNat [m1, m0]) (beNat [l1, l0])
            pol.toNat
      | _ => .defineGroup (badFrame p) 0 0 [] 0 0 0
  | _ => .defineGroup (badFrame p) 0 0 [] 0 0 0

def readReleaseGroup (p : PortId) : List Byte → Instr
  | [g] => .releaseGroup (goodFrame p) g.toNat
  | _ => .releaseGroup (badFrame p) 0

def readRestartGroup (p : PortId) : List Byte → Instr
  | [g] => .restartGroup (goodFrame p) g.toNat
  | _ => .restartGroup (badFrame p) 0

def readReadGroup (p : PortId) : List Byte → Instr
  | [g] => .readGroup (goodFrame p) g.toNat
  | _ => .readGroup (badFrame p) 0

def readSetAllowance (p : PortId) : List Byte → Instr
  | [n, c, a1, a0] => .setAllowance (goodFrame p) n.toNat c.toNat (beNat [a1, a0])
  | _ => .setAllowance (badFrame p) 0 0 0

def readRestartPart (p : PortId) : List Byte → Instr
  | [] => .restartPart (goodFrame p)
  | _ => .restartPart (badFrame p)

def readAttach (p : PortId) : List Byte → Instr
  | [m, l] => .attach (goodFrame p) ⟨m, l.toNat⟩
  | _ => .attach (badFrame p) ⟨0, 0⟩

def readDetach (p : PortId) : List Byte → Instr
  | [] => .detach (goodFrame p)
  | _ => .detach (badFrame p)

def readPlanAck (p : PortId) : List Byte → Instr
  | [g, n, m, l] => .planAck (goodFrame p) g.toNat n.toNat ⟨m, l.toNat⟩
  | _ => .planAck (badFrame p) 0 0 ⟨0, 0⟩

/-- FETCH KEY: a group number and a selector, ACTIVE 0 or PENDING 1 (R87, R156). -/
def readFetchKey (p : PortId) : List Byte → Instr
  | [g, t] =>
      if t.toNat = 0 then .fetchKeyActive (goodFrame p) g.toNat .named
      else if t.toNat = 1 then .fetchKeyPending (goodFrame p) g.toNat
      else .fetchKeyActive (goodFrame p) g.toNat (.other t.toNat)
  | _ => .fetchKeyActive (badFrame p) 0 .named

/-- SUBMIT ACCESS: group, serial, packet body (a length, then its bytes) (R88, R156). -/
def readSubmitAccess (p : PortId) : List Byte → Instr
  | g :: s1 :: s0 :: l1 :: l0 :: body =>
      if body.length = beNat [l1, l0] then
        .submitAccess (goodFrame p) g.toNat (BitVec.ofNat 16 (beNat [s1, s0])) body
      else .submitAccess (badFrame p) 0 0 []
  | _ => .submitAccess (badFrame p) 0 0 []

def readProbeGroup (p : PortId) : List Byte → Instr
  | [g] => .probeGroup (goodFrame p) g.toNat
  | _ => .probeGroup (badFrame p) 0

/-- OPEN BATCH: a present flag, then the count (R125, R156). -/
def readOpenBatch (p : PortId) : List Byte → Instr
  | [f, n1, n0] => .openBatch (goodFrame p) f.toNat (beNat [n1, n0])
  | _ => .openBatch (badFrame p) 0 0

/-- SUBMIT SUBSCRIBER: packet body (a length, then its bytes), carrier mask, urgent flag (R126, R156). -/
def readSubmitSubscriber (p : PortId) : List Byte → Instr
  | l1 :: l0 :: rest =>
      match rest.drop (beNat [l1, l0]) with
      | [m, u] => .submitSubscriber (goodFrame p) (rest.take (beNat [l1, l0])) m u.toNat
      | _ => .submitSubscriber (badFrame p) [] 0 0
  | _ => .submitSubscriber (badFrame p) [] 0 0

def readReadTime (p : PortId) : List Byte → Instr
  | [] => .readTime (goodFrame p)
  | _ => .readTime (badFrame p)

def readReadCondition (p : PortId) : List Byte → Instr
  | [] => .readCondition (goodFrame p)
  | _ => .readCondition (badFrame p)

def readReadSummary (p : PortId) : List Byte → Instr
  | [] => .readSummary (goodFrame p)
  | _ => .readSummary (badFrame p)

/-- ACKNOWLEDGE: a kind, BATCH_END 2, GROUP_ALERT 3 or CARRIER_ALERT 4, and an object (R153, R156). -/
def readAcknowledge (p : PortId) : List Byte → Instr
  | [k, o] =>
      if k.toNat = 2 then .acknowledgeBatchEnd (goodFrame p) .named o.toNat
      else if k.toNat = 3 then .acknowledgeGroupAlert (goodFrame p) o.toNat
      else if k.toNat = 4 then .acknowledgeCarrierAlert (goodFrame p) o.toNat
      else .acknowledgeBatchEnd (goodFrame p) (.other k.toNat) o.toNat
  | _ => .acknowledgeBatchEnd (badFrame p) .named 0

/-- The order with a given code and body, as a port takes it; a code that names no order is UNKNOWN (R147, R156). -/
def readOrder (p : PortId) (code : Nat) (body : List Byte) : Instr :=
  match code with
  | 1 => readDefineCarrier p body
  | 2 => readSetCarrier p body
  | 3 => readReadCarrier p body
  | 4 => readDefineProgramme p body
  | 5 => readSetProgramme p body
  | 6 => readReadProgramme p body
  | 7 => readDefineGroup p body
  | 8 => readReleaseGroup p body
  | 9 => readRestartGroup p body
  | 10 => readReadGroup p body
  | 11 => readSetAllowance p body
  | 12 => readRestartPart p body
  | 13 => readAttach p body
  | 14 => readDetach p body
  | 15 => readPlanAck p body
  | 16 => readFetchKey p body
  | 17 => readSubmitAccess p body
  | 18 => readProbeGroup p body
  | 19 => readOpenBatch p body
  | 20 => readSubmitSubscriber p body
  | 21 => readReadTime p body
  | 22 => readReadCondition p body
  | 23 => readReadSummary p body
  | 24 => readAcknowledge p body
  | _ => .unknownOrderCode p code

/-- The command that the frame at the head of some bytes spells, and the bytes after it: a length above 1,024 is a
framing failure whose body is not read; a check that does not match is a framing failure (R145, R156). None: the bytes
do not begin with a whole frame. -/
def decodeFrame (p : PortId) : List Byte → Option (Instr × List Byte)
  | 171#8 :: 205#8 :: code :: l1 :: l0 :: rest =>
      let len := beNat [l1, l0]
      if 1024 < len then some (.framingFailure p code.toNat, rest)
      else
        match rest.drop len with
        | k1 :: k0 :: after =>
            let body := rest.take len
            if frameCheck (code :: l1 :: l0 :: body) = BitVec.ofNat 16 (beNat [k1, k0]) then
              some (readOrder p code.toNat body, after)
            else some (.framingFailure p code.toNat, after)
        | _ => none
  | _ => none

/-- The start mark of an order frame (R156). -/
def startMark : List Byte := [171, 205]

/-- The next frame of the bytes arriving on port `p`: bytes that do not begin a start mark are discarded, and the bytes
after the frame are left (R145). None while no frame has arrived whole. -/
def nextFrame (p : PortId) (bytes : List Byte) : Option (Instr × List Byte) := decodeFrame p (hunt startMark bytes)

/-- Up to `n` frames from the bytes arriving on port `p`, and the bytes left, which may begin a frame (R145). -/
def takeFrames (p : PortId) : Nat → List Byte → List Instr × List Byte
  | 0, bytes => ([], hunt startMark bytes)
  | n + 1, bytes =>
      match nextFrame p bytes with
      | none => ([], hunt startMark bytes)
      | some (i, rest) => (i :: (takeFrames p n rest).1, (takeFrames p n rest).2)

/-- Every frame of the bytes that arrive on port `p` while its link is UP. What is left is a frame partly received, which
is discarded when the link goes DOWN (R145). -/
def readLine (p : PortId) (bytes : List Byte) : List Instr × List Byte := takeFrames p bytes.length bytes

/-! ### Writing an order frame (R156) -/

/-- The value a selector has on the line, where `v` is the row's own. -/
def Selector.value (v : Nat) : Selector → Nat
  | .named => v
  | .other w => w

/-- One byte of a field. -/
def byteOf (n : Nat) : Byte := BitVec.ofNat 8 n

/-- The code and the body of an order frame; none for a command that no well-formed order frame brings. -/
def orderBody : Instr → Option (Frame × Nat × List Byte)
  | .defineCarrier f c q t a => some (f, 1, byteOf c :: (beBytes 4 q ++ beBytes 4 t ++ beBytes 2 a))
  | .setCarrierOn f c sel => some (f, 2, [byteOf c, byteOf (sel.value 0)])
  | .setCarrierOff f c => some (f, 2, [byteOf c, 1])
  | .readCarrier f c => some (f, 3, [byteOf c])
  | .defineProgramme f n c g w fl k =>
      some (f, 4, [byteOf n, byteOf c, byteOf g] ++ beBytes 2 w ++ beBytes 2 fl ++ beBytes 2 k)
  | .setProgrammeLive f n sel => some (f, 5, [byteOf n, byteOf (sel.value 0)])
  | .setProgrammeIdle f n => some (f, 5, [byteOf n, 1])
  | .setProgrammeUnused f n => some (f, 5, [byteOf n, 2])
  | .readProgramme f n => some (f, 6, [byteOf n])
  | .defineGroup f g r prefs m l pol =>
      some (f, 7, [byteOf g, r, byteOf prefs.length] ++ prefs.map byteOf ++ beBytes 2 m ++ beBytes 2 l ++ [byteOf pol])
  | .releaseGroup f g => some (f, 8, [byteOf g])
  | .restartGroup f g => some (f, 9, [byteOf g])
  | .readGroup f g => some (f, 10, [byteOf g])
  | .setAllowance f n c a => some (f, 11, [byteOf n, byteOf c] ++ beBytes 2 a)
  | .restartPart f => some (f, 12, [])
  | .attach f o => some (f, 13, [o.mask, byteOf o.lead])
  | .detach f => some (f, 14, [])
  | .planAck f g n o => some (f, 15, [byteOf g, byteOf n, o.mask, byteOf o.lead])
  | .fetchKeyActive f g sel => some (f, 16, [byteOf g, byteOf (sel.value 0)])
  | .fetchKeyPending f g => some (f, 16, [byteOf g, 1])
  | .submitAccess f g s body => some (f, 17, byteOf g :: (beBytes 2 s.toNat ++ beBytes 2 body.length ++ body))
  | .probeGroup f g => some (f, 18, [byteOf g])
  | .openBatch f p n => some (f, 19, byteOf p :: beBytes 2 n)
  | .submitSubscriber f body m u => some (f, 20, beBytes 2 body.length ++ body ++ [m, byteOf u])
  | .readTime f => some (f, 21, [])
  | .readCondition f => some (f, 22, [])
  | .readSummary f => some (f, 23, [])
  | .acknowledgeBatchEnd f k o => some (f, 24, [byteOf (k.value 2), byteOf o])
  | .acknowledgeGroupAlert f o => some (f, 24, [3, byteOf o])
  | .acknowledgeCarrierAlert f o => some (f, 24, [4, byteOf o])
  | _ => none

/-- The bytes of a frame with a code and a body. -/
def frameBytes (code : Nat) (body : List Byte) : List Byte :=
  let covered := byteOf code :: (beBytes 2 body.length ++ body)
  startMark ++ covered ++ beBytes 2 (frameCheck covered).toNat

/-- The frame that brings a command, where one does. -/
def encodeFrame (i : Instr) : Option (List Byte) :=
  (orderBody i).map (fun (_, code, body) => frameBytes code body)

/-! ### Ingest links (R157) -/

/-- The sync mark and the idle mark. -/
def syncMark : List Byte := [71, 182, 29, 232]
def idleMark : List Byte := [71, 182, 29, 0]

/-- What a position of the byte stream carries: a sync mark, an idle mark, or neither (R21, R157). -/
inductive LinkMark where
  | sync | idle | neither
  deriving DecidableEq, Repr, Inhabited

/-- What the four bytes at a position are; none until they have arrived. -/
def markAt (bytes : List Byte) : Option LinkMark :=
  if bytes.length < 4 then none
  else if bytes.take 4 = syncMark then some .sync
  else if bytes.take 4 = idleMark then some .idle
  else some .neither

/-- The fields of a 14-byte unit header. -/
def decodeHeader : List Byte → Option UnitHeader
  | 71#8 :: 182#8 :: 29#8 :: 232#8 :: slot :: kind :: q1 :: q0 :: z3 :: z2 :: z1 :: z0 :: x1 :: [x0] =>
      some ⟨slot, kind, q1 ++ q0, z3 ++ z2 ++ z1 ++ z0, x1 ++ x0⟩
  | _ => none

/-- The 14 bytes of a unit header. -/
def encodeHeader (h : UnitHeader) : List Byte :=
  syncMark ++ [h.slotCode, h.kind] ++ beBytes 2 h.sequence.toNat ++ beBytes 4 h.size.toNat
    ++ beBytes 2 h.complexity.toNat

/-- The search of a SEARCHING link: the sync mark is looked for at every byte position, and an idle mark does not lock the
link; the command of the mark found with the header that begins with it, and the bytes after the header (R19, R157).
None while no header has arrived whole: the link is LOCKED with the header's last byte, not with the mark's (log entry
41). -/
def searchLink (l : LinkNo) (bytes : List Byte) : Option (Instr × List Byte) :=
  let found := hunt syncMark bytes
  (decodeHeader (found.take 14)).map (fun h => (.syncMarkFound l h, found.drop 14))

/-- A LOCKED link where a header must begin: idle marks are passed, a sync mark begins the header, and anything else is a
missing sync mark, after which the link searches on (R21, R157). The command and the bytes left to read; none while too
few have arrived. A missing sync mark leaves its four bytes: the search begins at the first of them and examines them
again. DESIGN CHOICE: the spec does not say whether bytes already examined are searched again (log entry 43). -/
def nextHeader (l : LinkNo) : List Byte → Option (Instr × List Byte)
  | a :: b :: c :: d :: rest =>
      match markAt [a, b, c, d] with
      | some .idle => nextHeader l rest
      | some .sync =>
          (decodeHeader ((a :: b :: c :: d :: rest).take 14)).map
            (fun h => (.headerTaken l h, (a :: b :: c :: d :: rest).drop 14))
      | _ => some (.missingSyncMark l, a :: b :: c :: d :: rest)
  | _ => none

/-- A LOCKED link at the byte position after a unit's last body byte: a sync mark or an idle mark there completes the
unit, anything else is a runaway (R27, R28). None while too few bytes have arrived. It takes no byte: after a runaway the
search begins at this position, whose bytes are examined again. DESIGN CHOICE: the spec does not say whether they are
(log entry 43). -/
def bodyEnd (l : LinkNo) (bytes : List Byte) : Option Instr :=
  match markAt bytes with
  | some .neither => some (.runawayUnit l)
  | some _ => some (.unitCompletion l)
  | none => none

/-! ### The opcode table -/

/-- The command that a table word spells: the table gives no row bits, so none is spelled (log entry 30). -/
def decodeTableWord (_nbits _w : Nat) : Option Instr := none

end Sys2Proof
end

