-- ==== Sys2Proof/Config.lean ====
section
/-! DEFINITION. The constants of the part, and the FREE VALUES: what the spec leaves open, as constants without a
body, so that no proof can rest on a value of theirs. -/

namespace Sys2Proof

/-- Cells of the cell store (R32). -/
def Config.cellCount : Nat := 32768
/-- Bytes of one cell (R25). -/
def Config.cellBytes : Nat := 2048
/-- Payload bytes of one slice (R158). -/
def Config.payloadBytes : Nat := 248
/-- Bits of one slice on the carrier output: 256 bytes (R5, R158). -/
def Config.sliceBits : Nat := 2048
/-- The divisor of the budget: 2,048 bits per slice times 1,000,000 µs per second (R5, R38). -/
def Config.budgetDivisor : Nat := 2048000000
/-- Most units of a programme queue (R30, R31). -/
def Config.queueLimit : Nat := 8
/-- Most entries of a subscriber queue (R124). -/
def Config.subscriberLimit : Nat := 64
/-- Most non-UNUSED programmes naming one carrier (R11, R14). -/
def Config.programmesPerCarrier : Nat := 24
/-- Microseconds of one second, and of one millisecond (scope 1.6). -/
def Config.second : Nat := 1000000
def Config.millisecond : Nat := 1000
/-- The step of a deferred changeover, 1,000 ms (R92). -/
def Config.extension : Nat := 1000000
/-- The restart completes before station time reaches this value (R155). -/
def Config.restartLimit : Nat := 10000
/-- Largest value of a condition record's counts (R150) and of the carrier counters (R10). -/
def Config.count16Max : Nat := 65535
def Config.count32Max : Nat := 4294967295
/-- The value of every pad byte (R159). -/
def Config.padByte : Byte := 255

/-- DESIGN CHOICE (unsafe, log entry 5): what a byte of picture memory that nothing has written reads as. The spec
gives the memory no contents after power-on. -/
def Config.unwrittenByte : Byte := 0

/-- A sequence that names the number of a reseeding: different numbers have different names. -/
def Config.seedName (seed : Nat) : Nat → Key := fun i => if i < seed then 1 else 0

/-- FREE VALUE (log entry 7): which sequence of keys the generator produces for a name. A permutation: R79 gives the
sequence no values, but it is not repeated from one reset to the next. -/
opaque Config.keySequence : Equiv.Perm (Nat → Key)

/-- Draw number `index` of the key generator after its reseeding number `seed` (R79). -/
def Config.keyDraw (seed index : Nat) : Key := Config.keySequence (Config.seedName seed) index

/-- The inputs of a keystream beside its key, as one number: the programme number and the continuity count (R136). -/
def Config.streamName (programme : ProgrammeNo) (continuity : BitVec 4) : BitVec 1984 :=
  BitVec.ofNat 1984 (programme.val * 16 + continuity.toNat)

/-- FREE VALUE (log entry 8): the 248 bytes that the slice cipher derives under a key from the name of its other inputs.
A permutation: keystreams differ where continuity counts or programme numbers do (R136). The scope file leaves the
derivation out. -/
opaque Config.keystream (key : Key) : Equiv.Perm (BitVec 1984)

/-- Byte `i` of the keystream of a key, a programme number and a continuity count (R136). -/
def Config.keystreamByte (key : Key) (programme : ProgrammeNo) (continuity : BitVec 4) (i : Nat) : Byte :=
  (Config.keystream key (Config.streamName programme continuity)).extractLsb' (8 * i) 8

/-- FREE VALUE (log entry 9): the picture of `body` requantised for `grant` slices. R65 gives its greatest length;
the scope file leaves the method out. -/
opaque Config.requantise (body : List Byte) (grant : Nat) : List Byte

/-- FREE VALUE (log entry 10): whether the shrink operation at the head of a carrier's list completes at this
station time. R64 says only that it completes later than its event and before the next boundary. -/
opaque Config.shrinkDone (carrier : CarrierNo) (time : Time) : Bool

/-- FREE VALUE (log entry 10): whether a restart in progress completes at this station time. R155 says only that it
completes before station time reaches 10,000 µs. -/
opaque Config.restartDone (time : Time) : Bool

/-- FREE VALUE (log entry 12): where an event is taken among those falling due at one station time (R1: either
order). -/
opaque Config.dueOrder (index : Nat) : Nat

/-- FREE VALUE (log entry 6): what the station clock reads after its 64-bit maximum; no wrap is defined (R1). -/
opaque Config.clockAfterMaximum (index : Nat) : BitVec 64

end Sys2Proof
end

