-- ==== Sys2Proof/Machine/State.lean ====
section
/-! DEFINITION. The state of the FT4806: every record, list, queue, store, count and flag the spec gives its thirteen
blocks (scope 1.3), as plain data; the reasons a step can stop; the state right after power-on. -/

namespace Sys2Proof.Machine

/-! ### Carriers (R3, R10) -/

/-- The definition of a carrier: rate Q, interval T, access reserve A, guaranteed budget S_min (R3, R4, R5). -/
structure CarrierDef where
  rate       : Nat
  interval   : Nat
  reserve    : Nat
  guaranteed : Nat
  deriving DecidableEq, Repr, Inhabited

/-- The states of a carrier, in the order of R3. -/
inductive CarrierState where
  | off | armed | onAir | draining
  deriving DecidableEq, Repr, Inhabited

/-- The seven counters of a carrier record, 32 bits, saturating (R10). -/
structure Counters where
  filler           : Nat
  unitsShrunk      : Nat
  bridgesDropped   : Nat
  forwardsDropped  : Nat
  anchorsHeld      : Nat
  anchorsDiscarded : Nat
  resyncDiscarded  : Nat
  deriving DecidableEq, Repr, Inhabited

/-- The phase of a key slot: its letter (R77). -/
inductive Phase where
  | a | b
  deriving DecidableEq, Repr, Inhabited

/-- The kinds of picture unit, in the order of R22. -/
inductive UnitKind where
  | anchor | forward | bridge
  deriving DecidableEq, Repr, Inhabited

/-- A unit record of the unit store (R31). -/
structure UnitRecord where
  programme  : ProgrammeNo
  kind       : UnitKind
  size       : Nat
  complexity : Nat
  cells      : List CellNo
  deriving DecidableEq, Repr, Inhabited

/-- One entry of a directory record: a programme, its group or clear, and its three flags (R39). -/
structure DirectoryEntry where
  programme : ProgrammeNo
  group     : Option GroupNo
  repeated  : Bool
  held      : Bool
  blanked   : Bool
  deriving DecidableEq, Repr, Inhabited

/-- The copy of an access packet in an emission list (R119). -/
structure AccessCopy where
  group  : GroupNo
  phase  : Phase
  member : PortNo
  serial : Serial
  slices : Nat
  body   : List Byte
  deriving DecidableEq, Repr, Inhabited

/-- The copy of a subscriber packet in an emission list (R129). -/
structure SubscriberCopy where
  port   : PortNo
  body   : List Byte
  urgent : Bool
  deriving DecidableEq, Repr, Inhabited

/-- The states of a programme entry in a building list (R63). An EMITTING entry stands in the emitting list. -/
inductive EntryState where
  | shrinking | ready
  deriving DecidableEq, Repr, Inhabited

/-- A programme entry of an emission list (R62): its recorded group, its unit with the cells it holds, its grant and
its shrink step. The programme number is the unit's. -/
structure ProgrammeEntry where
  group : Option GroupNo
  unit  : UnitRecord
  grant : Nat
  step  : Nat
  state : EntryState
  deriving DecidableEq, Repr, Inhabited

/-- An emission list as an allocation event builds it (R57, R62). -/
structure EmissionList where
  directory   : List DirectoryEntry
  access      : List AccessCopy
  subscribers : List SubscriberCopy
  entries     : List ProgrammeEntry
  filler      : Nat
  deriving DecidableEq, Repr, Inhabited

/-- The body of a directory slice, as the boundary completes it (R139). -/
structure DirectoryBody where
  station  : BitVec 4
  carrier  : CarrierNo
  interval : BitVec 32
  final    : Bool
  entries  : List DirectoryEntry
  deriving DecidableEq, Repr, Inhabited

/-- What is still to be emitted of an emitting list, in emission order (R134; log entry 31). -/
inductive Item where
  /-- The directory slice. -/
  | directory (body : DirectoryBody)
  /-- An access packet from part `part` on. -/
  | access (copy : AccessCopy) (part : Nat)
  /-- A subscriber packet. -/
  | subscriber (copy : SubscriberCopy)
  /-- An EMITTING programme entry with its boundary capture, phase and key (R135), and the slices emitted so far. -/
  | programme (entry : ProgrammeEntry) (capture : Option (Phase × Key)) (sent : Nat)
  /-- `n` filler slices. -/
  | filler (n : Nat)
  deriving DecidableEq, Repr, Inhabited

/-- A copy of an emitting list whose last slice has been emitted: it stays until the list ends with its interval
(R140). -/
inductive EmittedCopy where
  | access (copy : AccessCopy)
  | subscriber (copy : SubscriberCopy)
  deriving DecidableEq, Repr, Inhabited

/-- The kinds of slice (R137). -/
inductive SliceKind where
  | directory | access | subscriber | programme | filler
  deriving DecidableEq, Repr, Inhabited

/-- A slice with its stamped header (R137) and its payload. -/
structure Slice where
  kind       : SliceKind
  source     : Nat
  phase      : Option Phase
  continuity : BitVec 4
  unitStart  : Bool
  step       : Nat
  group      : Nat
  serial     : Serial
  part       : Nat
  parts      : Nat
  fill       : Nat
  payload    : List Byte
  deriving DecidableEq, Repr, Inhabited

/-- An entry of a carousel list (R113). -/
structure CarouselEntry where
  group  : GroupNo
  phase  : Phase
  member : PortNo
  slices : Nat
  due    : Time
  deriving DecidableEq, Repr, Inhabited

/-- A carrier: its record (R3), its emission lists (R62), its carousel list (R113), and its output assembler's
transmit buffer (R133). -/
structure Carrier where
  definition   : Option CarrierDef
  allowances   : Vector Nat 4
  state        : CarrierState
  nextBoundary : Option Time
  interval     : BitVec 32
  fraction     : Nat
  rotate       : ProgrammeNo
  degraded     : Bool
  counters     : Counters
  building     : Option EmissionList
  emitting     : Option (List Item)
  /-- The access and subscriber copies of the emitting list whose last slice has been emitted (R140). -/
  emitted      : List EmittedCopy
  carousel     : List CarouselEntry
  /-- The transmit buffer, the slice on the line first: at most two slices (R133). -/
  buffer       : List Slice
  /-- Bits of the first slice of the buffer that the line has sent. -/
  bitsSent     : Nat
  /-- The part of a bit the line has sent, in millionths. -/
  bitPart      : Nat
  deriving DecidableEq, Repr, Inhabited

/-! ### Programmes (R13) -/

/-- The states of a programme, in the order of R13. -/
inductive ProgrammeState where
  | unused | idle | live | resync
  deriving DecidableEq, Repr, Inhabited

/-- The definition of a programme; the group is none for a clear programme (R13). -/
structure ProgrammeDef where
  carrier : CarrierNo
  group   : Option GroupNo
  weight  : Nat
  floor   : Nat
  cap     : Nat
  deriving DecidableEq, Repr, Inhabited

/-- A programme record (R13) and its programme queue, head first (R31). -/
structure Programme where
  state      : ProgrammeState
  definition : Option ProgrammeDef
  /-- The expected sequence; none is the flag reading invalid. -/
  expected   : Option (BitVec 16)
  held       : Nat
  continuity : BitVec 4
  queue      : List UnitRecord
  deriving DecidableEq, Repr, Inhabited

/-! ### Ingest (R19, R25) -/

/-- The states of an ingest link, in the order of R19. -/
inductive LinkState where
  | down | searching | locked
  deriving DecidableEq, Repr, Inhabited

/-- The partial unit record of a RECEIVING context (R25). -/
structure PartialUnit where
  programme  : ProgrammeNo
  kind       : UnitKind
  sequence   : BitVec 16
  size       : Nat
  complexity : Nat
  received   : Nat
  cells      : List CellNo
  deriving DecidableEq, Repr, Inhabited

/-- A reassembly context: EMPTY, RECEIVING, or SKIPPING the bytes left (R25). -/
inductive Reassembly where
  | empty
  | receiving (u : PartialUnit)
  | skipping (left : Nat)
  deriving DecidableEq, Repr, Inhabited

/-- An ingest link. `signal` is the input: whether the line carries a signal now. -/
structure IngestLink where
  signal  : Bool
  state   : LinkState
  context : Reassembly
  deriving DecidableEq, Repr, Inhabited

/-! ### Groups (R76) -/

/-- The standard period lengths 6, 10, 15, 20, 30, 45, 60 and 120 s (R76). -/
inductive Period where
  | s6 | s10 | s15 | s20 | s30 | s45 | s60 | s120
  deriving DecidableEq, Repr, Inhabited

/-- The late policies, in the order of R76. -/
inductive LatePolicy where
  | hold | blank
  deriving DecidableEq, Repr, Inhabited

/-- The states of a group, in the order of R76. -/
inductive GroupState where
  | free | planning | starting | running | extended | frozen
  deriving DecidableEq, Repr, Inhabited

/-- The roles of an access port in a group, in the order of R76. -/
inductive Role where
  | notMember | absent | excluded | joining | joined
  deriving DecidableEq, Repr, Inhabited

/-- The plan statuses, in the order of R76. -/
inductive PlanStatus where
  | none | proposed | agreed | fault
  deriving DecidableEq, Repr, Inhabited

/-- The slot states, in the order of R77. They are computed from a slot's conditions (log entry 13). -/
inductive SlotState where
  | empty | issued | covered | aired | active
  deriving DecidableEq, Repr, Inhabited

/-- A plan: a period length and a lead time in seconds (R102). -/
structure Plan where
  period : Period
  lead   : Nat
  deriving DecidableEq, Repr, Inhabited

/-- The definition of a group (R76, R80). -/
structure GroupDef where
  roster     : PortSet
  preference : List Period
  repeatMs   : Nat
  limit      : Nat
  policy     : LatePolicy
  deriving DecidableEq, Repr, Inhabited

/-- The plan record of a group (R102). -/
structure PlanRecord where
  number   : BitVec 8
  status   : PlanStatus
  proposed : Option Plan
  agreed   : Option Plan
  deriving DecidableEq, Repr, Inhabited

/-- A stored access packet: its body and its aired set (R88). Its member and its serial are those of the place that
holds it; its length and slice count are its body's. -/
structure Packet where
  body  : List Byte
  aired : CarrierSet
  deriving DecidableEq, Repr, Inhabited

/-- A key slot that holds a key: its serial, its key and the packets stored for it, one place per member (R76, R77,
R88). An EMPTY slot is none. -/
structure KeySlot where
  serial  : Serial
  key     : Key
  packets : Vector (Option Packet) 4
  deriving DecidableEq, Repr, Inhabited

/-- A group record (R76). `active` names the ACTIVE slot, so at most one slot is ACTIVE (R77). -/
structure Group where
  state          : GroupState
  definition     : Option GroupDef
  roles          : Vector Role 4
  plan           : PlanRecord
  /-- The plan that the start or the latest swap applied: RESTART GROUP takes its lead time (R109; log entry 37). -/
  applied        : Option Plan
  slotA          : Option KeySlot
  slotB          : Option KeySlot
  active         : Option Phase
  lastChangeover : Option Time
  nextChangeover : Option Time
  drawTime       : Option Time
  startTime      : Option Time
  extensions     : Nat
  deriving DecidableEq, Repr, Inhabited

/-! ### Replies (R146, R156) -/

/-- The refusal codes 1 to 15, in the order of R156. -/
inductive RefusalCode where
  | busy | check | unknown | notPermitted | range | state | overBudget | exceptionPending | detached | stale
  | length | queueFull | noBatch | batchSpent | noCarrier
  deriving DecidableEq, Repr, Inhabited

/-- The states of an access port, in the order of R148. -/
inductive PortState where
  | detached | ready | exception
  deriving DecidableEq, Repr, Inhabited

/-- The states of the manager port, in the order of R148. -/
inductive ManagerState where
  | ready | exception
  deriving DecidableEq, Repr, Inhabited

/-- A named cause of a condition record (R150, R156). -/
inductive Cause where
  | late (g : GroupNo)
  | excluded (g : GroupNo)
  | groupFrozen (g : GroupNo)
  | storeExhausted
  | linkFault (l : LinkNo)
  deriving DecidableEq, Repr, Inhabited

/-- A named attention flag (R152, R156). -/
inductive Flag where
  | keyWaiting (g : GroupNo)
  | planWaiting (g : GroupNo)
  | batchEnd
  | groupAlert (g : GroupNo)
  | carrierAlert (c : CarrierNo)
  deriving DecidableEq, Repr, Inhabited

/-- The reply to READ CARRIER (R10). -/
structure CarrierReport where
  definition   : Option CarrierDef
  allowances   : Vector Nat 4
  state        : CarrierState
  nextBoundary : Option Time
  interval     : BitVec 32
  fraction     : Nat
  rotate       : ProgrammeNo
  degraded     : Bool
  counters     : Counters
  programmes   : Nat
  committed    : Option Nat
  spare        : Option Nat
  deriving DecidableEq, Repr, Inhabited

/-- The reply to READ PROGRAMME (R18). -/
structure ProgrammeReport where
  programme    : ProgrammeNo
  state        : ProgrammeState
  definition   : Option ProgrammeDef
  queued       : Nat
  reassembling : Bool
  expected     : Option (BitVec 16)
  held         : Nat
  continuity   : BitVec 4
  deriving DecidableEq, Repr, Inhabited

/-- What READ GROUP shows of a stored packet: length, slice count, aired set (R83). -/
structure PacketReport where
  length : Nat
  slices : Nat
  aired  : CarrierSet
  deriving DecidableEq, Repr, Inhabited

/-- What READ GROUP shows of a slot (R83): never its key. -/
structure SlotReport where
  state   : SlotState
  serial  : Option Serial
  packets : Vector (Option PacketReport) 4
  deriving DecidableEq, Repr, Inhabited

/-- The reply to READ GROUP (R83). -/
structure GroupReport where
  state          : GroupState
  definition     : Option GroupDef
  alert          : Bool
  number         : BitVec 8
  status         : PlanStatus
  agreed         : Option Plan
  roles          : Vector Role 4
  slotA          : SlotReport
  slotB          : SlotReport
  relevant       : CarrierSet
  lastChangeover : Option Time
  nextChangeover : Option Time
  drawTime       : Option Time
  startTime      : Option Time
  extensions     : Nat
  deriving DecidableEq, Repr, Inhabited

/-- The condition record of an access port (R150). -/
structure AccessCondition where
  restartSeen : Bool
  late        : Vector Bool 32
  excluded    : Vector Bool 32
  refused     : Nat
  lateCount   : Nat
  deriving DecidableEq, Repr, Inhabited

/-- The condition record of the manager port (R34, R150). -/
structure ManagerCondition where
  restartSeen     : Bool
  groupFrozen     : Vector Bool 32
  storeExhausted  : Bool
  linkFault       : Vector Bool 6
  refused         : Nat
  linkErrors      : Vector Nat 6
  ingestErrors    : Nat
  storeExhaustions : Nat
  deriving DecidableEq, Repr, Inhabited

/-- The key record of FETCH KEY (R87, R160). -/
structure KeyRecord where
  group          : GroupNo
  phase          : Phase
  serial         : Serial
  key            : Key
  nextChangeover : Option Time
  number         : BitVec 8
  deriving DecidableEq, Repr, Inhabited

/-- The body of a DONE reply, by the rule that owns the order. -/
inductive ReplyBody where
  | empty
  | guaranteed (sMin : Nat)
  | firstBoundary (t : Time)
  | carrierState (st : CarrierState)
  | carrier (r : CarrierReport)
  | committed (total : Nat)
  | programmeState (st : ProgrammeState)
  | programme (r : ProgrammeReport)
  | groupState (st : GroupState)
  | restarted (serial : Serial) (next : Option Time)
  | group (r : GroupReport)
  | place (n : Nat)
  | planAck (role : Role) (number : BitVec 8) (status : PlanStatus)
  | key (r : KeyRecord)
  | stored (phase : Phase) (slices : Nat)
  | probe (role : Role) (st : GroupState) (number : BitVec 8) (status : PlanStatus) (plan : Option Plan)
  | batch (count queued : Nat)
  | placed (carriers : CarrierSet) (head : Bool) (queued count : Nat)
  | time (t : Time) (station : BitVec 4)
  | managerCondition (r : ManagerCondition) (links : Vector LinkState 6)
  | accessCondition (r : AccessCondition) (st : PortState)
  | managerSummary (st : ManagerState) (restartSeen : Bool) (causes : Nat) (flags : List Flag)
  | accessSummary (st : PortState) (restartSeen : Bool) (causes : Nat) (flags : List Flag)
  | acknowledged (set : Bool)
  | restart (station : BitVec 4) (t : Time)
  deriving DecidableEq, Repr, Inhabited

/-- DONE with a body, or a refusal (R156). -/
inductive Response where
  | done (b : ReplyBody)
  | refused (r : RefusalCode)
  deriving DecidableEq, Repr, Inhabited

/-- A reply frame: the order code as received and the response (R145, R156). -/
structure Reply where
  code     : Nat
  response : Response
  deriving DecidableEq, Repr, Inhabited

/-! ### Order ports (R145, R146, R150, R152) -/

/-- What every order port holds of its line: the link, the order in hand, the reply or refusal being sent, the refusal
waiting (R145, R146). `signal` is the input: whether the line carries a signal now. `lostAt` is the MODEL's: the station
time at which the link last went DOWN for want of signal since the last reset (R132; log entry 19). -/
structure OrderLine where
  signal  : Bool
  up      : Bool
  inHand  : Option Order
  sending : Option Reply
  waiting : Option Reply
  lostAt  : Option Time
  deriving DecidableEq, Repr, Inhabited

/-- The manager port. -/
structure ManagerPort where
  line         : OrderLine
  state        : ManagerState
  condition    : ManagerCondition
  groupAlert   : Vector Bool 32
  carrierAlert : Vector Bool 4
  deriving DecidableEq, Repr, Inhabited

/-- An entry of a subscriber queue (R124); its length is its body's. -/
structure SubscriberEntry where
  body      : List Byte
  remaining : CarrierSet
  urgent    : Bool
  deriving DecidableEq, Repr, Inhabited

/-- An access port: its line, state, condition record and attention flags (R145 to R152), its recorded offer (R98), its
subscriber queue (R124) and its batch record, none when closed (R125). -/
structure AccessPort where
  line        : OrderLine
  state       : PortState
  condition   : AccessCondition
  keyWaiting  : Vector Bool 32
  planWaiting : Vector Bool 32
  batchEnd    : Bool
  offer       : Option Offer
  queue       : List SubscriberEntry
  batch       : Option Nat
  deriving DecidableEq, Repr, Inhabited

/-! ### The whole part -/

/-- Whether a RESTART PART is in hand, and whether its DONE reply is still to be sent (R149, R155). -/
inductive Restart where
  | idle
  | running (replyWanted : Bool)
  deriving DecidableEq, Repr, Inhabited

/-- The picture memory: (address, byte) pairs in rising order, none equal to what an unlisted address reads as. -/
abbrev Memory := List Host.Cell

structure State where
  /-- MODEL: the commands waiting, first in, first out. -/
  pending       : List Instr
  /-- Station time (R1). -/
  time          : Time
  /-- The station number (R2). -/
  stationNumber : BitVec 4
  /-- Whether the reset input is held low (R154). -/
  resetLow      : Bool
  /-- A restart in progress (R155). -/
  restart       : Restart
  carriers      : Vector Carrier 4
  programmes    : Vector Programme 48
  groups        : Vector Group 32
  links         : Vector IngestLink 6
  /-- The free cell list, head first (R32). -/
  freeCells     : List CellNo
  /-- The 64 MiB of picture memory (R25, R31). -/
  memory        : Memory
  /-- The attach order list, head first (R98). -/
  attachOrder   : List PortNo
  manager       : ManagerPort
  access        : Vector AccessPort 4
  /-- MODEL: reseedings of the key generator, and draws since the last (R79); they name the free values it gives. -/
  keySeed       : Nat
  keyIndex      : Nat
  /-- MODEL: the index of the next other free value. -/
  freeIndex     : Nat
  deriving DecidableEq, Repr

/-- Why the part stops with a fault. The spec gives every command its effect in every state, so there is none. -/
inductive Fault where
  deriving DecidableEq, Repr

/-- Why a command is refused a meaning. -/
inductive Refusal where
  /-- Raised by exec's arms for a command that has no meaning yet: safe, it stops where the part goes on. -/
  | notModelled (mnemonic : String)
  deriving DecidableEq, Repr

/-! ### Reset values -/

def Counters.zero : Counters := ⟨0, 0, 0, 0, 0, 0, 0⟩

/-- A carrier record after reset (R3, R62, R113, R133). -/
def Carrier.reset : Carrier where
  definition := none
  allowances := Vector.replicate 4 0
  state := .off
  nextBoundary := none
  interval := 0
  fraction := 0
  rotate := 0
  degraded := false
  counters := Counters.zero
  building := none
  emitting := none
  emitted := []
  carousel := []
  buffer := []
  bitsSent := 0
  bitPart := 0

/-- A programme record after reset (R13, R31). -/
def Programme.reset : Programme where
  state := .unused
  definition := none
  expected := none
  held := 0
  continuity := 0
  queue := []

/-- The plan record after reset (R76, R102). -/
def PlanRecord.reset : PlanRecord := ⟨0, .none, none, none⟩

/-- A group record after reset (R76). -/
def Group.reset : Group where
  state := .free
  definition := none
  roles := Vector.replicate 4 .notMember
  plan := PlanRecord.reset
  applied := none
  slotA := none
  slotB := none
  active := none
  lastChangeover := none
  nextChangeover := none
  drawTime := none
  startTime := none
  extensions := 0

/-- An ingest link after reset (R19, R25). -/
def IngestLink.reset : IngestLink := ⟨false, .down, .empty⟩

/-- A port's line after reset (R154). -/
def OrderLine.reset : OrderLine := ⟨false, false, none, none, none, none⟩

/-- The condition records after reset: causes absent, counts 0, restart-seen flag set (R154). -/
def AccessCondition.reset : AccessCondition := ⟨true, Vector.replicate 32 false, Vector.replicate 32 false, 0, 0⟩
def ManagerCondition.reset : ManagerCondition :=
  ⟨true, Vector.replicate 32 false, false, Vector.replicate 6 false, 0, Vector.replicate 6 0, 0, 0⟩

/-- The manager port after reset (R154). -/
def ManagerPort.reset : ManagerPort :=
  ⟨OrderLine.reset, .ready, ManagerCondition.reset, Vector.replicate 32 false, Vector.replicate 4 false⟩

/-- An access port after reset (R98, R124, R125, R154). -/
def AccessPort.reset : AccessPort where
  line := OrderLine.reset
  state := .detached
  condition := AccessCondition.reset
  keyWaiting := Vector.replicate 32 false
  planWaiting := Vector.replicate 32 false
  batchEnd := false
  offer := none
  queue := []
  batch := none

/-- The free list after reset: every cell in ascending order, cell 0 at the head (R32). -/
def allCells : List CellNo := (List.range' 0 Config.cellCount).map (Fin.ofNat 32768)

/-- The part right after power-on (R154), its strap pins reading 0 and no line carrying a signal (log entry 3). -/
def State.reset : State where
  pending := []
  time := 0
  stationNumber := 0
  resetLow := false
  restart := .idle
  carriers := Vector.replicate 4 Carrier.reset
  programmes := Vector.replicate 48 Programme.reset
  groups := Vector.replicate 32 Group.reset
  links := Vector.replicate 6 IngestLink.reset
  freeCells := allCells
  memory := []
  attachOrder := []
  manager := ManagerPort.reset
  access := Vector.replicate 4 AccessPort.reset
  keySeed := 0
  keyIndex := 0
  freeIndex := 0

end Sys2Proof.Machine
end

