-- ==== Sys2Proof/Machine/Ops.lean ====
section
/-! DEFINITION. The named operations over the tables, the picture memory, the free list and the programme queues that
the meanings share. -/

namespace Sys2Proof.Machine

/-! ### Arithmetic (scope 1.6) -/

/-- A quotient rounded up. -/
def ceilDiv (a b : Nat) : Nat := (a + b - 1) / b

/-- The first multiple of `unit` at or after `t`. -/
def ceilTo (unit t : Nat) : Nat := ceilDiv t unit * unit

/-- A count that stops at `most` (scope 1.6, "Counters"). -/
def bump (most n : Nat) : Nat := min (n + 1) most

/-- A count that stops at `most`, after `k` increases. -/
def bumpBy (most n k : Nat) : Nat := min (n + k) most

/-- A carrier counter after one increase, and after `k` (R10). -/
def count32 (n : Nat) : Nat := bump Config.count32Max n
def count32By (n k : Nat) : Nat := bumpBy Config.count32Max n k

/-- A condition record's count after one increase (R150). -/
def count16 (n : Nat) : Nat := bump Config.count16Max n

/-- Slices of a packet or unit of `bytes` bytes: divided by 248, rounded up (R45, R88). -/
def sliceCount (bytes : Nat) : Nat := ceilDiv bytes Config.payloadBytes

/-- Cells of a body of `bytes` bytes: divided by 2,048, rounded up (R25, R62). -/
def cellsFor (bytes : Nat) : Nat := ceilDiv bytes Config.cellBytes

/-! ### Sets of carriers, ports and lengths (R156) -/

/-- The set holding item `i` alone. -/
def bitAt {n : Nat} (i : Fin n) : BitVec n := BitVec.twoPow n i.val

def hasItem {n : Nat} (m : BitVec n) (i : Fin n) : Bool := m.getLsbD i.val
def addItem {n : Nat} (m : BitVec n) (i : Fin n) : BitVec n := m ||| bitAt i
def dropItem {n : Nat} (m : BitVec n) (i : Fin n) : BitVec n := m &&& ~~~ bitAt i

/-- The set of the items that meet `f`. -/
def setWhere {n : Nat} (f : Fin n → Bool) : BitVec n :=
  (List.finRange n).foldl (fun m i => if f i then addItem m i else m) 0

/-- Every item of `m` is in `k`. -/
def subset {n : Nat} (m k : BitVec n) : Bool := m &&& ~~~ k == 0

/-! ### The tables -/

def State.carrier (s : State) (c : CarrierNo) : Carrier := s.carriers[c.val]
def State.setCarrier (s : State) (c : CarrierNo) (k : Carrier) : State :=
  { s with carriers := s.carriers.set c.val k }

def State.programme (s : State) (p : ProgrammeNo) : Programme := s.programmes[p.val]
def State.setProgramme (s : State) (p : ProgrammeNo) (k : Programme) : State :=
  { s with programmes := s.programmes.set p.val k }

def State.group (s : State) (g : GroupNo) : Group := s.groups[g.val]
def State.setGroup (s : State) (g : GroupNo) (k : Group) : State :=
  { s with groups := s.groups.set g.val k }

def State.link (s : State) (l : LinkNo) : IngestLink := s.links[l.val]
def State.setLink (s : State) (l : LinkNo) (k : IngestLink) : State :=
  { s with links := s.links.set l.val k }

def State.port (s : State) (p : PortNo) : AccessPort := s.access[p.val]
def State.setPort (s : State) (p : PortNo) (k : AccessPort) : State :=
  { s with access := s.access.set p.val k }

/-! ### Picture memory (R25, R32) -/

/-- The byte at an address. -/
def Memory.read : Memory → Nat → Byte
  | [], _ => Config.unwrittenByte
  | (a, b) :: m, x => if a = x then b else Memory.read m x

/-- Store a byte, keeping the addresses rising and no entry equal to an unlisted byte. -/
def Memory.write : Memory → Nat → Byte → Memory
  | [], x, v => if v = Config.unwrittenByte then [] else [(x, v)]
  | (a, b) :: m, x, v =>
      if x < a then (if v = Config.unwrittenByte then (a, b) :: m else (x, v) :: (a, b) :: m)
      else if x = a then (if v = Config.unwrittenByte then m else (x, v) :: m)
      else (a, b) :: Memory.write m x v

/-- The entries lie above `low`, rise, and list no byte that an unlisted address reads as. -/
def Memory.wfFrom : Nat → Memory → Bool
  | _, [] => true
  | low, (a, b) :: m => low ≤ a && b != Config.unwrittenByte && Memory.wfFrom (a + 1) m

/-- The canonical form of the picture memory. -/
def Memory.wf (m : Memory) : Bool := Memory.wfFrom 0 m

/-- Store bytes from an address on. -/
def Memory.writeBytes : Memory → Nat → List Byte → Memory
  | m, _, [] => m
  | m, a, b :: bs => Memory.writeBytes (m.write a b) (a + 1) bs

/-- The address of a cell's first byte: a cell is a 2,048-byte block. -/
def cellBase (c : CellNo) : Nat := c.val * Config.cellBytes

/-- Byte `i` of a body held in `cells`, in cell-list order; past the cells there is none. -/
def bodyByte (m : Memory) (cells : List CellNo) (i : Nat) : Byte :=
  match cells[i / Config.cellBytes]? with
  | some c => m.read (cellBase c + i % Config.cellBytes)
  | none => Config.padByte

/-- `n` bytes of a body held in `cells`, from byte `i` on. -/
def bodyBytes (m : Memory) (cells : List CellNo) (i n : Nat) : List Byte :=
  (List.range n).map (fun k => bodyByte m cells (i + k))

/-- Write a body into cells, 2,048 bytes to a cell, in cell-list order (R25, R65). -/
def writeBody : Memory → List CellNo → List Byte → Memory
  | m, [], _ => m
  | m, c :: cs, body =>
      writeBody (m.writeBytes (cellBase c) (body.take Config.cellBytes)) cs (body.drop Config.cellBytes)

/-! ### The free cell list (R32) -/

/-- Return cells to the tail of the free list, in the order given. -/
def State.freeUp (s : State) (cells : List CellNo) : State := { s with freeCells := s.freeCells ++ cells }

/-! ### Programmes -/

/-- LIVE or RESYNC. -/
def Programme.serving (p : Programme) : Bool := p.state == .live || p.state == .resync

/-- A programme that is not UNUSED names the carrier (R11). -/
def Programme.names (p : Programme) (c : CarrierNo) : Bool :=
  p.state != .unused && (match p.definition with | some d => d.carrier == c | none => false)

/-- The programme's group, none when it is clear or UNUSED. -/
def Programme.group (p : Programme) : Option GroupNo := p.definition.bind (·.group)

/-- The programme becomes RESYNC. Between SET PROGRAMME LIVE and SET PROGRAMME IDLE alone it moves between LIVE and
RESYNC (R17), so an IDLE or UNUSED programme stays as it is (log entry 16). -/
def Programme.toResync (p : Programme) : Programme := if p.serving then { p with state := .resync } else p

def State.resync (s : State) (p : ProgrammeNo) : State := s.setProgramme p (s.programme p).toResync

/-- The carrier, by number, that a programme names. -/
def State.carrierOf (s : State) (p : ProgrammeNo) : Option CarrierNo := (s.programme p).definition.map (·.carrier)

/-- A programme is admitted when it is LIVE or RESYNC and its carrier is ARMED or ON_AIR (R17). -/
def State.admitted (s : State) (p : ProgrammeNo) : Bool :=
  (s.programme p).serving &&
    (match s.carrierOf p with
      | some c => (s.carrier c).state == .armed || (s.carrier c).state == .onAir
      | none => false)

/-- The cells of a list of units, head unit first, each in body order (R31). -/
def unitCells (us : List UnitRecord) : List CellNo := us.flatMap (·.cells)

/-- A programme's whole queue is discarded, head to tail, and its cells returned (R31). -/
def State.emptyQueue (s : State) (p : ProgrammeNo) : State :=
  let k := s.programme p
  (s.setProgramme p { k with queue := [] }).freeUp (unitCells k.queue)

/-- The head unit of a programme's queue is discarded and its cells returned (R31). -/
def State.dropHead (s : State) (p : ProgrammeNo) : State :=
  let k := s.programme p
  (s.setProgramme p { k with queue := k.queue.drop 1 }).freeUp (unitCells (k.queue.take 1))

/-- The programmes that are not UNUSED and name the carrier, in ascending number (R11, R39). -/
def State.programmesOf (s : State) (c : CarrierNo) : List ProgrammeNo :=
  (List.finRange 48).filter (fun p => (s.programme p).names c)

/-- A LIVE or RESYNC programme of the group names the carrier (R90, R113). -/
def State.carriesGroup (s : State) (c : CarrierNo) (g : GroupNo) : Bool :=
  (List.finRange 48).any
    (fun p => (s.programme p).serving && (s.programme p).names c && (s.programme p).group == some g)

/-- The relevant carrier set of a group: the ON_AIR carriers named by a LIVE or RESYNC programme of it (R77). -/
def State.relevant (s : State) (g : GroupNo) : CarrierSet :=
  setWhere (fun c => (s.carrier c).state == .onAir && s.carriesGroup c g)

/-! ### Admission (R11) -/

/-- The four allowances of a carrier together. -/
def Carrier.allowanceSum (k : Carrier) : Nat := k.allowances.toList.sum

/-- The floors of the non-UNUSED programmes that name the carrier. -/
def State.floorSum (s : State) (c : CarrierNo) : Nat :=
  ((s.programmesOf c).map (fun p => ((s.programme p).definition.map (·.floor)).getD 0)).sum

/-- The committed total of a carrier with access reserve `reserve` (R11). -/
def State.committedWith (s : State) (c : CarrierNo) (reserve : Nat) : Nat :=
  1 + reserve + (s.carrier c).allowanceSum + s.floorSum c

/-- The committed total of a carrier; an undefined carrier has none. -/
def State.committed (s : State) (c : CarrierNo) : Option Nat :=
  (s.carrier c).definition.map (fun d => s.committedWith c d.reserve)

/-- S_min = Q × T / 2,048,000,000, rounded down (R5). -/
def guaranteedBudget (rate interval : Nat) : Nat := rate * interval / Config.budgetDivisor

/-- The admission check of a carrier: it is defined and its committed total is at most S_min (R11). -/
def State.admits (s : State) (c : CarrierNo) : Bool :=
  match (s.carrier c).definition with
  | some d => decide (s.committedWith c d.reserve ≤ d.guaranteed)
  | none => false

/-! ### Free values -/

/-- The index of a fresh free value, and the state that has used it. -/
def State.fresh (s : State) : Nat × State := (s.freeIndex, { s with freeIndex := s.freeIndex + 1 })

end Sys2Proof.Machine
end

