-- ==== Sys2Proof/Machine/Operands.lean ====
section
/-! DEFINITION. The operand forms of the orders: the numbers, sets and choices an order's fields stand for, none where
the field is out of the range its rule gives (each owning rule refuses it RANGE). -/

namespace Sys2Proof

/-- An offer: a non-empty mask and a lead time of 1 to 30 s (R98, R99). -/
def Offer.valid (o : Offer) : Bool := o.mask != 0 && decide (1 ≤ o.lead ∧ o.lead ≤ 30)

end Sys2Proof

namespace Sys2Proof.Machine

/-- A record number below `n`. -/
def toIndex (n : Nat) (v : Nat) : Option (Fin n) := if h : v < n then some ⟨v, h⟩ else none

def toCarrier : Nat → Option CarrierNo := toIndex 4
def toPort : Nat → Option PortNo := toIndex 4
def toProgramme : Nat → Option ProgrammeNo := toIndex 48
def toGroup : Nat → Option GroupNo := toIndex 32

/-- A group number 0 to 31, or 255 for clear (R14, R156). -/
def toGroupOrClear (v : Nat) : Option (Option GroupNo) :=
  if v = 255 then some none else (toGroup v).map some

/-- Length of a standard period in seconds (R76). -/
def Period.seconds : Period → Nat
  | .s6 => 6 | .s10 => 10 | .s15 => 15 | .s20 => 20 | .s30 => 30 | .s45 => 45 | .s60 => 60 | .s120 => 120

/-- The bit of a length mask that stands for a standard period (R156). -/
def Period.index : Period → Fin 8
  | .s6 => 0 | .s10 => 1 | .s15 => 2 | .s20 => 3 | .s30 => 4 | .s45 => 5 | .s60 => 6 | .s120 => 7

/-- The standard period of a length in seconds. -/
def toPeriod : Nat → Option Period
  | 6 => some .s6 | 10 => some .s10 | 15 => some .s15 | 20 => some .s20 | 30 => some .s30 | 45 => some .s45
  | 60 => some .s60 | 120 => some .s120 | _ => none

/-- A preference list: 1 to 8 standard lengths, none twice (R80). -/
def toPreference (vs : List Nat) : Option (List Period) :=
  match vs.mapM toPeriod with
  | some ps => if 1 ≤ ps.length ∧ ps.length ≤ 8 ∧ ps.Nodup then some ps else none
  | none => none

/-- A one-byte set of ports or carriers, none where it names an item above 3 (R80, R126). -/
def toSet4 (m : BitVec 8) : Option (BitVec 4) := if m.toNat < 16 then some (m.setWidth 4) else none

/-- A roster: a non-empty set of access ports (R80). -/
def toRoster (m : BitVec 8) : Option PortSet :=
  match toSet4 m with
  | some r => if r = 0 then none else some r
  | none => none

/-- A late policy, HOLD 0 or BLANK 1 (R80, R156). -/
def toPolicy : Nat → Option LatePolicy
  | 0 => some .hold
  | 1 => some .blank
  | _ => none

/-- A yes-or-no field (R126, R156). -/
def toFlag : Nat → Option Bool
  | 0 => some false
  | 1 => some true
  | _ => none

/-- The definition DEFINE GROUP carries, where every field of it is in range (R80). -/
def toGroupDef (roster : BitVec 8) (preference : List Nat) (repeatMs limit policy : Nat) : Option GroupDef :=
  match toRoster roster, toPreference preference, toPolicy policy with
  | some r, some ps, some pol =>
      if 100 ≤ repeatMs ∧ repeatMs ≤ 1000 ∧ repeatMs % 10 = 0 ∧ 1 ≤ limit ∧ limit ≤ 60 then
        some ⟨r, ps, repeatMs, limit, pol⟩
      else none
  | _, _, _ => none

/-- The picture kind of a header's kind byte (R22, R157). -/
def toKind (b : Byte) : Option UnitKind :=
  match b.toNat with
  | 1 => some .anchor
  | 2 => some .forward
  | 3 => some .bridge
  | _ => none

/-- The slot of a slot code: the eight smallest six-bit values with exactly three bits set (R22, R157). -/
def toSlot (b : Byte) : Option (Fin 8) :=
  match b.toNat with
  | 7 => some 0
  | 11 => some 1
  | 13 => some 2
  | 14 => some 3
  | 19 => some 4
  | 21 => some 5
  | 22 => some 6
  | 25 => some 7
  | _ => none

/-- The programme of a slot on a link: link × 8 + slot (R22). -/
def programmeOf (l : LinkNo) (slot : Fin 8) : ProgrammeNo := ⟨l.val * 8 + slot.val, by omega⟩

/-- The ingest link a programme's units arrive on (R13). -/
def linkOf (p : ProgrammeNo) : LinkNo := ⟨p.val / 8, by omega⟩

end Sys2Proof.Machine
end

