-- ==== Sys2Proof/Machine/Flags.lean ====
section
/-! DEFINITION. The flags of the part: attention flags (R152), causes and counts of the condition records (R34, R150),
the port states causes lead to (R148), the alert condition of a group (R76), the attention lines (R152). -/

namespace Sys2Proof.Machine

/-! ### Attention flags of access ports -/

def State.setKeyWaiting (s : State) (p : PortNo) (g : GroupNo) (v : Bool) : State :=
  s.setPort p { s.port p with keyWaiting := (s.port p).keyWaiting.set g.val v }

def State.setPlanWaiting (s : State) (p : PortNo) (g : GroupNo) (v : Bool) : State :=
  s.setPort p { s.port p with planWaiting := (s.port p).planWaiting.set g.val v }

def State.setBatchEnd (s : State) (p : PortNo) (v : Bool) : State :=
  s.setPort p { s.port p with batchEnd := v }

/-- KEY_WAITING for a group is set on the port of every JOINING and JOINED member (R84, R86, R94). -/
def State.raiseKeyWaiting (s : State) (g : GroupNo) : State :=
  (List.finRange 4).foldl
    (fun s p =>
      if (s.group g).roles[p.val] == .joining || (s.group g).roles[p.val] == .joined then s.setKeyWaiting p g true
      else s) s

/-- KEY_WAITING for a group is cleared on every access port (R82, R85, R91). -/
def State.clearKeyWaiting (s : State) (g : GroupNo) : State :=
  (List.finRange 4).foldl (fun s p => s.setKeyWaiting p g false) s

/-! ### Attention flags of the manager port -/

def State.setGroupAlert (s : State) (g : GroupNo) (v : Bool) : State :=
  { s with manager := { s.manager with groupAlert := s.manager.groupAlert.set g.val v } }

def State.setCarrierAlert (s : State) (c : CarrierNo) (v : Bool) : State :=
  { s with manager := { s.manager with carrierAlert := s.manager.carrierAlert.set c.val v } }

/-- The alert condition of a group: EXTENDED, FROZEN, or plan status FAULT (R76). -/
def Group.alert (g : Group) : Bool :=
  g.state == .extended || g.state == .frozen || g.plan.status == .fault

/-! ### Causes (R148, R150) -/

/-- A cause added puts an attached access port into EXCEPTION. -/
def AccessPort.raised (k : AccessPort) : PortState := if k.state = .detached then .detached else .exception

/-- EXCLUDED for a group is added to a port's causes (R105). -/
def State.addExcluded (s : State) (p : PortNo) (g : GroupNo) : State :=
  let k := s.port p
  s.setPort p
    { k with
      state := k.raised
      condition := { k.condition with excluded := k.condition.excluded.set g.val true } }

/-- LATE for a group is added to a port's causes, and its late count increases (R92, R150). -/
def State.addLate (s : State) (p : PortNo) (g : GroupNo) : State :=
  let k := s.port p
  s.setPort p
    { k with
      state := k.raised
      condition :=
        { k.condition with
          late := k.condition.late.set g.val true
          lateCount := count16 k.condition.lateCount } }

/-- The manager port's condition record gains a cause, and the port enters EXCEPTION (R148). -/
def State.managerCause (s : State) (cond : ManagerCondition) : State :=
  { s with manager := { s.manager with state := .exception, condition := cond } }

/-- GROUP_FROZEN for a group (R81, R92). -/
def State.addGroupFrozen (s : State) (g : GroupNo) : State :=
  let k := s.manager.condition
  s.managerCause { k with groupFrozen := k.groupFrozen.set g.val true }

/-- STORE_EXHAUSTED, with its count (R26, R34). -/
def State.addStoreExhausted (s : State) : State :=
  let k := s.manager.condition
  s.managerCause { k with storeExhausted := true, storeExhaustions := count16 k.storeExhaustions }

/-- LINK_FAULT for an ingest link (R20). -/
def State.addLinkFault (s : State) (l : LinkNo) : State :=
  let k := s.manager.condition
  s.managerCause { k with linkFault := k.linkFault.set l.val true }

/-- A code or header error on a link: its error count and the ingest error count increase; no cause (R23, R34). -/
def State.countHeaderError (s : State) (l : LinkNo) : State :=
  let k := s.manager.condition
  { s with
    manager :=
      { s.manager with
        condition :=
          { k with
            linkErrors := k.linkErrors.set l.val (count16 k.linkErrors[l.val])
            ingestErrors := count16 k.ingestErrors } } }

/-! ### Lists of causes and flags, ascending by kind and then by object (R152; causes: log entry 21) -/

/-- The objects at which a table of flags is set, in ascending order. -/
def setAt {n : Nat} (v : Vector Bool n) : List (Fin n) := (List.finRange n).filter (fun i => v[i.val])

def AccessCondition.causes (k : AccessCondition) : List Cause :=
  (setAt k.late).map .late ++ (setAt k.excluded).map .excluded

def ManagerCondition.causes (k : ManagerCondition) : List Cause :=
  (setAt k.groupFrozen).map .groupFrozen ++ (if k.storeExhausted then [.storeExhausted] else [])
    ++ (setAt k.linkFault).map .linkFault

def AccessPort.flags (k : AccessPort) : List Flag :=
  (setAt k.keyWaiting).map .keyWaiting ++ (setAt k.planWaiting).map .planWaiting
    ++ (if k.batchEnd then [.batchEnd] else [])

def ManagerPort.flags (k : ManagerPort) : List Flag :=
  (setAt k.groupAlert).map .groupAlert ++ (setAt k.carrierAlert).map .carrierAlert

/-! ### Attention lines -/

/-- The attention line of a port: asserted while its flag set is not empty or the port is in EXCEPTION (R152); held
deasserted by the reset input and by a restart (R154, R155). -/
def State.attention (s : State) (p : PortId) : Bool :=
  !s.resetLow && s.restart == .idle &&
    (match p with
      | .manager => !s.manager.flags.isEmpty || s.manager.state == .exception
      | .access q => !(s.port q).flags.isEmpty || (s.port q).state == .exception)

end Sys2Proof.Machine
end

