-- ==== Sys2Proof/Machine/Frames.lean ====
section
/-! DEFINITION. How a frame becomes an accepted order or a refusal, and how replies leave a port (R145, R146, R147,
R149): the one operation that every order goes through. -/

namespace Sys2Proof

/-! ### Rights and port states (R147) -/

/-- The orders a manager port may send. -/
def Order.forManager : Order → Bool
  | .defineCarrier | .setCarrier | .readCarrier | .defineProgramme | .setProgramme | .readProgramme | .defineGroup
  | .releaseGroup | .restartGroup | .readGroup | .setAllowance | .restartPart => true
  | .attach | .detach | .planAck | .fetchKey | .submitAccess | .probeGroup | .openBatch | .submitSubscriber => false
  | .readTime | .readCondition | .readSummary | .acknowledge => true

/-- The orders an access port may send. -/
def Order.forAccess : Order → Bool
  | .defineCarrier | .setCarrier | .readCarrier | .defineProgramme | .setProgramme | .readProgramme | .defineGroup
  | .releaseGroup | .restartGroup | .readGroup | .setAllowance | .restartPart => false
  | .attach | .detach | .planAck | .fetchKey | .submitAccess | .probeGroup | .openBatch | .submitSubscriber => true
  | .readTime | .readCondition | .readSummary | .acknowledge => true

/-- The orders a kind of port may send (R147's table of rights). -/
def Order.allowedOn (o : Order) : PortId → Bool
  | .manager => o.forManager
  | .access _ => o.forAccess

/-- The orders a DETACHED access port accepts. -/
def Order.whileDetached (o : Order) : Bool := o == .attach || o == .readCondition || o == .readTime

/-- The orders a port in EXCEPTION accepts. -/
def Order.whileException (o : Order) : Bool := o == .readCondition || o == .readSummary || o == .readTime

end Sys2Proof

namespace Sys2Proof.Machine

/-! ### Lines -/

def State.line (s : State) : PortId → OrderLine
  | .manager => s.manager.line
  | .access p => (s.port p).line

def State.setLine (s : State) : PortId → OrderLine → State
  | .manager, l => { s with manager := { s.manager with line := l } }
  | .access p, l => s.setPort p { s.port p with line := l }

/-- The refused-order count of a port increases by 1 (R150). -/
def State.countRefusal (s : State) : PortId → State
  | .manager =>
      let k := s.manager.condition
      { s with manager := { s.manager with condition := { k with refused := count16 k.refused } } }
  | .access p =>
      let k := s.port p
      s.setPort p { k with condition := { k.condition with refused := count16 k.condition.refused } }

/-- A port is busy from taking a frame until the last byte of its reply or refusal has been sent; a RESTART PART in
hand keeps its port busy before its reply is built (R146, R155). -/
def OrderLine.busy (l : OrderLine) : Bool := l.sending.isSome || l.inHand.isSome

/-- The part takes frames on a port: the reset input is released (R154), and the line carries a signal (R145). -/
def State.hears (s : State) (p : PortId) : Bool := !s.resetLow && (s.line p).up

/-! ### Sending -/

/-- A port begins to send a reply or a refusal; `inHand` is the order it answers, none for a frame not accepted. -/
def State.send (s : State) (p : PortId) (inHand : Option Order) (r : Reply) : State :=
  s.setLine p { s.line p with inHand := inHand, sending := some r }

/-- A frame that is not accepted is refused: the refusal is counted and sent (R146, R147). -/
def State.refuse (s : State) (p : PortId) (code : Nat) (r : RefusalCode) : State :=
  (s.countRefusal p).send p none ⟨code, .refused r⟩

/-- An accepted order is answered: its reply is sent, and a refusal of the owning rule is counted (R146, R150). -/
def State.answer (s : State) (p : PortId) (o : Order) : Response → State
  | .done b => s.send p (some o) ⟨o.code, .done b⟩
  | .refused r => (s.countRefusal p).send p (some o) ⟨o.code, .refused r⟩

/-- A frame taken while the port is busy: counted as refused; its refusal waits if none is waiting (R146). -/
def State.refuseBusy (s : State) (p : PortId) (code : Nat) (r : RefusalCode) : State :=
  let t := s.countRefusal p
  if (t.line p).waiting.isSome then t
  else t.setLine p { t.line p with waiting := some ⟨code, .refused r⟩ }

/-- A frame reaches a port. On a line without signal, or while the reset input is low, there is no frame; while a
restart runs it is discarded, uncounted (R155); a busy port does not judge it (R146), not even a SUBMIT SUBSCRIBER that is
taken after a DETACH of the same station time, which R132 has refused DETACHED (log entry 42). -/
def State.takeFrame (s : State) (p : PortId) (code : Nat) (busyRefusal : RefusalCode) (judge : State → State) : State :=
  if !s.hears p then s
  else if s.restart != .idle then s
  else if (s.line p).busy then s.refuseBusy p code busyRefusal
  else judge s

/-! ### Acceptance (R147) -/

def State.portDetached (s : State) : PortId → Bool
  | .manager => false
  | .access p => (s.port p).state == .detached

def State.portException (s : State) : PortId → Bool
  | .manager => s.manager.state == .exception
  | .access p => (s.port p).state == .exception

/-- The checks a frame with a known order code passes before it is accepted; the first that fails gives the refusal
(R147). -/
def State.judge (s : State) (f : Frame) (o : Order) : Option RefusalCode :=
  if !o.allowedOn f.port then some .notPermitted
  else if s.portDetached f.port && !o.whileDetached then some .detached
  else if s.portException f.port && !o.whileException then some .exceptionPending
  else if !f.fits then some .range
  else none

/-- The frame of an order fell at the very station time at which its access port lost its link, and the loss is taken
first: the port, DETACHED by then, refuses it DETACHED (R132; log entry 19). -/
def State.fellWithLoss (s : State) (f : Frame) (o : Order) : Bool :=
  !s.resetLow && s.restart == .idle && !(s.line f.port).up && (s.line f.port).lostAt == some s.time
    && s.judge f o == some .detached

/-- An order frame reaches its port: refused, or accepted and handed to the rule that owns it, whose effect takes
place whole before the reply is built (R146, R147). The refusal of a frame that fell with the loss of its link is
counted, and with the link DOWN not sent (R132, R149, R150). -/
def State.takeOrder (s : State) (f : Frame) (o : Order) (effect : State → State × Response) : State :=
  if s.fellWithLoss f o then s.countRefusal f.port
  else
    s.takeFrame f.port o.code .busy fun s =>
      match s.judge f o with
      | some r => s.refuse f.port o.code r
      | none =>
          let (t, r) := effect s
          t.answer f.port o r

/-- An owning rule's refusal: the state stays. -/
def refused (s : State) (r : RefusalCode) : State × Response := (s, .refused r)

/-- An order of an access port, by its port number. The manager port never reaches one (R147). -/
def onAccess (f : Frame) (effect : PortNo → State → State × Response) (s : State) : State × Response :=
  match f.port with
  | .access p => effect p s
  | .manager => refused s .notPermitted

end Sys2Proof.Machine
end

