-- ==== Sys2Proof/Machine/Carousel.lean ====
section
/-! DEFINITION. The access packet carousel: entries joining and leaving the lists (R113 to R117), and the order and
extent of a take (R118). What a take does is in Allocation.lean. -/

namespace Sys2Proof.Machine

/-- Every carrier's list keeps the entries that `keep` names. -/
def State.keepEntries (s : State) (keep : CarouselEntry → Bool) : State :=
  { s with carriers := s.carriers.map (fun k => { k with carousel := k.carousel.filter keep }) }

/-- The entry of a name leaves every carrier's list (R116). -/
def State.removeEntry (s : State) (g : GroupNo) (ph : Phase) (p : PortNo) : State :=
  s.keepEntries (fun e => !(e.group == g && e.phase == ph && e.member == p))

/-- A slot's entries leave every carrier's list (R116). -/
def State.removeSlotEntries (s : State) (g : GroupNo) (ph : Phase) : State :=
  s.keepEntries (fun e => !(e.group == g && e.phase == ph))

/-- A member's entries of a group leave every carrier's list (R116). -/
def State.removeMemberEntries (s : State) (g : GroupNo) (p : PortNo) : State :=
  s.keepEntries (fun e => !(e.group == g && e.member == p))

/-- A group's entries leave every carrier's list (R116). -/
def State.removeGroupEntries (s : State) (g : GroupNo) : State := s.keepEntries (fun e => !(e.group == g))

/-- A carrier's list holds an entry in place of any of its name (R114). -/
def Carrier.place (k : Carrier) (e : CarouselEntry) : Carrier :=
  { k with
    carousel :=
      k.carousel.filter (fun x => !(x.group == e.group && x.phase == e.phase && x.member == e.member)) ++ [e] }

/-- A stored packet's entry is placed, due at once, on every ON_AIR carrier named by a LIVE or RESYNC programme of its
group (R88, R114). -/
def State.placeEverywhere (s : State) (e : CarouselEntry) : State :=
  (List.finRange 4).foldl
    (fun s c =>
      if (s.carrier c).state == .onAir && s.carriesGroup c e.group then s.setCarrier c ((s.carrier c).place e) else s)
    s

/-- The slot of a phase. -/
def Group.slot (g : Group) : Phase → Option KeySlot
  | .a => g.slotA
  | .b => g.slotB

def Group.setSlot (g : Group) : Phase → Option KeySlot → Group
  | .a, k => { g with slotA := k }
  | .b, k => { g with slotB := k }

/-- The entries of a group's stored packets, in both slots, due at a given time (R115). -/
def Group.entries (g : Group) (n : GroupNo) (due : Time) : List CarouselEntry :=
  [Phase.a, Phase.b].flatMap fun ph =>
    match g.slot ph with
    | none => []
    | some k =>
        (List.finRange 4).filterMap fun p =>
          k.packets[p.val].map fun pk => ⟨n, ph, p, sliceCount pk.body.length, due⟩

/-- A carrier gains a group: entries for every stored packet of it, due at that time (R115). -/
def State.gainGroup (s : State) (c : CarrierNo) (g : GroupNo) (due : Time) : State :=
  s.setCarrier c (((s.group g).entries g due).foldl Carrier.place (s.carrier c))

/-- A carrier loses a group: its entries leave the carrier's list (R117). -/
def State.loseGroup (s : State) (c : CarrierNo) (g : GroupNo) : State :=
  let k := s.carrier c
  s.setCarrier c { k with carousel := k.carousel.filter (fun e => !(e.group == g)) }

/-! ### The take (R118) -/

/-- The rank of an entry's phase within its group: the ACTIVE slot's entry before the pending one (R118). -/
def State.phaseRank (s : State) (e : CarouselEntry) : Nat :=
  match (s.group e.group).active with
  | some ph => if ph = e.phase then 0 else 1
  | none => match e.phase with | .a => 0 | .b => 1

/-- The order of a take: due time, group number, ACTIVE phase first, member number (R118). -/
def State.takesBefore (s : State) (x y : CarouselEntry) : Bool :=
  x.due < y.due || (x.due == y.due &&
    (x.group < y.group || (x.group == y.group &&
      (s.phaseRank x < s.phaseRank y || (s.phaseRank x == s.phaseRank y && x.member ≤ y.member)))))

/-- Put an entry into an ordered list. -/
def insertBy {α : Type} (le : α → α → Bool) (x : α) : List α → List α
  | [] => [x]
  | y :: ys => if le x y then x :: y :: ys else y :: insertBy le x ys

/-- A list put in order. -/
def sortBy {α : Type} (le : α → α → Bool) : List α → List α
  | [] => []
  | x :: xs => insertBy le x (sortBy le xs)

/-- The entries taken in order while the running total of slices stays within the reserve; the first that does not fit
ends the take (R118). -/
def takeWithin : Nat → List CarouselEntry → List CarouselEntry
  | _, [] => []
  | room, e :: es => if e.slices ≤ room then e :: takeWithin (room - e.slices) es else []

/-- The entries a carrier's take at boundary time `b` gives (R118). -/
def State.carouselTake (s : State) (c : CarrierNo) (reserve : Nat) (b : Time) : List CarouselEntry :=
  takeWithin reserve (sortBy s.takesBefore ((s.carrier c).carousel.filter (fun e => decide (e.due ≤ b))))

end Sys2Proof.Machine
end

