-- ==== Sys2Proof/Machine/Keys.lean ====
section
/-! DEFINITION. The key schedule (chapter 5): slot states, member roles, key draws, the orders on keys and access
packets, and the draw, start and changeover events. -/

namespace Sys2Proof.Machine

/-! ### Slots (R77) -/

def Phase.other : Phase → Phase
  | .a => .b
  | .b => .a

/-- The pending slot's phase: the slot that is not ACTIVE; slot A while none is (R77, R84). -/
def Group.pendingPhase (g : Group) : Phase :=
  match g.active with
  | some ph => ph.other
  | none => .a

def Group.pendingSlot (g : Group) : Option KeySlot := g.slot g.pendingPhase

/-- The ACTIVE slot, with its phase. -/
def Group.activeSlot (g : Group) : Option (Phase × KeySlot) :=
  g.active.bind (fun ph => (g.slot ph).map (fun k => (ph, k)))

/-- COVERED condition: some member is JOINED, and every JOINED member has a stored packet in the slot (R77). -/
def Group.covered (g : Group) (k : KeySlot) : Bool :=
  (List.finRange 4).any (fun p => g.roles[p.val] == .joined)
    && (List.finRange 4).all (fun p => g.roles[p.val] != .joined || k.packets[p.val].isSome)

/-- Every stored packet of the slot has every carrier of `relevant` in its aired set (R77). -/
def KeySlot.airedOn (k : KeySlot) (relevant : CarrierSet) : Bool :=
  (List.finRange 4).all (fun p =>
    match k.packets[p.val] with
    | some pk => subset relevant pk.aired
    | none => true)

/-- The state of a slot (R77). -/
def State.slotState (s : State) (g : GroupNo) (ph : Phase) : SlotState :=
  let grp := s.group g
  match grp.slot ph with
  | none => .empty
  | some k =>
      if grp.active = some ph then .active
      else if !grp.covered k then .issued
      else if !k.airedOn (s.relevant g) then .covered
      else .aired

/-- The pending slot is AIRED. -/
def State.pendingAired (s : State) (g : GroupNo) : Bool := s.slotState g (s.group g).pendingPhase == .aired

/-- What a recomputation of the pending slot leaves behind: the start time of a STARTING group, set when slot A becomes
AIRED to the first whole second at or after that moment, absent when slot A is not AIRED (R77, R84). -/
def State.recompute (s : State) (g : GroupNo) : State :=
  let grp := s.group g
  if grp.state = .starting then
    if s.slotState g .a = .aired then
      (match grp.startTime with
        | some _ => s
        | none => s.setGroup g { grp with startTime := some (ceilTo Config.second s.time) })
    else s.setGroup g { grp with startTime := none }
  else s

/-- The pending slots of every group are recomputed: the relevant sets may have changed (R90). -/
def State.recomputeAll (s : State) : State := (List.finRange 32).foldl State.recompute s

/-! ### Packets (R88, R89) -/

/-- A member's packet leaves a slot. -/
def KeySlot.dropPacket (k : KeySlot) (p : PortNo) : KeySlot := { k with packets := k.packets.set p.val none }

/-- A member's packets in both slots are deleted, and their carousel entries removed (R78, R89). -/
def State.deleteMemberPackets (s : State) (g : GroupNo) (p : PortNo) : State :=
  let grp := s.group g
  (s.setGroup g { grp with slotA := grp.slotA.map (·.dropPacket p), slotB := grp.slotB.map (·.dropPacket p) }).removeMemberEntries
    g p

/-- Every packet of every group loses a carrier from its aired set (R90). -/
def State.clearAired (s : State) (c : CarrierNo) : State :=
  let clear := fun (k : KeySlot) =>
    { k with packets := k.packets.map (fun pk => pk.map (fun x => { x with aired := dropItem x.aired c })) }
  { s with groups := s.groups.map (fun grp => { grp with slotA := grp.slotA.map clear, slotB := grp.slotB.map clear }) }

/-- An airing report: the carrier joins the packet's aired set, and the slot is recomputed (R90). -/
def State.reportAiring (s : State) (g : GroupNo) (ph : Phase) (p : PortNo) (c : CarrierNo) : State :=
  let grp := s.group g
  let add := fun (k : KeySlot) =>
    { k with packets := k.packets.set p.val (k.packets[p.val].map (fun x => { x with aired := addItem x.aired c })) }
  (s.setGroup g (grp.setSlot ph ((grp.slot ph).map add))).recompute g

/-! ### Roles (R78) -/

/-- JOINING or JOINED: the member may fetch keys and submit packets. -/
def Role.active : Role → Bool
  | .joining | .joined => true
  | .notMember | .absent | .excluded => false

/-- A member's role becomes `r` (R78): leaving JOINING or JOINED deletes its packets and clears KEY_WAITING; coming to
them with a key in the pending slot sets KEY_WAITING; a role that is neither clears PLAN_WAITING (R105, R110); the
pending slot is recomputed. -/
def State.setRole (s : State) (g : GroupNo) (p : PortNo) (r : Role) : State :=
  let grp := s.group g
  let old := grp.roles[p.val]
  let s := s.setGroup g { grp with roles := grp.roles.set p.val r }
  let s := if old.active && !r.active then (s.deleteMemberPackets g p).setKeyWaiting p g false else s
  let s := if !old.active && r.active && grp.pendingSlot.isSome then s.setKeyWaiting p g true else s
  let s := if !r.active then s.setPlanWaiting p g false else s
  s.recompute g

/-! ### The key generator (R79) -/

/-- A key is drawn; a draw equal to the key in use is discarded and another value, not equal to it, is drawn in its
place (R79). The values are free (log entry 7). -/
def State.drawKey (s : State) (inUse : Option Key) : Key × State :=
  let first := Config.keyDraw s.keySeed s.keyIndex
  if inUse = some first then
    let next := Config.keyDraw s.keySeed (s.keyIndex + 1)
    (first + 1 + BitVec.ofNat 96 (next.toNat % (2 ^ 96 - 1)), { s with keyIndex := s.keyIndex + 2 })
  else (first, { s with keyIndex := s.keyIndex + 1 })

/-- A new key slot, with no packet stored. -/
def KeySlot.fresh (serial : Serial) (key : Key) : KeySlot := ⟨serial, key, Vector.replicate 4 none⟩

/-- A key is drawn into the pending slot of a group under a serial, and KEY_WAITING is set on its members (R86, R94). -/
def State.drawPending (s : State) (g : GroupNo) (serial : Serial) : State :=
  let (key, s) := s.drawKey ((s.group g).activeSlot.map (·.2.key))
  let grp := s.group g
  let s := s.setGroup g (grp.setSlot grp.pendingPhase (some (KeySlot.fresh serial key)))
  (s.recompute g).raiseKeyWaiting g

/-! ### FETCH KEY (R87, R160) -/

/-- The key record of a slot. -/
def Group.keyRecord (grp : Group) (g : GroupNo) (ph : Phase) (k : KeySlot) : KeyRecord :=
  ⟨g, ph, k.serial, k.key, grp.nextChangeover, grp.plan.number⟩

/-- FETCH KEY ACTIVE for a port. -/
def fetchActive (group : Nat) (selector : Selector) (p : PortNo) (s : State) : State × Response :=
  match toGroup group, selector with
  | some g, .named =>
      if !(s.group g).roles[p.val].active then refused s .notPermitted
      else
        match (s.group g).activeSlot with
        | some (ph, k) => (s, .done (.key ((s.group g).keyRecord g ph k)))
        | none => refused s .state
  | _, _ => refused s .range

/-- FETCH KEY PENDING for a port: the fetch clears KEY_WAITING for the group on the port. -/
def fetchPending (group : Nat) (p : PortNo) (s : State) : State × Response :=
  match toGroup group with
  | some g =>
      if !(s.group g).roles[p.val].active then refused s .notPermitted
      else
        match (s.group g).pendingSlot with
        | some k =>
            (s.setKeyWaiting p g false, .done (.key ((s.group g).keyRecord g (s.group g).pendingPhase k)))
        | none => refused s .state
  | none => refused s .range

/-! ### SUBMIT ACCESS (R88) -/

/-- The slot whose serial is named: the ACTIVE slot, or the pending one when it holds a key. -/
def Group.slotOfSerial (grp : Group) (serial : Serial) : Option (Phase × KeySlot) :=
  match grp.activeSlot with
  | some (ph, k) =>
      if k.serial = serial then some (ph, k)
      else grp.pendingSlot.bind (fun q => if q.serial = serial then some (grp.pendingPhase, q) else none)
  | none => grp.pendingSlot.bind (fun q => if q.serial = serial then some (grp.pendingPhase, q) else none)

/-- A packet is stored for a slot and a member, in place of any before it, with an empty aired set; the carousel places
its entries, due at once; the slot is recomputed (R88, R114). -/
def State.storePacket (s : State) (g : GroupNo) (ph : Phase) (k : KeySlot) (p : PortNo) (body : List Byte) : State :=
  let s := s.setGroup g ((s.group g).setSlot ph (some { k with packets := k.packets.set p.val (some ⟨body, 0⟩) }))
  (s.placeEverywhere ⟨g, ph, p, sliceCount body.length, s.time⟩).recompute g

/-- SUBMIT ACCESS for a port. -/
def submitAccess (group : Nat) (serial : Serial) (body : List Byte) (p : PortNo) (s : State) : State × Response :=
  match toGroup group with
  | none => refused s .range
  | some g =>
      if !(s.group g).roles[p.val].active then refused s .notPermitted
      else
        match (s.group g).slotOfSerial serial with
        | none => refused s .stale
        | some (ph, k) =>
            if 1 ≤ body.length ∧ body.length ≤ 744 then
              (s.storePacket g ph k p body, .done (.stored ph (sliceCount body.length)))
            else refused s .length

/-! ### Events (R85, R86, R91, R92) -/

/-- A stored time falls due when station time has reached it (R1). -/
def State.isDue (s : State) (t : Option Time) : Bool :=
  match t with
  | some x => decide (x ≤ s.time)
  | none => false

/-- The first agreement of a PLANNING group: a key with serial 0 is drawn into slot A, and the group becomes STARTING
(R84). -/
def State.firstAgreement (s : State) (g : GroupNo) : State :=
  let (key, s) := s.drawKey none
  let s := s.setGroup g { s.group g with state := .starting, slotA := some (KeySlot.fresh 0 key) }
  (s.recompute g).raiseKeyWaiting g

/-- The agreed plan is applied, as a start or a swap at `t` does alone (R109): the next changeover comes a period later,
the draw a lead time before it (R85, R91). -/
def Group.schedule (grp : Group) (t : Time) : Group :=
  { grp with
    applied := grp.plan.agreed
    lastChangeover := some t
    nextChangeover := grp.plan.agreed.map (fun pl => t + pl.period.seconds * Config.second)
    drawTime :=
      grp.plan.agreed.map (fun pl => t + pl.period.seconds * Config.second - pl.lead * Config.second) }

/-- The draw event of a RUNNING group (R86). -/
def State.drawEvent (s : State) (g : GroupNo) : State :=
  let grp := s.group g
  if grp.state = .running ∧ s.isDue grp.drawTime then
    let serial := match grp.activeSlot with | some (_, k) => k.serial + 1 | none => 0
    let s := s.drawPending g serial
    s.setGroup g { s.group g with drawTime := none }
  else s

/-- The start event of a STARTING group (R85). -/
def State.startEvent (s : State) (g : GroupNo) : State :=
  let grp := s.group g
  if grp.state = .starting ∧ s.isDue grp.startTime then
    let start := grp.startTime.getD s.time
    let s := s.setGroup g { grp.schedule start with state := .running, active := some .a, startTime := none }
    s.clearKeyWaiting g
  else s

/-- A changeover that finds the pending slot AIRED: the phases swap (R91). -/
def State.swapSlots (s : State) (g : GroupNo) : State :=
  let grp := s.group g
  let new := grp.pendingPhase
  let grp := (grp.setSlot new.other none).schedule s.time
  let s := s.setGroup g { grp with state := .running, active := some new, extensions := 0 }
  (s.removeSlotEntries g new.other).clearKeyWaiting g

/-- LATE for a group on the port of each JOINED member with no stored packet in the pending slot (R92). -/
def State.raiseLate (s : State) (g : GroupNo) : State :=
  let grp := s.group g
  (List.finRange 4).foldl
    (fun s p =>
      let stored := match grp.pendingSlot with | some k => k.packets[p.val].isSome | none => false
      if grp.roles[p.val] == .joined && !stored then s.addLate p g else s) s

/-- The extension limit of a group. -/
def Group.limit (grp : Group) : Nat := (grp.definition.map (·.limit)).getD 0

/-- A changeover that finds the pending slot not AIRED is deferred by 1,000 ms (R92). -/
def State.deferChangeover (s : State) (g : GroupNo) : State :=
  let grp := s.group g
  let raised := grp.extensions < grp.limit
  let count := if raised then grp.extensions + 1 else grp.extensions
  let freezes := decide (raised ∧ count = grp.limit)
  let s := s.setGroup g
    { grp with
      extensions := count
      state := if raised then (if freezes then .frozen else .extended) else .frozen
      nextChangeover := some (s.time + Config.extension)
      drawTime := none }
  let s := (s.raiseLate g).setGroupAlert g true
  if freezes then s.addGroupFrozen g else s

/-- RUNNING, EXTENDED or FROZEN: the group has a key in use. -/
def GroupState.keyed : GroupState → Bool
  | .running | .extended | .frozen => true
  | .free | .planning | .starting => false

/-- The changeover event of a RUNNING, EXTENDED or FROZEN group (R91, R92). -/
def State.changeover (s : State) (g : GroupNo) : State :=
  let grp := s.group g
  if grp.state.keyed && s.isDue grp.nextChangeover then
    if s.pendingAired g then s.swapSlots g else s.deferChangeover g
  else s

/-! ### Meanings -/

/-- FETCH KEY with selector ACTIVE (R87). -/
def execFetchKeyActive (f : Frame) (group : Nat) (selector : Selector) (s : State) : Host.Outcome State Fault Refusal :=
  .next (s.takeOrder f .fetchKey (onAccess f (fetchActive group selector)))

/-- FETCH KEY with selector PENDING (R87). -/
def execFetchKeyPending (f : Frame) (group : Nat) (s : State) : Host.Outcome State Fault Refusal :=
  .next (s.takeOrder f .fetchKey (onAccess f (fetchPending group)))

/-- SUBMIT ACCESS (R88). -/
def execSubmitAccess (f : Frame) (group : Nat) (serial : Serial) (body : List Byte) (s : State) :
    Host.Outcome State Fault Refusal :=
  .next (s.takeOrder f .submitAccess (onAccess f (submitAccess group serial body)))

/-- The draw event (R86). -/
def execDrawEvent (group : GroupNo) (s : State) : Host.Outcome State Fault Refusal := .next (s.drawEvent group)

/-- The start event (R85). -/
def execStartEvent (group : GroupNo) (s : State) : Host.Outcome State Fault Refusal := .next (s.startEvent group)

/-- The changeover event (R91, R92). -/
def execChangeoverEvent (group : GroupNo) (s : State) : Host.Outcome State Fault Refusal :=
  .next (s.changeover group)

end Sys2Proof.Machine
end

