-- ==== Sys2Proof/Machine/Subscribers.lean ====
section
/-! DEFINITION. Subscriber packet queues (chapter 8): OPEN BATCH, SUBMIT SUBSCRIBER, the take, trimming. -/

namespace Sys2Proof.Machine

/-! ### OPEN BATCH (R125) -/

/-- OPEN BATCH on a port: the count carried, or 65,535 when the order carries none. -/
def openBatch (present count : Nat) (p : PortNo) (s : State) : State × Response :=
  if 1 < present ∨ (present = 1 ∧ ¬ (1 ≤ count ∧ count ≤ 65535)) then refused s .range
  else
    let n := if present = 1 then count else 65535
    let k := s.port p
    (s.setPort p { k with batch := some n, batchEnd := false }, .done (.batch n k.queue.length))

/-! ### SUBMIT SUBSCRIBER (R126, R127, R128) -/

/-- The carriers that are ARMED or ON_AIR. -/
def State.openCarriers (s : State) : CarrierSet :=
  setWhere (fun c => (s.carrier c).state == .armed || (s.carrier c).state == .onAir)

/-- An accepted entry joins its queue, at the head when urgent, and spends one from the batch; a count that reaches 0
sets BATCH_END (R126, R127, R128). -/
def AccessPort.enqueue (k : AccessPort) (e : SubscriberEntry) (count : Nat) : AccessPort :=
  { k with
    queue := if e.urgent then e :: k.queue else k.queue ++ [e]
    batch := some (count - 1)
    batchEnd := k.batchEnd || count - 1 == 0 }

/-- SUBMIT SUBSCRIBER on a port. -/
def submitSubscriber (body : List Byte) (mask : BitVec 8) (urgent : Nat) (p : PortNo) (s : State) :
    State × Response :=
  match toSet4 mask, toFlag urgent with
  | some m, some u =>
      let k := s.port p
      match k.batch with
      | none => refused s .noBatch
      | some 0 => (s.setBatchEnd p true, .refused .batchSpent)
      | some (n + 1) =>
          if ¬ (1 ≤ body.length ∧ body.length ≤ Config.payloadBytes) then refused s .length
          else if m &&& s.openCarriers = 0 then refused s .noCarrier
          else if Config.subscriberLimit ≤ k.queue.length then refused s .queueFull
          else
            let k' := k.enqueue ⟨body, m &&& s.openCarriers, u⟩ (n + 1)
            (s.setPort p k', .done (.placed (m &&& s.openCarriers) u k'.queue.length n))
  | _, _ => refused s .range

/-! ### The take (R129) -/

/-- The scan of a queue for a carrier, up to `allowance` entries: the copies taken, and the queue left. -/
def scanQueue (p : PortNo) (c : CarrierNo) : Nat → List SubscriberEntry → List SubscriberCopy × List SubscriberEntry
  | _, [] => ([], [])
  | 0, es => ([], es)
  | n + 1, e :: es =>
      if hasItem e.remaining c then
        let (taken, left) := scanQueue p c n es
        let rest := dropItem e.remaining c
        (⟨p, e.body, e.urgent⟩ :: taken, if rest = 0 then left else { e with remaining := rest } :: left)
      else
        let (taken, left) := scanQueue p c (n + 1) es
        (taken, e :: left)

/-- One port's take: its queue is scanned up to its allowance on the carrier. -/
def State.takeFrom (s : State) (c : CarrierNo) (p : PortNo) : List SubscriberCopy × State :=
  let k := s.port p
  let (taken, left) := scanQueue p c (s.carrier c).allowances[p.val] k.queue
  (taken, s.setPort p { k with queue := left })

/-- The subscriber take of a carrier: ports 0, 1, 2 and 3 in turn (R41, R129). -/
def State.subscriberTake (s : State) (c : CarrierNo) : List SubscriberCopy × State :=
  (List.finRange 4).foldl
    (fun (acc : List SubscriberCopy × State) p =>
      let (taken, s) := acc.2.takeFrom c p
      (acc.1 ++ taken, s)) ([], s)

/-! ### Trimming (R9, R130) -/

/-- A carrier leaves an entry's set; an entry whose set becomes empty goes. -/
def trimEntry (c : CarrierNo) (e : SubscriberEntry) : Option SubscriberEntry :=
  let rest := dropItem e.remaining c
  if rest = 0 then none else some { e with remaining := rest }

/-- A carrier that becomes OFF leaves every entry of every queue. -/
def State.trimQueues (s : State) (c : CarrierNo) : State :=
  { s with access := s.access.map (fun k => { k with queue := k.queue.filterMap (trimEntry c) }) }

/-! ### Meanings -/

/-- OPEN BATCH (R125). -/
def execOpenBatch (f : Frame) (present count : Nat) (s : State) : Host.Outcome State Fault Refusal :=
  .next (s.takeOrder f .openBatch (onAccess f (openBatch present count)))

/-- SUBMIT SUBSCRIBER (R126). -/
def execSubmitSubscriber (f : Frame) (body : List Byte) (mask : BitVec 8) (urgent : Nat) (s : State) :
    Host.Outcome State Fault Refusal :=
  .next (s.takeOrder f .submitSubscriber (onAccess f (submitSubscriber body mask urgent)))

end Sys2Proof.Machine
end

