-- ==== Sys2Proof/Machine/Carriers.lean ====
section
/-! DEFINITION. The manager's orders on carriers: DEFINE CARRIER, SET CARRIER, READ CARRIER, SET ALLOWANCE, and a
carrier becoming OFF (R3 to R12). -/

namespace Sys2Proof.Machine

/-! ### DEFINE CARRIER (R4, R5) -/

/-- The ranges of Q, T and A (R4). -/
def carrierInRange (rate interval reserve : Nat) : Bool :=
  decide (4096000 ≤ rate ∧ rate ≤ 81920000 ∧ rate % 1024 = 0 ∧ 20000 ≤ interval ∧ interval ≤ 80000 ∧ reserve ≤ 255)

/-- Some programme that is not UNUSED names the carrier together with a group (R4). -/
def State.scrambledOn (s : State) (c : CarrierNo) : Bool :=
  (s.programmesOf c).any (fun p => (s.programme p).group.isSome)

/-- DEFINE CARRIER. -/
def defineCarrier (carrier rate interval reserve : Nat) (s : State) : State × Response :=
  match toCarrier carrier with
  | none => refused s .range
  | some c =>
      if !carrierInRange rate interval reserve then refused s .range
      else if (s.carrier c).state ≠ .off then refused s .state
      else
        let t := s.setCarrier c
          { s.carrier c with definition := some ⟨rate, interval, reserve, guaranteedBudget rate interval⟩ }
        if !t.admits c then refused s .overBudget
        else if reserve < 3 ∧ s.scrambledOn c then refused s .overBudget
        else (t, .done (.guaranteed (guaranteedBudget rate interval)))

/-! ### SET CARRIER (R6, R8, R9) -/

/-- The first whole millisecond later than `t` (R6). -/
def nextMillisecond (t : Time) : Time := (t / Config.millisecond + 1) * Config.millisecond

/-- SET CARRIER with target ON: the carrier is ARMED, its counters and accumulators at 0 (R6). -/
def setCarrierOn (carrier : Nat) (target : Selector) (s : State) : State × Response :=
  match toCarrier carrier, target with
  | some c, .named =>
      let k := s.carrier c
      if k.state = .off ∧ k.definition.isSome then
        let first := nextMillisecond s.time
        (s.setCarrier c
          { k with
            state := .armed
            counters := Counters.zero
            fraction := 0
            interval := 0
            rotate := 0
            degraded := false
            nextBoundary := some first },
          .done (.firstBoundary first))
      else refused s .state
  | _, _ => refused s .range

/-- A programme of a carrier that becomes OFF: its queue is discarded, it is RESYNC, its expected sequence invalid, its
held count 0 (R9). -/
def State.stopProgramme (s : State) (p : ProgrammeNo) : State :=
  let s := s.emptyQueue p
  s.setProgramme p { s.programme p with state := .resync, expected := none, held := 0 }

/-- A carrier becomes OFF (R9): its LIVE and RESYNC programmes stop, in ascending number; its carousel list is emptied;
it leaves every subscriber entry and every aired set; the pending slots are recomputed. Its next boundary time
becomes absent, from ARMED too, where R8 and R9 say nothing of it (log entry 40). -/
def State.carrierOff (s : State) (c : CarrierNo) : State :=
  let s := ((s.programmesOf c).filter (fun p => (s.programme p).serving)).foldl State.stopProgramme s
  let s := s.setCarrier c { s.carrier c with state := .off, nextBoundary := none, carousel := [] }
  ((s.trimQueues c).clearAired c).recomputeAll

/-- SET CARRIER with target OFF (R8). Entering DRAINING empties the carousel list (R117) and takes the carrier out of
every relevant set (R90). -/
def setCarrierOff (carrier : Nat) (s : State) : State × Response :=
  match toCarrier carrier with
  | none => refused s .range
  | some c =>
      let k := s.carrier c
      match k.state with
      | .armed => (s.carrierOff c, .done (.carrierState .off))
      | .onAir =>
          ((s.setCarrier c { k with state := .draining, carousel := [] }).recomputeAll,
            .done (.carrierState .draining))
      | .off => refused s .state
      | .draining => refused s .state

/-! ### READ CARRIER (R10) -/

def State.carrierReport (s : State) (c : CarrierNo) : CarrierReport :=
  let k := s.carrier c
  { definition := k.definition
    allowances := k.allowances
    state := k.state
    nextBoundary := k.nextBoundary
    interval := k.interval
    fraction := k.fraction
    rotate := k.rotate
    degraded := k.degraded
    counters := k.counters
    programmes := (s.programmesOf c).length
    committed := s.committed c
    spare := k.definition.map (fun d => d.guaranteed - s.committedWith c d.reserve) }

/-- READ CARRIER. -/
def readCarrier (carrier : Nat) (s : State) : State × Response :=
  match toCarrier carrier with
  | none => refused s .range
  | some c => (s, .done (.carrier (s.carrierReport c)))

/-! ### SET ALLOWANCE (R12) -/

/-- SET ALLOWANCE. -/
def setAllowance (port carrier allowance : Nat) (s : State) : State × Response :=
  match toPort port, toCarrier carrier with
  | some p, some c =>
      if 63 < allowance then refused s .range
      else if (s.carrier c).definition.isNone then refused s .state
      else
        let k := s.carrier c
        let t := s.setCarrier c { k with allowances := k.allowances.set p.val allowance }
        if !t.admits c then refused s .overBudget else (t, .done (.committed ((t.committed c).getD 0)))
  | _, _ => refused s .range

/-! ### Meanings -/

/-- DEFINE CARRIER (R4). -/
def execDefineCarrier (f : Frame) (carrier rate interval reserve : Nat) (s : State) :
    Host.Outcome State Fault Refusal :=
  .next (s.takeOrder f .defineCarrier (defineCarrier carrier rate interval reserve))

/-- SET CARRIER with target ON (R6). -/
def execSetCarrierOn (f : Frame) (carrier : Nat) (target : Selector) (s : State) : Host.Outcome State Fault Refusal :=
  .next (s.takeOrder f .setCarrier (setCarrierOn carrier target))

/-- SET CARRIER with target OFF (R8). -/
def execSetCarrierOff (f : Frame) (carrier : Nat) (s : State) : Host.Outcome State Fault Refusal :=
  .next (s.takeOrder f .setCarrier (setCarrierOff carrier))

/-- READ CARRIER (R10). -/
def execReadCarrier (f : Frame) (carrier : Nat) (s : State) : Host.Outcome State Fault Refusal :=
  .next (s.takeOrder f .readCarrier (readCarrier carrier))

/-- SET ALLOWANCE (R12). -/
def execSetAllowance (f : Frame) (port carrier allowance : Nat) (s : State) : Host.Outcome State Fault Refusal :=
  .next (s.takeOrder f .setAllowance (setAllowance port carrier allowance))

end Sys2Proof.Machine
end

