-- ==== Sys2Proof/Machine/Plans.lean ====
section
/-! DEFINITION. The plan resolver (chapter 6): resolutions, and the orders ATTACH, DETACH, PLAN ACK and PROBE GROUP. -/

namespace Sys2Proof.Machine

/-! ### Resolution (R103 to R106) -/

/-- A port accepts a length that is in the mask of its recorded offer (R98). -/
def State.accepts (s : State) (p : PortNo) (l : Period) : Bool :=
  match (s.port p).offer with
  | some o => hasItem o.mask l.index
  | none => false

/-- The lead time of a port's recorded offer. -/
def State.leadOf (s : State) (p : PortNo) : Nat := ((s.port p).offer.map (·.lead)).getD 0

/-- The largest lead time among the offers of a set of ports (R104). -/
def State.maxLead (s : State) (set : List PortNo) : Nat := set.foldl (fun m p => max m (s.leadOf p)) 0

/-- The candidates for a set of ports, in the order of the preference list (R104). -/
def State.candidates (s : State) (d : GroupDef) (set : List PortNo) : List Period :=
  d.preference.filter (fun l => set.all (fun p => s.accepts p l) && decide (s.maxLead set + 2 ≤ l.seconds))

/-- One step of the walk: the port is added where a candidate exists for the set with it (R103). -/
def State.walkStep (s : State) (d : GroupDef) (set : List PortNo) (p : PortNo) : List PortNo :=
  if (s.candidates d (set ++ [p])).isEmpty then set else set ++ [p]

/-- The compatible set: the walk down the attach order list over the ports the roster names (R103). -/
def State.compatibleSet (s : State) (d : GroupDef) : List PortNo :=
  (s.attachOrder.filter (fun p => hasItem d.roster p)).foldl (s.walkStep d) []

/-- The chosen plan of a resolution: the first candidate for the whole compatible set, and its largest lead time; none
for an empty set (R104). -/
def State.chosenPlan (s : State) (d : GroupDef) (set : List PortNo) : Option Plan :=
  if set.isEmpty then none else (s.candidates d set).head?.map (fun l => ⟨l, s.maxLead set⟩)

/-- A JOINED member of the compatible set stays JOINED: the chosen plan is the agreed plan, and the status found was
AGREED or PROPOSED (R105, R106). -/
def PlanRecord.keepsJoined (pl : PlanRecord) (chosen : Option Plan) : Bool :=
  chosen.isSome && pl.agreed == chosen && (pl.status == .agreed || pl.status == .proposed)

/-- The role a resolution gives a port (R105). -/
def resolvedRole (d : GroupDef) (set attached : List PortNo) (keeps : Bool) (old : Role) (p : PortNo) : Role :=
  if set.contains p then (if keeps && old == .joined then .joined else .joining)
  else if hasItem d.roster p then (if attached.contains p then .excluded else .absent)
  else .notMember

/-- The plan record a resolution leaves (R106). `chosen` is none when the compatible set is empty; `attached` says
whether some roster member is attached. -/
def PlanRecord.resolved (pl : PlanRecord) (chosen : Option Plan) (attached : Bool) : PlanRecord :=
  match chosen with
  | some c =>
      if pl.agreed = some c then
        (match pl.status with
          | .agreed => pl
          | .proposed => { pl with number := pl.number + 1, status := .agreed, proposed := none }
          | .fault => { pl with status := .agreed }
          | .none => { pl with status := .agreed })
      else { pl with number := pl.number + 1, status := .proposed, proposed := some c }
  | none => if attached then { pl with status := .fault, proposed := none } else pl

/-- EXCLUDED for the group on the ports a resolution makes EXCLUDED, and at a FAULT on every EXCLUDED member (R105). -/
def State.raiseExcluded (s : State) (g : GroupNo) (before : Vector Role 4) (fault : Bool) : State :=
  (List.finRange 4).foldl
    (fun s p =>
      if (s.group g).roles[p.val] == .excluded && (fault || before[p.val] != .excluded) then s.addExcluded p g else s)
    s

/-- PLAN_WAITING for the group on every JOINING member of the compatible set (R106, R110). -/
def State.raisePlanWaiting (s : State) (g : GroupNo) : State :=
  (List.finRange 4).foldl
    (fun s p => if (s.group g).roles[p.val] == .joining then s.setPlanWaiting p g true else s) s

/-- A resolution of a group, taken whole: the walk, the roles, then the plan record (R103 to R106). -/
def State.resolve (s : State) (g : GroupNo) : State :=
  let grp := s.group g
  match grp.definition with
  | none => s
  | some d =>
      if grp.state = .free then s
      else
        let set := s.compatibleSet d
        let chosen := s.chosenPlan d set
        let attached := s.attachOrder.any (fun p => hasItem d.roster p)
        let fault := chosen.isNone && attached
        let keeps := grp.plan.keepsJoined chosen
        let order := s.attachOrder
        let s := (List.finRange 4).foldl
          (fun s p => s.setRole g p (resolvedRole d set order keeps grp.roles[p.val] p)) s
        let s := (s.raiseExcluded g grp.roles fault).raisePlanWaiting g
        let s := s.setGroup g { s.group g with plan := grp.plan.resolved chosen attached }
        if fault then s.setGroupAlert g true else s

/-- A group is not FREE and its roster names the port. -/
def State.rosterNames (s : State) (g : GroupNo) (p : PortNo) : Bool :=
  (s.group g).state != .free &&
    (match (s.group g).definition with | some d => hasItem d.roster p | none => false)

/-- The groups that are not FREE and whose rosters name a port are resolved, in ascending number (R99, R103). -/
def State.resolveFor (s : State) (p : PortNo) : State :=
  (List.finRange 32).foldl (fun s g => if s.rosterNames g p then s.resolve g else s) s

/-! ### ATTACH, DETACH (R99, R100, R101) -/

/-- A port's place in the attach order list, 0 for the head. -/
def State.place (s : State) (p : PortNo) : Nat := s.attachOrder.idxOf p

/-- ATTACH on a port: it joins the list if it was DETACHED; its offer is recorded; its groups are resolved. -/
def attach (o : Offer) (p : PortNo) (s : State) : State × Response :=
  if !o.valid then refused s .range
  else
    let k := s.port p
    let t :=
      if k.state = .detached then
        { s.setPort p { k with state := .ready, offer := some o } with attachOrder := s.attachOrder ++ [p] }
      else s.setPort p { k with offer := some o }
    let t := t.resolveFor p
    (t, .done (.place (t.place p)))

/-- The port leaves every group that names it: ABSENT (R101 step 2). -/
def State.leaveGroups (s : State) (p : PortNo) : State :=
  (List.finRange 32).foldl (fun s g => if s.rosterNames g p then s.setRole g p .absent else s) s

/-- The effects of DETACH and of the loss of an attached port's link, in the order of R101. -/
def State.detachPort (s : State) (p : PortNo) : State :=
  let k := s.port p
  let s := { s.setPort p { k with state := .detached, offer := none } with
    attachOrder := s.attachOrder.filter (fun q => !(q == p)) }
  let s := s.leaveGroups p
  let k := s.port p
  let s := s.setPort p
    { k with
      keyWaiting := Vector.replicate 32 false
      planWaiting := Vector.replicate 32 false
      batchEnd := false
      queue := []
      batch := none }
  s.resolveFor p

/-- DETACH on a port. -/
def detach (p : PortNo) (s : State) : State × Response := (s.detachPort p, .done .empty)

/-! ### PLAN ACK (R108, R109) -/

/-- The plan is agreed: it becomes the agreed plan, and a PLANNING group has its first agreement (R109). -/
def State.agree (s : State) (g : GroupNo) : State :=
  let grp := s.group g
  let plan : PlanRecord := { grp.plan with status := .agreed, agreed := grp.plan.proposed, proposed := none }
  let s := s.setGroup g { grp with plan := plan }
  if grp.state = .planning then s.firstAgreement g else s

/-- Every member of the compatible set is JOINED: no port is JOINING (R109). -/
def Group.allJoined (grp : Group) : Bool := (List.finRange 4).all (fun p => grp.roles[p.val] != .joining)

/-- An acknowledgement with the recorded offer: the port is JOINED, and may complete the agreement (R108, R109). -/
def State.join (s : State) (g : GroupNo) (p : PortNo) : State :=
  let s := (s.setRole g p .joined).setPlanWaiting p g false
  if (s.group g).plan.status = .proposed ∧ (s.group g).allJoined then s.agree g else s

/-- PLAN ACK on a port. -/
def planAck (group number : Nat) (o : Offer) (p : PortNo) (s : State) : State × Response :=
  match toGroup group with
  | none => refused s .range
  | some g =>
      if 255 < number ∨ !o.valid then refused s .range
      else if (s.group g).roles[p.val] ≠ .joining then refused s .state
      else if number ≠ (s.group g).plan.number.toNat then refused s .stale
      else
        let t :=
          if (s.port p).offer = some o then s.join g p
          else (s.setPort p { s.port p with offer := some o }).resolveFor p
        (t, .done (.planAck (t.group g).roles[p.val] (t.group g).plan.number (t.group g).plan.status))

/-! ### PROBE GROUP (R111) -/

/-- The plan the plan number names: the proposed plan while PROPOSED, otherwise the agreed plan (R102). -/
def PlanRecord.named (pl : PlanRecord) : Option Plan := if pl.status = .proposed then pl.proposed else pl.agreed

/-- PROBE GROUP on a port. -/
def probeGroup (group : Nat) (p : PortNo) (s : State) : State × Response :=
  match toGroup group with
  | none => refused s .range
  | some g =>
      let grp := s.group g
      (s, .done (.probe grp.roles[p.val] grp.state grp.plan.number grp.plan.status grp.plan.named))

/-! ### Meanings -/

/-- ATTACH (R99, R100). -/
def execAttach (f : Frame) (offer : Offer) (s : State) : Host.Outcome State Fault Refusal :=
  .next (s.takeOrder f .attach (onAccess f (attach offer)))

/-- DETACH (R101). -/
def execDetach (f : Frame) (s : State) : Host.Outcome State Fault Refusal :=
  .next (s.takeOrder f .detach (onAccess f detach))

/-- PLAN ACK (R108). -/
def execPlanAck (f : Frame) (group number : Nat) (offer : Offer) (s : State) : Host.Outcome State Fault Refusal :=
  .next (s.takeOrder f .planAck (onAccess f (planAck group number offer)))

/-- PROBE GROUP (R111). -/
def execProbeGroup (f : Frame) (group : Nat) (s : State) : Host.Outcome State Fault Refusal :=
  .next (s.takeOrder f .probeGroup (onAccess f (probeGroup group)))

end Sys2Proof.Machine
end

