-- ==== Sys2Proof/Machine/Allocation.lean ====
section
/-! DEFINITION. The allocation event of a carrier (chapter 3): budget, reservations, blanking, resync walk, minimum
pass, share rounds, remainder pass, emission list. -/

namespace Sys2Proof.Machine

/-! ### The event as it goes -/

/-- What an allocation event carries from stage to stage: the state, the directory record it has started (R39), and
whether it has held or discarded an anchor (R59). -/
structure Event where
  state     : State
  directory : List DirectoryEntry
  degraded  : Bool
  deriving DecidableEq, Repr

/-- A candidate of the event (R45, R46): its programme, kind, demand, need, weight × complexity, and its minimum
grant, effective cap and grant. -/
structure Candidate where
  programme : ProgrammeNo
  kind      : UnitKind
  weight    : Nat
  floor     : Nat
  demand    : Nat
  need      : Nat
  product   : Nat
  cap       : Nat
  grant     : Nat
  deriving DecidableEq, Repr, Inhabited

/-! ### Stage 1 and Stage 2: budget and reservations (R38 to R42) -/

/-- A carrier's definition; an undefined carrier runs no event. -/
def Carrier.spec (k : Carrier) : CarrierDef := k.definition.getD ⟨0, 0, 0, 0⟩

/-- F + Q × T (R38). -/
def Carrier.budgetTotal (k : Carrier) : Nat := k.fraction + k.spec.rate * k.spec.interval

/-- The budget S of the interval, and the new fraction accumulator (R38). -/
def Carrier.budget (k : Carrier) : Nat := k.budgetTotal / Config.budgetDivisor
def Carrier.newFraction (k : Carrier) : Nat := k.budgetTotal % Config.budgetDivisor

/-- The directory record an event starts, and that of a first interval: one entry for each programme that is not UNUSED
and names the carrier, in ascending number, all flags clear (R39, R139). -/
def State.directoryRecord (s : State) (c : CarrierNo) : List DirectoryEntry :=
  (s.programmesOf c).map (fun p => ⟨p, (s.programme p).group, false, false, false⟩)

/-- A flag of a programme's directory entry is set. -/
def markRepeat (p : ProgrammeNo) (d : List DirectoryEntry) : List DirectoryEntry :=
  d.map (fun e => if e.programme = p then { e with repeated := true } else e)
def markHeld (p : ProgrammeNo) (d : List DirectoryEntry) : List DirectoryEntry :=
  d.map (fun e => if e.programme = p then { e with held := true } else e)
def markBlanked (p : ProgrammeNo) (d : List DirectoryEntry) : List DirectoryEntry :=
  d.map (fun e => if e.programme = p then { e with blanked := true } else e)

/-- The copy of a stored packet that a take puts into the list: body and serial as stored at the take (R119). -/
def State.accessCopy (s : State) (e : CarouselEntry) : AccessCopy :=
  let slot := (s.group e.group).slot e.phase
  { group := e.group
    phase := e.phase
    member := e.member
    serial := (slot.map (·.serial)).getD 0
    slices := e.slices
    body := ((slot.bind (fun k => k.packets[e.member.val])).map (·.body)).getD [] }

/-- The repeat period of a group in microseconds, as its record stands. -/
def Group.repeatPeriod (g : Group) : Nat := ((g.definition.map (·.repeatMs)).getD 0) * Config.millisecond

/-- One entry is taken: copied into the list, due again a repeat period past the boundary, its airing reported (R119).
The entry stays in the carrier's list. -/
def takeEntry (c : CarrierNo) (b : Time) (acc : List AccessCopy × State) (e : CarouselEntry) :
    List AccessCopy × State :=
  let s := acc.2
  let k := s.carrier c
  let due := b + (s.group e.group).repeatPeriod
  let list := k.carousel.map (fun x =>
    if x.group = e.group ∧ x.phase = e.phase ∧ x.member = e.member then { x with due := due } else x)
  (acc.1 ++ [s.accessCopy e], (s.setCarrier c { k with carousel := list }).reportAiring e.group e.phase e.member c)

/-- The carousel take of an event: the copies, in take order, and the state after (R40, R118, R119). -/
def State.accessTake (s : State) (c : CarrierNo) (b : Time) : List AccessCopy × State :=
  (s.carouselTake c (s.carrier c).spec.reserve b).foldl (takeEntry c b) ([], s)

/-- Slices of the access entries: the carousel take a (R40). -/
def accessSlices (copies : List AccessCopy) : Nat := (copies.map (·.slices)).sum

/-! ### Stage 3: blanking, resync walk, candidates (R43 to R45) -/

/-- The group blanks its programmes: STARTING, PLANNING, or FROZEN under BLANK (R43). -/
def Group.blanks (g : Group) : Bool :=
  match g.state with
  | .starting | .planning => true
  | .frozen => g.definition.map (·.policy) == some .blank
  | .free | .running | .extended => false

/-- The programme is blanked: assigned to a group that blanks (R43). -/
def State.isBlanked (s : State) (p : ProgrammeNo) : Bool :=
  match (s.programme p).group with
  | some g => (s.group g).blanks
  | none => false

/-- The carrier's units-discarded-in-resync counter increases by `n` (R10). -/
def State.countResync (s : State) (c : CarrierNo) (n : Nat) : State :=
  let k := s.carrier c
  s.setCarrier c { k with counters := { k.counters with resyncDiscarded := count32By k.counters.resyncDiscarded n } }

/-- A blanked programme: its queue is discarded and counted, it is RESYNC with held count 0, its blanked flag set
(R43). -/
def Event.blank (v : Event) (c : CarrierNo) (p : ProgrammeNo) : Event :=
  let n := (v.state.programme p).queue.length
  let s := (v.state.emptyQueue p).countResync c n
  { v with
    state := s.setProgramme p { s.programme p with state := .resync, held := 0 }
    directory := markBlanked p v.directory }

/-- The unit is no anchor. -/
def UnitRecord.notAnchor (u : UnitRecord) : Bool := u.kind != .anchor

/-- The resync walk: non-anchor heads are discarded and counted; an anchor at the head makes the programme LIVE (R44). -/
def Event.walk (v : Event) (c : CarrierNo) (p : ProgrammeNo) : Event :=
  let k := v.state.programme p
  let gone := k.queue.takeWhile UnitRecord.notAnchor
  let left := k.queue.dropWhile UnitRecord.notAnchor
  let s := v.state.setProgramme p { k with queue := left, state := if left.isEmpty then .resync else .live }
  { v with
    state := (s.freeUp (unitCells gone)).countResync c gone.length
    directory := if gone.isEmpty then v.directory else markRepeat p v.directory }

/-- Blanking and the walk for one programme of the carrier (R43, R44). -/
def Event.stage3 (c : CarrierNo) (v : Event) (p : ProgrammeNo) : Event :=
  let k := v.state.programme p
  if k.names c && k.serving then
    if v.state.isBlanked p then v.blank c p
    else if k.state == .resync && !k.queue.isEmpty then v.walk c p
    else v
  else v

/-- The demand, the need, the minimum grant and the effective cap (R45, R46). -/
def demandOf (size : Nat) : Nat := sliceCount size
def needOf (demand : Nat) : Nat := ceilDiv demand 4
def minimumGrant (demand need floor : Nat) : Nat := min demand (max floor need)
def effectiveCap (demand need cap : Nat) : Nat := min demand (max cap need)

/-- The candidate a programme's head unit makes (R45, R46). -/
def candidateOf (p : ProgrammeNo) (d : ProgrammeDef) (u : UnitRecord) : Candidate :=
  let dm := demandOf u.size
  let n := needOf dm
  { programme := p
    kind := u.kind
    weight := d.weight
    floor := d.floor
    demand := dm
    need := n
    product := d.weight * u.complexity
    cap := effectiveCap dm n d.cap
    grant := minimumGrant dm n d.floor }

/-- The programme is a candidate: it names the carrier, is LIVE, and its queue is not empty (R45). -/
def State.candidate (s : State) (c : CarrierNo) (p : ProgrammeNo) : Option Candidate :=
  let k := s.programme p
  match k.definition, k.queue with
  | some d, u :: _ => if k.names c && k.state == .live then some (candidateOf p d u) else none
  | _, _ => none

def State.candidatesOf (s : State) (c : CarrierNo) : List Candidate := (List.finRange 48).filterMap (s.candidate c)

/-! ### Stage 4: the minimum pass (R46 to R51) -/

/-- The sum of the grants. -/
def grantSum (cs : List Candidate) : Nat := (cs.map (·.grant)).sum

/-- A candidate may be demoted when its need exceeds its floor (R47). -/
def Candidate.demotable (x : Candidate) : Bool := decide (x.floor < x.need)

/-- Bridges before forwards before anchors (R47). -/
def UnitKind.step : UnitKind → Nat
  | .bridge => 1
  | .forward => 2
  | .anchor => 3

/-- The order of demotion: step, lowest weight, higher programme number (R47). -/
def demotesBefore (x y : Candidate) : Bool :=
  x.kind.step < y.kind.step || (x.kind.step == y.kind.step &&
    (x.weight < y.weight || (x.weight == y.weight && y.programme ≤ x.programme)))

/-- The candidates demoted, in order: the pass stops as soon as the sum is at most the pool (R47). -/
def demoteWhile (pool : Nat) : Nat → List Candidate → List Candidate
  | _, [] => []
  | sum, x :: xs => if sum ≤ pool then [] else x :: demoteWhile pool (sum - x.grant) xs

def demotions (pool : Nat) (cs : List Candidate) : List Candidate :=
  demoteWhile pool (grantSum cs) (sortBy demotesBefore (cs.filter (·.demotable)))

/-- The counters of a carrier change. -/
def State.modCounters (s : State) (c : CarrierNo) (f : Counters → Counters) : State :=
  s.setCarrier c { s.carrier c with counters := f (s.carrier c).counters }

/-- A demoted bridge is dropped (R48). -/
def Event.dropBridge (v : Event) (c : CarrierNo) (p : ProgrammeNo) : Event :=
  { v with
    state := (v.state.dropHead p).modCounters c (fun k => { k with bridgesDropped := count32 k.bridgesDropped })
    directory := markRepeat p v.directory }

/-- A demoted forward is dropped, and its programme becomes RESYNC (R49). -/
def Event.dropForward (v : Event) (c : CarrierNo) (p : ProgrammeNo) : Event :=
  let s := (v.state.dropHead p).modCounters c (fun k => { k with forwardsDropped := count32 k.forwardsDropped })
  { v with
    state := s.setProgramme p { s.programme p with state := .resync }
    directory := markRepeat p v.directory }

/-- A demoted anchor is held (R50). -/
def Event.holdAnchor (v : Event) (c : CarrierNo) (p : ProgrammeNo) : Event :=
  let s := v.state.modCounters c (fun k => { k with anchorsHeld := count32 k.anchorsHeld })
  { v with
    state := s.setProgramme p { s.programme p with held := (s.programme p).held + 1 }
    directory := markHeld p v.directory
    degraded := true }

/-- An anchor on its third consecutive demotion is discarded, and its programme becomes RESYNC (R50). -/
def Event.discardAnchor (v : Event) (c : CarrierNo) (p : ProgrammeNo) : Event :=
  let s := (v.state.dropHead p).modCounters c (fun k => { k with anchorsDiscarded := count32 k.anchorsDiscarded })
  { v with
    state := s.setProgramme p { s.programme p with state := .resync, held := 0 }
    directory := markRepeat p v.directory
    degraded := true }

/-- What a demotion does to its unit, by kind (R48, R49, R50). -/
def Event.demote (c : CarrierNo) (v : Event) (x : Candidate) : Event :=
  match x.kind with
  | .bridge => v.dropBridge c x.programme
  | .forward => v.dropForward c x.programme
  | .anchor =>
      if (v.state.programme x.programme).held < 2 then v.holdAnchor c x.programme else v.discardAnchor c x.programme

/-- The survivors of the minimum pass. -/
def survivorsOf (cs gone : List Candidate) : List Candidate :=
  cs.filter (fun x => !(gone.any (fun y => y.programme == x.programme)))

/-- A survivor whose head unit is an anchor has its held count set to 0 (R51). -/
def clearHeld (s : State) (x : Candidate) : State :=
  if x.kind = .anchor then s.setProgramme x.programme { s.programme x.programme with held := 0 } else s

/-! ### Stage 5: the share rounds (R52, R53) -/

/-- A member of the open set: its grant is below its effective cap (R51). -/
def Candidate.isOpen (x : Candidate) : Bool := decide (x.grant < x.cap)

/-- W, the sum over the open set of weight × complexity (R52). -/
def openWeight (cs : List Candidate) : Nat := ((cs.filter (·.isOpen)).map (·.product)).sum

/-- A member's take in a round: its share rounded down, at most the room below its cap (R52). -/
def shareTake (pool weight : Nat) (x : Candidate) : Nat :=
  if x.isOpen then min (pool * x.product / weight) (x.cap - x.grant) else 0

/-- One round: every member takes its share of the same pool. -/
def shareRound (pool : Nat) (cs : List Candidate) : List Candidate :=
  cs.map (fun x => { x with grant := x.grant + shareTake pool (openWeight cs) x })

/-- The sum of the takes of a round. -/
def roundTakes (pool : Nat) (cs : List Candidate) : Nat := (cs.map (shareTake pool (openWeight cs))).sum

/-- Some member reached its cap in the round. -/
def reachedCap (before after : List Candidate) : Bool :=
  decide ((after.filter (·.isOpen)).length < (before.filter (·.isOpen)).length)

/-- Up to `n` rounds, stopping when the pool is 0, the open set empty, or no member reached its cap (R53). -/
def shareRounds : Nat → Nat → List Candidate → Nat × List Candidate
  | 0, pool, cs => (pool, cs)
  | n + 1, pool, cs =>
      if pool = 0 ∨ cs.all (fun x => !x.isOpen) then (pool, cs)
      else
        let after := shareRound pool cs
        let left := pool - roundTakes pool cs
        if reachedCap cs after then shareRounds n left after else (left, after)

/-! ### Stage 6: the remainder pass (R54, R55) -/

/-- The next recipient: the first member of the open set at or after the position, from 47 back round to 0. -/
def nextRecipient (pos : ProgrammeNo) (cs : List Candidate) : Option Candidate :=
  match cs.find? (fun x => x.isOpen && decide (pos ≤ x.programme)) with
  | some x => some x
  | none => cs.find? (·.isOpen)

/-- The programme number after another, 47 followed by 0. -/
def afterProgramme (p : ProgrammeNo) : ProgrammeNo := ⟨(p.val + 1) % 48, by omega⟩

/-- One slice more for a programme. -/
def giveSlice (p : ProgrammeNo) (cs : List Candidate) : List Candidate :=
  cs.map (fun x => if x.programme = p then { x with grant := x.grant + 1 } else x)

/-- The remainder pass: one slice at a time while the pool is above 0 and the open set not empty; the filler left, the
grants, and the position after the last recipient (R54, R55, R56). -/
def remainderPass : Nat → ProgrammeNo → List Candidate → Nat × ProgrammeNo × List Candidate
  | 0, pos, cs => (0, pos, cs)
  | n + 1, pos, cs =>
      match nextRecipient pos cs with
      | none => (n + 1, pos, cs)
      | some x => remainderPass n (afterProgramme x.programme) (giveSlice x.programme cs)

/-! ### Stage 7: the emission list (R57, R59) -/

/-- The shrink step: 16 × d / g, rounded up (R57). -/
def shrinkStep (demand grant : Nat) : Nat := ceilDiv (16 * demand) grant

/-- The kept-cell count: g × 248 / 2,048, rounded up (R62). -/
def keptCells (grant : Nat) : Nat := cellsFor (grant * Config.payloadBytes)

/-- A survivor's entry, with the unit at the head of its queue; its recorded group is the programme's (R57, R62). -/
def State.entryOf (s : State) (x : Candidate) : Option ProgrammeEntry :=
  match (s.programme x.programme).queue with
  | [] => none
  | u :: _ =>
      some
        { group := (s.programme x.programme).group
          unit := u
          grant := x.grant
          step := shrinkStep x.demand x.grant
          state := if shrinkStep x.demand x.grant = 16 then .ready else .shrinking }

/-- A unit leaves the head of its queue, its cells with it (R57). -/
def State.leaveQueue (s : State) (x : Candidate) : State :=
  let k := s.programme x.programme
  s.setProgramme x.programme { k with queue := k.queue.drop 1 }

/-- The grants of the survivors of a pool: minimum grants, share rounds, remainder pass; the filler and the rotate
pointer with them (R51 to R56). -/
def divide (pool : Nat) (pos : ProgrammeNo) (survivors : List Candidate) : Nat × ProgrammeNo × List Candidate :=
  let (left, shared) := shareRounds 4 (pool - grantSum survivors) survivors
  remainderPass left pos shared

/-- Stages 3 and 4: blanking, the resync walk, the minimum pass; the event after them and the survivors. -/
def Event.select (v : Event) (c : CarrierNo) (pool : Nat) : Event × List Candidate :=
  let v := (List.finRange 48).foldl (Event.stage3 c) v
  let cs := v.state.candidatesOf c
  let gone := demotions pool cs
  let v := gone.foldl (Event.demote c) v
  let survivors := survivorsOf cs gone
  ({ v with state := survivors.foldl clearHeld v.state }, survivors)

/-- The allocation event of a carrier at boundary time `b` (R37 to R59). -/
def State.allocate (s : State) (c : CarrierNo) (b : Time) : State :=
  let k := s.carrier c
  let directory := s.directoryRecord c
  let (access, s) := s.accessTake c b
  let (subs, s) := s.subscriberTake c
  let pool := k.budget - 1 - accessSlices access - subs.length
  let (v, survivors) := Event.select ⟨s, directory, false⟩ c pool
  let (filler, rotate, granted) := divide pool k.rotate survivors
  let list : EmissionList :=
    { directory := v.directory
      access := access
      subscribers := subs
      entries := granted.filterMap v.state.entryOf
      filler := filler }
  let s := granted.foldl State.leaveQueue v.state
  let s := s.setCarrier c
    { s.carrier c with
      fraction := k.newFraction
      rotate := rotate
      degraded := v.degraded
      building := some list }
  if v.degraded then s.setCarrierAlert c true else s

end Sys2Proof.Machine
end

