-- ==== Sys2Proof/Machine/Output.lean ====
section
/-! DEFINITION. The shrink engine (chapter 4) and the output assembler (chapter 9): shrink completions, what a boundary
begins to emit, slices and their headers, emission completions. -/

namespace Sys2Proof.Machine

/-! ### Shrinking (R64, R65, R66) -/

/-- The reduced body: the requantised picture, at most g × 248 bytes, with pad bytes up to exactly that (R65). -/
def reducedBody (body : List Byte) (grant : Nat) : List Byte :=
  let n := grant * Config.payloadBytes
  let picture := (Config.requantise body grant).take n
  picture ++ List.replicate (n - picture.length) Config.padByte

/-- The shrink completion of an entry: its reduced body stands in its kept cells, it is READY (R65, R66). -/
def ProgrammeEntry.shrunk (e : ProgrammeEntry) : ProgrammeEntry :=
  { e with unit := { e.unit with cells := e.unit.cells.take (keptCells e.grant) }, state := .ready }

/-- The cells a shrink completion returns: those beyond the kept-cell count, in body order (R66). -/
def ProgrammeEntry.surplus (e : ProgrammeEntry) : List CellNo := e.unit.cells.drop (keptCells e.grant)

/-- Picture memory after the shrink completion of an entry (R65). -/
def Memory.shrink (m : Memory) (e : ProgrammeEntry) : Memory :=
  writeBody m (e.unit.cells.take (keptCells e.grant))
    (reducedBody (bodyBytes m e.unit.cells 0 e.unit.size) e.grant)

/-- A shrink completion that has happened to entry `e` of a carrier's building list `l`, with entries `before` and
`after` it (R66). -/
def State.shrinkEntry (s : State) (c : CarrierNo) (l : EmissionList) (before : List ProgrammeEntry)
    (e : ProgrammeEntry) (after : List ProgrammeEntry) : State :=
  let s := { s with memory := s.memory.shrink e }
  let k := s.carrier c
  let s := s.setCarrier c
    { k with
      building := some { l with entries := before ++ e.shrunk :: after }
      counters := { k.counters with unitsShrunk := count32 k.counters.unitsShrunk } }
  s.freeUp e.surplus

/-- The entry is SHRINKING. -/
def ProgrammeEntry.busy (e : ProgrammeEntry) : Bool := e.state == .shrinking

/-- The next shrink completion of a carrier's building list: completions come in list order (R64). -/
def State.shrinkNext (s : State) (c : CarrierNo) : State :=
  match (s.carrier c).building with
  | none => s
  | some l =>
      match l.entries.dropWhile (fun e => !e.busy) with
      | [] => s
      | e :: after => s.shrinkEntry c l (l.entries.takeWhile (fun e => !e.busy)) e after

/-- The station time is later than the allocation event that made the building list, an interval before the next
boundary: a shrink operation completes at a later time than its event (R64). -/
def State.afterEvent (s : State) (c : CarrierNo) : Bool :=
  match (s.carrier c).nextBoundary with
  | some b => decide (b < s.time + (s.carrier c).spec.interval)
  | none => false

/-- The SHRINK_COMPLETION event: the next completion of the list, once it can have come about (R64, R66). -/
def State.shrinkCompletion (s : State) (c : CarrierNo) : State := if s.afterEvent c then s.shrinkNext c else s

/-- Shrink operations outstanding on a carrier. -/
def State.shrinksLeft (s : State) (c : CarrierNo) : Nat :=
  match (s.carrier c).building with
  | none => 0
  | some l => (l.entries.filter (·.busy)).length

/-- `n` shrink completions in a row. -/
def State.shrinkTimes : Nat → State → CarrierNo → State
  | 0, s, _ => s
  | n + 1, s, c => State.shrinkTimes n (s.shrinkNext c) c

/-- Every shrink operation of a list completes before the carrier's next boundary (R64). -/
def State.finishShrinks (s : State) (c : CarrierNo) : State := State.shrinkTimes (s.shrinksLeft c) s c

/-! ### Slices (R137, R140, R141, R142) -/

/-- A payload: content bytes, then pad bytes up to 248 (R159). -/
def padPayload (content : List Byte) : List Byte :=
  content ++ List.replicate (Config.payloadBytes - content.length) Config.padByte

/-- The flags byte of a directory entry (R158). -/
def DirectoryEntry.flagsByte (e : DirectoryEntry) : Byte :=
  BitVec.ofNat 8 ((if e.repeated then 1 else 0) + (if e.held then 2 else 0) + (if e.blanked then 4 else 0))

/-- The three bytes of a directory entry: programme, group or 255 for clear, flags (R158). -/
def DirectoryEntry.bytes (e : DirectoryEntry) : List Byte :=
  [BitVec.ofNat 8 e.programme.val, match e.group with | some g => BitVec.ofNat 8 g.val | none => 255, e.flagsByte]

/-- The parts of a directory body before its check (R139, R158). -/
def DirectoryBody.covered (d : DirectoryBody) : List Byte :=
  [d.station.setWidth 8, BitVec.ofNat 8 d.carrier.val] ++ beBytes 4 d.interval.toNat
    ++ [if d.final then 1 else 0, BitVec.ofNat 8 d.entries.length] ++ d.entries.flatMap (·.bytes)

/-- A directory body with its check (R139, R158, R159). -/
def DirectoryBody.bytes (d : DirectoryBody) : List Byte :=
  d.covered ++ beBytes 4 (directoryCheck d.covered).toNat

/-- The directory slice (R137, R139). -/
def directorySlice (d : DirectoryBody) : Slice where
  kind := .directory
  source := d.carrier.val
  phase := none
  continuity := 0
  unitStart := false
  step := 0
  group := 0
  serial := 0
  part := 0
  parts := 0
  fill := 248
  payload := padPayload d.bytes

/-- Part `n` of an access packet (R137, R140). -/
def accessSlice (a : AccessCopy) (n : Nat) : Slice :=
  let content := (a.body.drop ((n - 1) * Config.payloadBytes)).take Config.payloadBytes
  { kind := .access
    source := a.member.val
    phase := some a.phase
    continuity := 0
    unitStart := n == 1
    step := 0
    group := a.group.val
    serial := a.serial
    part := n
    parts := a.slices
    fill := content.length
    payload := padPayload content }

/-- A subscriber slice (R137, R140). -/
def subscriberSlice (u : SubscriberCopy) : Slice where
  kind := .subscriber
  source := u.port.val
  phase := none
  continuity := 0
  unitStart := u.urgent
  step := 0
  group := 0
  serial := 0
  part := 1
  parts := 1
  fill := u.body.length
  payload := padPayload u.body

/-- A filler slice (R137, R142). -/
def fillerSlice : Slice where
  kind := .filler
  source := 0
  phase := none
  continuity := 0
  unitStart := false
  step := 0
  group := 0
  serial := 0
  part := 0
  parts := 0
  fill := 0
  payload := padPayload []

/-- Bytes of the body an entry's kept cells hold: the unit's own for a step of 16, g × 248 for a shrunk one (R65,
R67). -/
def ProgrammeEntry.bodyLength (e : ProgrammeEntry) : Nat :=
  if e.step = 16 then e.unit.size else e.grant * Config.payloadBytes

/-- The payload of a slice is combined with the keystream of its key, programme and continuity count, every byte of it
(R136). -/
def scramble (key : Key) (p : ProgrammeNo) (cc : BitVec 4) (payload : List Byte) : List Byte :=
  (List.range payload.length).zipWith (fun i b => b ^^^ Config.keystreamByte key p cc i) payload

/-- Slice `i` of a programme entry, counted from 0, under its capture and with the continuity count `cc` (R136, R137,
R141). -/
def programmeSlice (m : Memory) (e : ProgrammeEntry) (capture : Option (Phase × Key)) (cc : BitVec 4) (i : Nat) :
    Slice :=
  let fill := min Config.payloadBytes (e.bodyLength - i * Config.payloadBytes)
  let payload := padPayload (bodyBytes m e.unit.cells (i * Config.payloadBytes) fill)
  { kind := .programme
    source := e.unit.programme.val
    phase := capture.map (·.1)
    continuity := cc
    unitStart := i == 0
    step := if i = 0 then e.step else 0
    group := 0
    serial := 0
    part := 0
    parts := 0
    fill := fill
    payload :=
      match capture with
      | some (_, key) => scramble key e.unit.programme cc payload
      | none => payload }

/-! ### Emission (R133, R138, R141, R142) -/

/-- Slices an item has still to emit. -/
def Item.left : Item → Nat
  | .directory _ => 1
  | .access a part => a.slices + 1 - part
  | .subscriber _ => 1
  | .programme e _ sent => e.grant - sent
  | .filler n => n

/-- Slices a list has still to emit. -/
def itemsLeft (items : List Item) : Nat := (items.map (·.left)).sum

/-- A slice is placed into the transmit buffer, and the list goes on with `rest`. -/
def State.pushSlice (s : State) (c : CarrierNo) (slice : Slice) (rest : List Item) : State :=
  let k := s.carrier c
  s.setCarrier c { k with buffer := k.buffer ++ [slice], emitting := some rest }

/-- The last slice of a packet is placed into the transmit buffer: its copy stays with the list until the interval ends
(R140). -/
def State.pushLast (s : State) (c : CarrierNo) (slice : Slice) (rest : List Item) (copy : EmittedCopy) : State :=
  let k := s.carrier c
  s.setCarrier c { k with buffer := k.buffer ++ [slice], emitting := some rest, emitted := k.emitted ++ [copy] }

/-- A programme slice has been emitted: the continuity count advances (R138); with the last one the entry leaves the
list with its capture, and its kept cells return to the tail of the free list in body order (R141). -/
def State.emitProgramme (s : State) (c : CarrierNo) (e : ProgrammeEntry) (capture : Option (Phase × Key)) (sent : Nat)
    (rest : List Item) : State :=
  let p := e.unit.programme
  let k := s.programme p
  let slice := programmeSlice s.memory e capture k.continuity sent
  let t := s.setProgramme p { k with continuity := k.continuity + 1 }
  if sent + 1 < e.grant then t.pushSlice c slice (.programme e capture (sent + 1) :: rest)
  else (t.pushSlice c slice rest).freeUp e.unit.cells

/-- The next slice of a carrier's emitting list is emitted (R133, R134). -/
def State.emitSlice (s : State) (c : CarrierNo) : State :=
  match (s.carrier c).emitting with
  | none => s
  | some [] => s
  | some (.directory d :: rest) => s.pushSlice c (directorySlice d) rest
  | some (.access a part :: rest) =>
      if part < a.slices then s.pushSlice c (accessSlice a part) (.access a (part + 1) :: rest)
      else s.pushLast c (accessSlice a part) rest (.access a)
  | some (.subscriber u :: rest) => s.pushLast c (subscriberSlice u) rest (.subscriber u)
  | some (.programme e capture sent :: rest) => s.emitProgramme c e capture sent rest
  | some (.filler n :: rest) =>
      let t := s.pushSlice c fillerSlice (if 1 < n then .filler (n - 1) :: rest else rest)
      t.modCounters c (fun k => { k with filler := count32 k.filler })

/-- The transmit buffer has room for a slice: it holds two (R133). -/
def Carrier.hasRoom (k : Carrier) : Bool := decide (k.buffer.length < 2)

/-- The SLICE_EMISSION event: the next slice, when the buffer has room. -/
def State.sliceEmission (s : State) (c : CarrierNo) : State :=
  if (s.carrier c).hasRoom then s.emitSlice c else s

/-- The line finishes the slice at the front of a full buffer. -/
def State.makeRoom (s : State) (c : CarrierNo) : State :=
  let k := s.carrier c
  if k.hasRoom then s else s.setCarrier c { k with buffer := k.buffer.drop 1, bitsSent := 0 }

/-- The emitting list has slices to emit. -/
def Carrier.emits (k : Carrier) : Bool :=
  match k.emitting with
  | some (_ :: _) => true
  | _ => false

/-- Up to `n` slices, each as the line makes room. -/
def State.emitTimes : Nat → State → CarrierNo → State
  | 0, s, _ => s
  | n + 1, s, c => if (s.carrier c).emits then State.emitTimes n ((s.makeRoom c).emitSlice c) c else s

/-- Every slice of an emitting list is placed before its interval ends, and the list ends with its interval, its copies
with it (R63, R133, R140). An item with nothing left, which no list holds, takes one slice. -/
def State.endInterval (s : State) (c : CarrierNo) : State :=
  let n :=
    match (s.carrier c).emitting with
    | some items => itemsLeft items + items.length
    | none => 0
  let s := State.emitTimes n s c
  s.setCarrier c { s.carrier c with emitting := none, emitted := [] }

/-! ### What a boundary begins to emit (R73, R134, R135, R139) -/

/-- `n` filler slices, as items. -/
def fillerItems (n : Nat) : List Item := if n = 0 then [] else [.filler n]

/-- The boundary capture of an entry: none for a clear one; withdrawn when its recorded group has no ACTIVE slot (R73,
R135). -/
inductive Capture where
  | clear
  | keyed (phase : Phase) (key : Key)
  | withdrawn
  deriving DecidableEq, Repr, Inhabited

def State.captureOf (s : State) (e : ProgrammeEntry) : Capture :=
  match e.group with
  | none => .clear
  | some g =>
      match (s.group g).activeSlot with
      | some (ph, k) => .keyed ph k.key
      | none => .withdrawn

/-- The items an entry becomes at its boundary: g slices of its unit, or g filler slices in their place (R73). -/
def State.entryItems (s : State) (e : ProgrammeEntry) : List Item :=
  match s.captureOf e with
  | .clear => [.programme e none 0]
  | .keyed ph key => [.programme e (some (ph, key)) 0]
  | .withdrawn => fillerItems e.grant

/-- The entries withdrawn at the boundary (R73). -/
def State.withdrawnOf (s : State) (entries : List ProgrammeEntry) : List ProgrammeEntry :=
  entries.filter (fun e => s.captureOf e == .withdrawn)

/-- The emission order of a list (R134). -/
def State.itemsOf (s : State) (c : CarrierNo) (l : EmissionList) (final : Bool) : List Item :=
  let withdrawn := s.withdrawnOf l.entries
  let directory := withdrawn.foldl (fun d e => markRepeat e.unit.programme d) l.directory
  .directory ⟨s.stationNumber, c, (s.carrier c).interval, final, directory⟩
    :: (l.access.map (fun a => .access a 1) ++ l.subscribers.map .subscriber
        ++ l.entries.flatMap s.entryItems ++ fillerItems l.filler)

/-- The building list becomes the emitting list; the cells of its withdrawn entries return to the free list (R73, R134,
R135): each entry's in body order, as R73 says, and the entries one after another in list order (log entry 25). -/
def State.beginInterval (s : State) (c : CarrierNo) (final : Bool) : State :=
  match (s.carrier c).building with
  | none => s
  | some l =>
      let items := s.itemsOf c l final
      let cells := (s.withdrawnOf l.entries).flatMap (·.unit.cells)
      (s.setCarrier c { s.carrier c with building := none, emitting := some items }).freeUp cells

/-- The first interval of a newly armed carrier: one directory slice and S_min − 1 filler slices (R7, R139). -/
def State.firstInterval (s : State) (c : CarrierNo) : State :=
  let k := s.carrier c
  let d : DirectoryBody := ⟨s.stationNumber, c, k.interval, false, s.directoryRecord c⟩
  s.setCarrier c { k with emitting := some (.directory d :: fillerItems (k.spec.guaranteed - 1)) }

/-! ### Meanings -/

/-- A shrink completion (R66). -/
def execShrinkCompletion (carrier : CarrierNo) (s : State) : Host.Outcome State Fault Refusal :=
  .next (s.shrinkCompletion carrier)

/-- The emission of the next slice (R133). -/
def execSliceEmission (carrier : CarrierNo) (s : State) : Host.Outcome State Fault Refusal :=
  .next (s.sliceEmission carrier)

end Sys2Proof.Machine
end

