-- ==== Sys2Proof/Machine/Boundary.lean ====
section
/-! DEFINITION. The interval boundaries of a carrier (R7): going on air, the intervals of service, draining, becoming
OFF. -/

namespace Sys2Proof.Machine

/-- A carrier that goes on air gains every group that has a LIVE or RESYNC programme naming it, its entries due at the
boundary time (R115). -/
def State.gainGroups (s : State) (c : CarrierNo) (b : Time) : State :=
  (List.finRange 32).foldl (fun s g => if s.carriesGroup c g then s.gainGroup c g b else s) s

/-- The next boundary time advances by T (R5, R7). -/
def State.advance (s : State) (c : CarrierNo) (b : Time) : State :=
  s.setCarrier c { s.carrier c with nextBoundary := some (b + (s.carrier c).spec.interval) }

/-- The first boundary of an ARMED carrier: it is ON_AIR in interval 1, emits its first interval, gains its groups and
runs its first allocation event (R7, R90, R115). -/
def State.firstBoundary (s : State) (c : CarrierNo) (b : Time) : State :=
  let s := s.setCarrier c { s.carrier c with state := .onAir, interval := 1 }
  let s := (s.firstInterval c).gainGroups c b
  (s.recomputeAll.allocate c b).advance c b

/-- The interval in progress ends, and the list built at the previous boundary begins to be emitted under the next
interval number (R7, R63, R64, R134). -/
def State.nextInterval (s : State) (c : CarrierNo) (final : Bool) : State :=
  let s := (s.finishShrinks c).endInterval c
  let s := s.setCarrier c { s.carrier c with interval := (s.carrier c).interval + 1 }
  s.beginInterval c final

/-- A boundary of an ON_AIR carrier (R7). -/
def State.airBoundary (s : State) (c : CarrierNo) (b : Time) : State :=
  ((s.nextInterval c false).allocate c b).advance c b

/-- A boundary of a DRAINING carrier: the first finds the list built before it and emits it as the final list, without
an allocation event; the second finds none, and the carrier becomes OFF (R7). -/
def State.drainBoundary (s : State) (c : CarrierNo) (b : Time) : State :=
  if (s.carrier c).building.isSome then (s.nextInterval c true).advance c b
  else (s.endInterval c).carrierOff c

/-- A boundary that falls due at the stored time `b`, by the carrier's state (R7). -/
def State.takeBoundary (s : State) (c : CarrierNo) (b : Time) : State :=
  match (s.carrier c).state with
  | .off => s
  | .armed => s.firstBoundary c b
  | .onAir => s.airBoundary c b
  | .draining => s.drainBoundary c b

/-- The BOUNDARY event, when the next boundary time has been reached (R1, R7). -/
def State.boundary (s : State) (c : CarrierNo) : State :=
  match (s.carrier c).nextBoundary with
  | some b => if b ≤ s.time then s.takeBoundary c b else s
  | none => s

/-- A boundary of a carrier (R7, R37). -/
def execBoundary (carrier : CarrierNo) (s : State) : Host.Outcome State Fault Refusal := .next (s.boundary carrier)

end Sys2Proof.Machine
end

