-- ==== Sys2Proof/Machine/Ingest.lean ====
section
/-! DEFINITION. Picture unit ingest (chapter 2): the link states, unit headers, reassembly, cell claims, completion. -/

namespace Sys2Proof.Machine

/-! ### Link states (R19, R20, R21, R27) -/

/-- The ingest links are held DOWN by the reset input and by a restart (R154, R155). -/
def State.linksHeld (s : State) : Bool := s.resetLow || s.restart != .idle

/-- What leaving LOCKED ends: a unit being received is discarded, its cells returned in the order claimed, and its
programme becomes RESYNC (R20). -/
def State.endContext (s : State) (l : LinkNo) : State :=
  match (s.link l).context with
  | .receiving u => (s.freeUp u.cells).resync u.programme
  | _ => s

/-- A link leaves LOCKED for `next`: its context ends, and LINK_FAULT is added (R20). -/
def State.leaveLocked (s : State) (l : LinkNo) (next : LinkState) : State :=
  let s := s.endContext l
  (s.setLink l { s.link l with state := next, context := .empty }).addLinkFault l

/-- Signal detected: a DOWN link becomes SEARCHING (R19). -/
def State.signalDetected (s : State) (l : LinkNo) : State :=
  let k := s.link l
  s.setLink l
    { k with
      signal := true
      state := if k.state = .down ∧ s.linksHeld = false then .searching else k.state }

/-- Loss of signal: a SEARCHING link becomes DOWN, a LOCKED link leaves LOCKED for DOWN (R19, R20). -/
def State.lossOfSignal (s : State) (l : LinkNo) : State :=
  let s := s.setLink l { s.link l with signal := false }
  match (s.link l).state with
  | .down => s
  | .searching => s.setLink l { s.link l with state := .down }
  | .locked => s.leaveLocked l .down

/-- A missing sync mark takes a LOCKED link to SEARCHING (R21). -/
def State.missingSync (s : State) (l : LinkNo) : State :=
  if (s.link l).state = .locked then s.leaveLocked l .searching else s

/-- The context stands at the byte position after a unit's last body byte: the unit is received whole, or is being
skipped (R25, R27; log entry 26). -/
def Reassembly.atEnd : Reassembly → Bool
  | .empty => false
  | .receiving u => u.received == u.size
  | .skipping _ => true

/-- A runaway takes a LOCKED link to SEARCHING, the unit discarded (R27). -/
def State.runaway (s : State) (l : LinkNo) : State :=
  if (s.link l).state = .locked ∧ (s.link l).context.atEnd then s.leaveLocked l .searching else s

/-! ### Headers (R22, R23, R24) -/

/-- The largest unit, 1,048,576 bytes (R22). -/
def maxUnitSize : Nat := 1048576

/-- The partial unit record a header begins; complexity 0 is read as 1 (R22, R25). -/
def beginUnit (p : ProgrammeNo) (kind : UnitKind) (h : UnitHeader) : PartialUnit :=
  { programme := p
    kind := kind
    sequence := h.sequence
    size := h.size.toNat
    complexity := if h.complexity = 0 then 1 else h.complexity.toNat
    received := 0
    cells := [] }

/-- A header is taken: refused for a code or header error, skipped when its programme is not admitted, received
otherwise (R22, R23, R24). -/
def State.takeHeader (s : State) (l : LinkNo) (h : UnitHeader) : State :=
  match toSlot h.slotCode, toKind h.kind with
  | some slot, some kind =>
      if 1 ≤ h.size.toNat ∧ h.size.toNat ≤ maxUnitSize then
        let p := programmeOf l slot
        s.setLink l
          { s.link l with
            context := if s.admitted p then .receiving (beginUnit p kind h) else .skipping h.size.toNat }
      else
        let s := s.countHeaderError l
        s.setLink l { s.link l with context := .skipping h.size.toNat }
  | _, _ =>
      let s := s.countHeaderError l
      s.setLink l { s.link l with context := .skipping h.size.toNat }

/-- A header at a header position of a LOCKED link (R22). -/
def State.headerTaken (s : State) (l : LinkNo) (h : UnitHeader) : State :=
  if (s.link l).state = .locked ∧ (s.link l).context = .empty then s.takeHeader l h else s

/-- A sync mark found: a SEARCHING link becomes LOCKED and takes the header that begins with the mark; on a LOCKED
link the mark begins a header (R19, R22). -/
def State.syncMarkFound (s : State) (l : LinkNo) (h : UnitHeader) : State :=
  match (s.link l).state with
  | .down => s
  | .searching => (s.setLink l { s.link l with state := .locked, context := .empty }).takeHeader l h
  | .locked => s.headerTaken l h

/-! ### Cell claims (R25, R26) -/

/-- A claim that finds the free list empty: the unit is discarded, the rest of its body skipped (R26). -/
def State.exhaust (s : State) (l : LinkNo) (u : PartialUnit) : State :=
  let s := ((s.freeUp u.cells).resync u.programme).addStoreExhausted
  s.setLink l { s.link l with context := .skipping (u.size - u.received) }

/-- A claim that takes the cell at the head of the free list; the bytes of the stretch are written into it (R25). -/
def State.claim (s : State) (l : LinkNo) (u : PartialUnit) (c : CellNo) (rest : List CellNo) (stretch : List Byte) :
    State :=
  let bytes := stretch.take (min Config.cellBytes (u.size - u.received))
  let s := { s with freeCells := rest, memory := s.memory.writeBytes (cellBase c) bytes }
  s.setLink l
    { s.link l with context := .receiving { u with received := u.received + bytes.length, cells := u.cells ++ [c] } }

/-- The first byte of a 2,048-byte stretch of a received body arrives (R25). -/
def State.cellClaim (s : State) (l : LinkNo) (stretch : List Byte) : State :=
  match (s.link l).context with
  | .receiving u =>
      if (s.link l).state = .locked ∧ u.received < u.size ∧ u.received % Config.cellBytes = 0 ∧ stretch ≠ [] then
        match s.freeCells with
        | [] => s.exhaust l u
        | c :: rest => s.claim l u c rest stretch
      else s
  | _ => s

/-! ### Completion (R28, R29, R30) -/

/-- The sequence check: a valid expected sequence that differs makes the programme RESYNC; it then becomes the next
number, valid (R29). -/
def Programme.checkSequence (k : Programme) (q : BitVec 16) : Programme :=
  let k' := match k.expected with
    | some e => if e = q then k else k.toResync
    | none => k
  { k' with expected := some (q + 1) }

/-- The queue placement: appended at the tail; a full queue loses its oldest bridge, or, holding none, the arriving
unit is discarded and the programme becomes RESYNC (R30). -/
def State.placeUnit (s : State) (u : UnitRecord) : State :=
  let k := s.programme u.programme
  if k.queue.length < Config.queueLimit then s.setProgramme u.programme { k with queue := k.queue ++ [u] }
  else
    match k.queue.find? (fun x => x.kind == .bridge) with
    | some b =>
        (s.setProgramme u.programme
          { k with queue := k.queue.eraseP (fun x => x.kind == .bridge) ++ [u] }).freeUp b.cells
    | none => (s.freeUp u.cells).resync u.programme

/-- The unit record of a unit received whole (R31). -/
def PartialUnit.record (u : PartialUnit) : UnitRecord := ⟨u.programme, u.kind, u.size, u.complexity, u.cells⟩

/-- A received unit completes: judged for admission again, checked and placed, or discarded (R28). -/
def State.completeUnit (s : State) (u : PartialUnit) : State :=
  if s.admitted u.programme then
    (s.setProgramme u.programme ((s.programme u.programme).checkSequence u.sequence)).placeUnit u.record
  else s.freeUp u.cells

/-- The position after a unit's last body byte carries a mark (R28). -/
def State.unitCompletion (s : State) (l : LinkNo) : State :=
  let k := s.link l
  if k.state = .locked ∧ k.context.atEnd then
    let s := s.setLink l { k with context := .empty }
    match k.context with
    | .receiving u => s.completeUnit u
    | _ => s
  else s

/-! ### Meanings -/

/-- Signal detected on an ingest link (R19). -/
def execSignalDetected (link : LinkNo) (s : State) : Host.Outcome State Fault Refusal := .next (s.signalDetected link)

/-- Loss of signal on an ingest link (R19, R20). -/
def execLossOfSignal (link : LinkNo) (s : State) : Host.Outcome State Fault Refusal := .next (s.lossOfSignal link)

/-- A sync mark found, with the header that begins with it (R19, R22). -/
def execSyncMarkFound (link : LinkNo) (header : UnitHeader) (s : State) : Host.Outcome State Fault Refusal :=
  .next (s.syncMarkFound link header)

/-- A unit header taken on a LOCKED link (R22). -/
def execHeaderTaken (link : LinkNo) (header : UnitHeader) (s : State) : Host.Outcome State Fault Refusal :=
  .next (s.headerTaken link header)

/-- A stretch of a body begins (R25). -/
def execCellClaim (link : LinkNo) (stretch : List Byte) (s : State) : Host.Outcome State Fault Refusal :=
  .next (s.cellClaim link stretch)

/-- A missing sync mark (R21). -/
def execMissingSyncMark (link : LinkNo) (s : State) : Host.Outcome State Fault Refusal := .next (s.missingSync link)

/-- A runaway unit (R27). -/
def execRunawayUnit (link : LinkNo) (s : State) : Host.Outcome State Fault Refusal := .next (s.runaway link)

/-- A unit completes (R28). -/
def execUnitCompletion (link : LinkNo) (s : State) : Host.Outcome State Fault Refusal := .next (s.unitCompletion link)

end Sys2Proof.Machine
end

