-- ==== Sys2Proof/Machine/Ports.lean ====
section
/-! DEFINITION. The order ports (chapter 10): the orders every port may send, frames that are no order, the line of a
port. -/

namespace Sys2Proof.Machine

/-! ### READ TIME (R2) -/

/-- READ TIME: the station time at acceptance and the station number. -/
def readTime (s : State) : State × Response := (s, .done (.time s.time s.stationNumber))

/-! ### READ CONDITION (R151) -/

/-- A condition record as READ CONDITION leaves it: flag cleared, causes absent, counts 0. -/
def AccessCondition.cleared : AccessCondition := { AccessCondition.reset with restartSeen := false }
def ManagerCondition.cleared : ManagerCondition := { ManagerCondition.reset with restartSeen := false }

/-- READ CONDITION on the manager port: its record and the ingest link states; then the record is cleared and the port
READY. -/
def readManagerCondition (s : State) : State × Response :=
  ({ s with manager := { s.manager with state := .ready, condition := ManagerCondition.cleared } },
    .done (.managerCondition s.manager.condition (s.links.map (·.state))))

/-- The state of an access port after READ CONDITION: EXCEPTION returns to READY (R148, R151). -/
def PortState.afterRead : PortState → PortState
  | .detached => .detached
  | .ready => .ready
  | .exception => .ready

/-- READ CONDITION on an access port: its record and its state before the read; then the record is cleared. -/
def readAccessCondition (p : PortNo) (s : State) : State × Response :=
  let k := s.port p
  (s.setPort p { k with state := k.state.afterRead, condition := AccessCondition.cleared },
    .done (.accessCondition k.condition k.state))

/-- READ CONDITION. -/
def readCondition (f : Frame) (s : State) : State × Response :=
  match f.port with
  | .manager => readManagerCondition s
  | .access p => readAccessCondition p s

/-! ### READ SUMMARY (R152) -/

/-- READ SUMMARY: port state, restart-seen flag, number of causes, set flags. -/
def readSummary (f : Frame) (s : State) : State × Response :=
  match f.port with
  | .manager =>
      let m := s.manager
      (s, .done (.managerSummary m.state m.condition.restartSeen m.condition.causes.length m.flags))
  | .access p =>
      let k := s.port p
      (s, .done (.accessSummary k.state k.condition.restartSeen k.condition.causes.length k.flags))

/-! ### ACKNOWLEDGE (R153) -/

/-- ACKNOWLEDGE of BATCH_END: an access port's, cleared always; a kind that names no row, or BATCH_END on the manager
port, is refused. The object is not read. -/
def acknowledgeBatchEnd (f : Frame) (kind : Selector) (s : State) : State × Response :=
  match f.port, kind with
  | .access p, .named => (s.setBatchEnd p false, .done (.acknowledged false))
  | _, _ => refused s .range

/-- ACKNOWLEDGE of GROUP_ALERT: the manager port's, cleared when the group's alert condition does not hold. -/
def acknowledgeGroupAlert (f : Frame) (object : Nat) (s : State) : State × Response :=
  match f.port, toGroup object with
  | .manager, some g =>
      let t := if (s.group g).alert then s else s.setGroupAlert g false
      (t, .done (.acknowledged t.manager.groupAlert[g.val]))
  | _, _ => refused s .range

/-- ACKNOWLEDGE of CARRIER_ALERT: the manager port's, cleared when the latest event was not degraded. -/
def acknowledgeCarrierAlert (f : Frame) (object : Nat) (s : State) : State × Response :=
  match f.port, toCarrier object with
  | .manager, some c =>
      let t := if (s.carrier c).degraded then s else s.setCarrierAlert c false
      (t, .done (.acknowledged t.manager.carrierAlert[c.val]))
  | _, _ => refused s .range

/-! ### Frames that are no order (R145, R146, R147) -/

/-- A checked frame whose code names no order. -/
def State.unknownCode (s : State) (p : PortId) (code : Nat) : State :=
  s.takeFrame p code .busy (fun s => s.refuse p code .unknown)

/-- A frame with a check mismatch or a length above 1,024. -/
def State.framingFailure (s : State) (p : PortId) (code : Nat) : State :=
  s.takeFrame p code .check (fun s => s.refuse p code .check)

/-! ### The line (R145, R146, R149) -/

/-- The last byte of a reply or refusal has been sent: its order is no longer in hand, and the refusal waiting is sent
next (R146). -/
def OrderLine.sent (l : OrderLine) : OrderLine :=
  if l.sending.isSome then { l with inHand := none, sending := l.waiting, waiting := none } else l

def State.replySent (s : State) (p : PortId) : State := s.setLine p (s.line p).sent

/-- The lines held DOWN: all by the reset input; those of the access ports by a restart, which leaves the manager
port's link its state (R154, R155). -/
def State.lineHeld (s : State) : PortId → Bool
  | .manager => s.resetLow
  | .access _ => s.resetLow || s.restart != .idle

/-- Signal detected on a line: the link is UP, unless it is held (R145). -/
def State.linkUp (s : State) (p : PortId) : State :=
  s.setLine p { s.line p with signal := true, up := (s.line p).up || !s.lineHeld p }

/-- A line that has lost its signal at station time `t`: nothing in hand, nothing being sent, and nothing waiting, be it
a BUSY refusal, as R149 says, or a CHECK refusal (log entry 38). -/
def OrderLine.lost (l : OrderLine) (t : Time) : OrderLine :=
  { OrderLine.reset with lostAt := if l.up then some t else l.lostAt }

/-- The manager port's link goes DOWN: the port keeps its state, record and flags; a RESTART PART in hand stays in hand
to its completion, its reply unwanted (R149). -/
def State.managerLinkDown (s : State) : State :=
  match s.restart with
  | .idle => s.setLine .manager (s.manager.line.lost s.time)
  | .running _ =>
      { s.setLine .manager { s.manager.line.lost s.time with inHand := s.manager.line.inHand } with
        restart := .running false }

/-- An access port's link goes DOWN: an attached port detaches (R101, R149). -/
def State.accessLinkDown (s : State) (p : PortNo) : State :=
  let t := s.setLine (.access p) ((s.port p).line.lost s.time)
  if (t.port p).state = .detached then t else t.detachPort p

/-- Signal lost on a line (R145, R149). -/
def State.linkDown (s : State) : PortId → State
  | .manager => s.managerLinkDown
  | .access p => s.accessLinkDown p

/-! ### Meanings -/

/-- READ TIME (R2). -/
def execReadTime (f : Frame) (s : State) : Host.Outcome State Fault Refusal := .next (s.takeOrder f .readTime readTime)

/-- READ CONDITION (R151). -/
def execReadCondition (f : Frame) (s : State) : Host.Outcome State Fault Refusal :=
  .next (s.takeOrder f .readCondition (readCondition f))

/-- READ SUMMARY (R152). -/
def execReadSummary (f : Frame) (s : State) : Host.Outcome State Fault Refusal :=
  .next (s.takeOrder f .readSummary (readSummary f))

/-- ACKNOWLEDGE of BATCH_END (R128, R153). -/
def execAcknowledgeBatchEnd (f : Frame) (kind : Selector) (_object : Nat) (s : State) :
    Host.Outcome State Fault Refusal :=
  .next (s.takeOrder f .acknowledge (acknowledgeBatchEnd f kind))

/-- ACKNOWLEDGE of GROUP_ALERT (R153). -/
def execAcknowledgeGroupAlert (f : Frame) (object : Nat) (s : State) : Host.Outcome State Fault Refusal :=
  .next (s.takeOrder f .acknowledge (acknowledgeGroupAlert f object))

/-- ACKNOWLEDGE of CARRIER_ALERT (R59, R153). -/
def execAcknowledgeCarrierAlert (f : Frame) (object : Nat) (s : State) : Host.Outcome State Fault Refusal :=
  .next (s.takeOrder f .acknowledge (acknowledgeCarrierAlert f object))

/-- A frame whose order code names no order (R147). -/
def execUnknownOrderCode (port : PortId) (code : Nat) (s : State) : Host.Outcome State Fault Refusal :=
  .next (s.unknownCode port code)

/-- A framing failure (R145). -/
def execFramingFailure (port : PortId) (code : Nat) (s : State) : Host.Outcome State Fault Refusal :=
  .next (s.framingFailure port code)

/-- The last byte of a reply or refusal is sent (R146). -/
def execReplySent (port : PortId) (s : State) : Host.Outcome State Fault Refusal := .next (s.replySent port)

/-- Signal detected on an order port's line (R145). -/
def execOrderLinkUp (port : PortId) (s : State) : Host.Outcome State Fault Refusal := .next (s.linkUp port)

/-- Signal lost on an order port's line (R149). -/
def execOrderLinkDown (port : PortId) (s : State) : Host.Outcome State Fault Refusal := .next (s.linkDown port)

end Sys2Proof.Machine
end

