-- ==== Sys2Proof/Machine/Resets.lean ====
section
/-! DEFINITION. Power-on, the reset input, RESTART PART and its completion (R154, R155). -/

namespace Sys2Proof.Machine

/-- The signals on a line, with the rest of it at its reset values. -/
def OrderLine.resetKeeping (l : OrderLine) : OrderLine := { OrderLine.reset with signal := l.signal }

/-- Every block at its reset values (R154). What is no block's state stays: the waiting commands, the signals on the
lines, the contents of picture memory (log entry 5), the station number, the indices of free values; the key generator
is reseeded (R79). -/
def State.resetBlocks (s : State) : State :=
  { State.reset with
    pending := s.pending
    stationNumber := s.stationNumber
    links := s.links.map (fun k => { IngestLink.reset with signal := k.signal })
    memory := s.memory
    manager := { ManagerPort.reset with line := s.manager.line.resetKeeping }
    access := s.access.map (fun k => { AccessPort.reset with line := k.line.resetKeeping })
    keySeed := s.keySeed + 1
    keyIndex := 0
    freeIndex := s.freeIndex }

/-- The release of the reset input: a power-on. The station number is latched from the strap pins (R2, R154). -/
def State.powerOn (s : State) (straps : BitVec 4) : State := { s.resetBlocks with stationNumber := straps }

/-- The reset input is driven low: the blocks are held at their reset values (R154; log entry 22). -/
def State.holdReset (s : State) : State := { s.resetBlocks with resetLow := true }

/-- The acceptance of RESTART PART: every block is reset, the manager port's link keeps its state, and the order stays
in hand until its reply has been sent (R155). -/
def State.restartPart (s : State) : State :=
  let t := s.resetBlocks
  { t with
    restart := .running true
    manager :=
      { t.manager with line := { t.manager.line with up := s.manager.line.up, inHand := some .restartPart } } }

/-- RESTART PART reaches a port (R147, R155). -/
def State.takeRestart (s : State) (f : Frame) : State :=
  s.takeFrame f.port Order.restartPart.code .busy fun s =>
    match s.judge f .restartPart with
    | some r => s.refuse f.port Order.restartPart.code r
    | none => s.restartPart

/-- The restart completes: the ports take frames, and the manager port sends the DONE reply, with the station number
and the station time at completion, unless its link went DOWN meanwhile (R149, R155). -/
def State.restartCompletion (s : State) : State :=
  match s.restart with
  | .idle => s
  | .running wanted =>
      let t := { s with restart := .idle }
      if wanted then
        t.send .manager (some .restartPart) ⟨Order.restartPart.code, .done (.restart s.stationNumber s.time)⟩
      else t.setLine .manager { t.manager.line with inHand := none }

/-! ### Meanings -/

/-- RESTART PART (R155). -/
def execRestartPart (f : Frame) (s : State) : Host.Outcome State Fault Refusal := .next (s.takeRestart f)

/-- The completion of a restart (R155). -/
def execRestartCompletion (s : State) : Host.Outcome State Fault Refusal := .next s.restartCompletion

/-- Power-on: the release of the reset input (R154). -/
def execPowerOn (straps : BitVec 4) (s : State) : Host.Outcome State Fault Refusal := .next (s.powerOn straps)

/-- The reset input goes low (R154). -/
def execResetInputLow (s : State) : Host.Outcome State Fault Refusal := .next s.holdReset

end Sys2Proof.Machine
end

