-- ==== Sys2Proof/Machine/Clock.lean ====
section
/-! DEFINITION. What the part does while no command waits (log entry 1): the events that are due now are put into the
queue; where none is due, one microsecond passes on the station clock and on the carrier output lines (R1, R133). -/

namespace Sys2Proof.Machine

/-! ### What is due now -/

/-- The restart in progress completes now (R155; log entry 10). -/
def State.restartDue (s : State) : Bool :=
  s.restart != .idle && (Config.restartDone s.time || decide (Config.restartLimit ≤ s.time + 1))

/-- The next shrink completion of a carrier comes now: at a time left open, or at the last microsecond before the next
boundary (R64; log entry 10). At such a time the completions of the list come one after another, each in an event of its
own, until none is outstanding: R64 leaves open how they are spaced (log entry 10). -/
def State.shrinkDue (s : State) (c : CarrierNo) : Bool :=
  s.afterEvent c && decide (0 < s.shrinksLeft c)
    && (Config.shrinkDone c s.time || s.isDue ((s.carrier c).nextBoundary.map (· - 1)))

/-- A boundary of a carrier is due (R7). -/
def State.boundaryDue (s : State) (c : CarrierNo) : Bool :=
  (s.carrier c).state != .off && s.isDue (s.carrier c).nextBoundary

/-- A slice can be placed: the buffer has room and the list has slices (R133). -/
def State.sliceDue (s : State) (c : CarrierNo) : Bool := (s.carrier c).hasRoom && (s.carrier c).emits

/-- An ingest link whose line carries a signal is DOWN and not held (R19). -/
def State.signalDue (s : State) (l : LinkNo) : Bool :=
  (s.link l).signal && (s.link l).state == .down && !s.linksHeld

/-- An order port's line carries a signal and its link is DOWN and not held (R145). -/
def State.linkUpDue (s : State) (p : PortId) : Bool := (s.line p).signal && !(s.line p).up && !s.lineHeld p

/-- The group events that are due, each in the states its rule gives (R85, R86, R91). -/
def State.drawDue (s : State) (g : GroupNo) : Bool :=
  (s.group g).state == .running && s.isDue (s.group g).drawTime
def State.startDue (s : State) (g : GroupNo) : Bool :=
  (s.group g).state == .starting && s.isDue (s.group g).startTime
def State.changeoverDue (s : State) (g : GroupNo) : Bool :=
  (s.group g).state.keyed && s.isDue (s.group g).nextChangeover

/-- The commands of a family that are due. -/
def dueOf {n : Nat} (due : Fin n → Bool) (command : Fin n → Instr) : List Instr :=
  ((List.finRange n).filter due).map command

/-- The events that are due now. -/
def State.dueEvents (s : State) : List Instr :=
  (if s.restartDue then [.restartCompletion] else [])
    ++ dueOf s.signalDue .signalDetected
    ++ (if s.linkUpDue .manager then [.orderLinkUp .manager] else [])
    ++ dueOf (fun p => s.linkUpDue (.access p)) (fun p => .orderLinkUp (.access p))
    ++ dueOf s.boundaryDue .boundary
    ++ dueOf s.drawDue .drawEvent ++ dueOf s.startDue .startEvent ++ dueOf s.changeoverDue .changeoverEvent
    ++ dueOf s.shrinkDue .shrinkCompletion ++ dueOf s.sliceDue .sliceEmission

/-! ### Their order (R1: either may be taken first; log entry 12) -/

/-- An event is put among others at a free place. -/
def insertAt (k : Nat) (c : Instr) (cs : List Instr) : List Instr := cs.take k ++ c :: cs.drop k

/-- The events in an order left open, from free value `index` on. -/
def freeOrder : Nat → List Instr → List Instr
  | _, [] => []
  | index, c :: cs => insertAt (Config.dueOrder index % (cs.length + 1)) c (freeOrder (index + 1) cs)

/-! ### A microsecond (R1, R133) -/

/-- The output line drains the transmit buffer at the carrier's rate, a bit at a time; the line stands still while the
buffer is empty (R133; log entry 35). -/
def Carrier.drain (k : Carrier) : Carrier :=
  match k.buffer with
  | [] => k
  | _ :: rest =>
      let parts := k.bitPart + k.spec.rate
      let bits := k.bitsSent + parts / Config.second
      if Config.sliceBits ≤ bits then
        { k with
          buffer := rest
          bitsSent := if rest.isEmpty then 0 else bits - Config.sliceBits
          bitPart := parts % Config.second }
      else { k with bitsSent := bits, bitPart := parts % Config.second }

/-- The largest station time, a 64-bit count (R1). -/
def maxTime : Nat := 18446744073709551615

/-- Station time increases by 1; past its maximum it is free (R1; log entry 6). -/
def State.tickClock (s : State) : State :=
  if s.time < maxTime then { s with time := s.time + 1 }
  else { s with time := (Config.clockAfterMaximum s.freeIndex).toNat, freeIndex := s.freeIndex + 1 }

/-- One microsecond passes. While the reset input is low the part stands still (R154). -/
def State.tick (s : State) : State :=
  if s.resetLow then s else { s.tickClock with carriers := s.carriers.map Carrier.drain }

/-- A step on an empty queue. What an event makes due at this same station time, such as the first slice of a list that a
boundary has begun, or a start whose time an airing has just set, is put into the queue only once all that is due now has
been taken: the spec lets either come first (log entry 12). -/
def State.idle (s : State) : State :=
  match s.dueEvents with
  | [] => s.tick
  | c :: cs =>
      { s with
        pending := s.pending ++ freeOrder s.freeIndex (c :: cs)
        freeIndex := s.freeIndex + (c :: cs).length }

end Sys2Proof.Machine
end

