-- ==== Sys2Proof/Machine/Groups.lean ====
section
/-! DEFINITION. The manager's orders on scrambling groups: DEFINE GROUP, RELEASE GROUP, RESTART GROUP, READ GROUP
(R80 to R83, R94). -/

namespace Sys2Proof.Machine

/-! ### DEFINE GROUP (R80, R81) -/

/-- The roles of a new group: roster members ABSENT, other ports NOT_MEMBER (R80). -/
def newRoles (roster : PortSet) : Vector Role 4 :=
  Vector.ofFn (fun p => if hasItem roster p then .absent else .notMember)

/-- A FREE group is defined: it enters PLANNING (R80). -/
def State.defineFree (s : State) (g : GroupNo) (d : GroupDef) : State :=
  s.setGroup g { Group.reset with state := .planning, definition := some d, roles := newRoles d.roster }

/-- Members removed from the roster become NOT_MEMBER, members added ABSENT (R81). -/
def State.changeRoster (s : State) (g : GroupNo) (roster : PortSet) : State :=
  (List.finRange 4).foldl
    (fun s p =>
      let old := (s.group g).roles[p.val]
      if hasItem roster p then (if old == .notMember then s.setRole g p .absent else s)
      else if old == .notMember then s else s.setRole g p .notMember) s

/-- The new extension limit: the count is lowered to it; an EXTENDED group at it freezes, a FROZEN group below it is
EXTENDED (R81). -/
def State.changeLimit (s : State) (g : GroupNo) (limit : Nat) : State :=
  let grp := s.group g
  let count := min grp.extensions limit
  match grp.state with
  | .extended =>
      if count = limit then
        ((s.setGroup g { grp with extensions := count, state := .frozen }).addGroupFrozen g).setGroupAlert g true
      else s.setGroup g { grp with extensions := count }
  | .frozen => s.setGroup g { grp with extensions := count, state := if count = limit then .frozen else .extended }
  | _ => s.setGroup g { grp with extensions := count }

/-- A defined group's definition is replaced; its keys, slots and timing are kept (R81). -/
def State.redefine (s : State) (g : GroupNo) (d : GroupDef) : State :=
  let s := s.setGroup g { s.group g with definition := some d }
  (s.changeRoster g d.roster).changeLimit g d.limit

/-- DEFINE GROUP. -/
def defineGroup (group : Nat) (roster : BitVec 8) (preference : List Nat) (repeatMs limit policy : Nat) (s : State) :
    State × Response :=
  match toGroup group, toGroupDef roster preference repeatMs limit policy with
  | some g, some d =>
      let t := (if (s.group g).state = .free then s.defineFree g d else s.redefine g d).resolve g
      (t, .done (.groupState (t.group g).state))
  | _, _ => refused s .range

/-! ### RELEASE GROUP (R82) -/

/-- A programme that is not UNUSED names the group. -/
def State.groupNamed (s : State) (g : GroupNo) : Bool :=
  (List.finRange 48).any (fun p => (s.programme p).state != .unused && (s.programme p).group == some g)

/-- The group returns to FREE: keys, packets, definition, plan, roles and times go, and its waiting flags clear. -/
def State.release (s : State) (g : GroupNo) : State :=
  let s := (s.setGroup g Group.reset).removeGroupEntries g
  (List.finRange 4).foldl (fun s p => (s.setKeyWaiting p g false).setPlanWaiting p g false) s

/-- RELEASE GROUP. -/
def releaseGroup (group : Nat) (s : State) : State × Response :=
  match toGroup group with
  | none => refused s .range
  | some g =>
      if (s.group g).state = .free ∨ s.groupNamed g then refused s .state else (s.release g, .done .empty)

/-! ### RESTART GROUP (R94) -/

/-- The pending key is drawn again under the same serial, its packets deleted; the group is EXTENDED with count 0 and a
new changeover time, by the lead time of the plan that the start or the latest swap applied (R109; log entry 37). -/
def State.restartGroup (s : State) (g : GroupNo) : State :=
  let grp := s.group g
  let serial :=
    match grp.pendingSlot with
    | some k => k.serial
    | none => match grp.activeSlot with | some (_, k) => k.serial + 1 | none => 0
  let lead := (grp.applied.map (·.lead)).getD 0
  let s := s.removeSlotEntries g grp.pendingPhase
  let s := s.drawPending g serial
  s.setGroup g
    { s.group g with
      state := .extended
      extensions := 0
      nextChangeover := some (ceilTo Config.second (s.time + lead * Config.second + Config.extension))
      drawTime := none }

/-- RESTART GROUP. -/
def restartGroup (group : Nat) (s : State) : State × Response :=
  match toGroup group with
  | none => refused s .range
  | some g =>
      if (s.group g).state = .extended ∨ (s.group g).state = .frozen then
        let t := s.restartGroup g
        (t, .done (.restarted (((t.group g).pendingSlot.map (·.serial)).getD 0) (t.group g).nextChangeover))
      else refused s .state

/-! ### READ GROUP (R83) -/

/-- What the reply shows of a slot: its state, its serial, its packets without their bodies. -/
def State.slotReport (s : State) (g : GroupNo) (ph : Phase) : SlotReport :=
  let slot := (s.group g).slot ph
  { state := s.slotState g ph
    serial := slot.map (·.serial)
    packets :=
      match slot with
      | some k => k.packets.map (fun pk => pk.map (fun x => ⟨x.body.length, sliceCount x.body.length, x.aired⟩))
      | none => Vector.replicate 4 none }

def State.groupReport (s : State) (g : GroupNo) : GroupReport :=
  let grp := s.group g
  { state := grp.state
    definition := grp.definition
    alert := grp.alert
    number := grp.plan.number
    status := grp.plan.status
    agreed := grp.plan.agreed
    roles := grp.roles
    slotA := s.slotReport g .a
    slotB := s.slotReport g .b
    relevant := s.relevant g
    lastChangeover := grp.lastChangeover
    nextChangeover := grp.nextChangeover
    drawTime := grp.drawTime
    startTime := grp.startTime
    extensions := grp.extensions }

/-- READ GROUP. -/
def readGroup (group : Nat) (s : State) : State × Response :=
  match toGroup group with
  | none => refused s .range
  | some g => (s, .done (.group (s.groupReport g)))

/-! ### Meanings -/

/-- DEFINE GROUP (R80, R81). -/
def execDefineGroup (f : Frame) (group : Nat) (roster : BitVec 8) (preference : List Nat)
    (repeatMs limit policy : Nat) (s : State) : Host.Outcome State Fault Refusal :=
  .next (s.takeOrder f .defineGroup (defineGroup group roster preference repeatMs limit policy))

/-- RELEASE GROUP (R82). -/
def execReleaseGroup (f : Frame) (group : Nat) (s : State) : Host.Outcome State Fault Refusal :=
  .next (s.takeOrder f .releaseGroup (releaseGroup group))

/-- RESTART GROUP (R94). -/
def execRestartGroup (f : Frame) (group : Nat) (s : State) : Host.Outcome State Fault Refusal :=
  .next (s.takeOrder f .restartGroup (restartGroup group))

/-- READ GROUP (R83). -/
def execReadGroup (f : Frame) (group : Nat) (s : State) : Host.Outcome State Fault Refusal :=
  .next (s.takeOrder f .readGroup (readGroup group))

end Sys2Proof.Machine
end

