-- ==== Sys2Proof/Machine/Programmes.lean ====
section
/-! DEFINITION. The manager's orders on programmes: DEFINE PROGRAMME, SET PROGRAMME, READ PROGRAMME (R13 to R18). -/

namespace Sys2Proof.Machine

/-! ### DEFINE PROGRAMME (R14) -/

/-- The definition DEFINE PROGRAMME carries, where every field of it is in range (R14). -/
def toProgrammeDef (carrier group weight floor cap : Nat) : Option ProgrammeDef :=
  match toCarrier carrier, toGroupOrClear group with
  | some c, some g =>
      if 1 ≤ weight ∧ weight ≤ 16 ∧ floor ≤ 255 ∧ 1 ≤ cap ∧ cap ≤ 4229 ∧ floor ≤ cap then
        some ⟨c, g, weight, floor, cap⟩
      else none
  | _, _ => none

/-- The record with a definition: an UNUSED programme becomes IDLE with its tracking afresh, an IDLE one keeps it
(R14). -/
def Programme.define (k : Programme) (d : ProgrammeDef) : Programme :=
  if k.state = .unused then
    { k with state := .idle, definition := some d, expected := none, held := 0, continuity := 0 }
  else { k with definition := some d }

/-- Other programmes that are not UNUSED and name the carrier (R14). -/
def State.othersOn (s : State) (c : CarrierNo) (p : ProgrammeNo) : Nat :=
  ((s.programmesOf c).filter (fun q => !(q == p))).length

/-- A group named in a definition is FREE (R14). -/
def State.namesFree (s : State) : Option GroupNo → Bool
  | some g => (s.group g).state == .free
  | none => false

/-- DEFINE PROGRAMME. -/
def defineProgramme (programme carrier group weight floor cap : Nat) (s : State) : State × Response :=
  match toProgramme programme, toProgrammeDef carrier group weight floor cap with
  | some p, some d =>
      let k := s.programme p
      if !(k.state == .unused || k.state == .idle) then refused s .state
      else
        match (s.carrier d.carrier).definition with
        | none => refused s .state
        | some cd =>
            if s.namesFree d.group then refused s .state
            else if Config.programmesPerCarrier ≤ s.othersOn d.carrier p then refused s .overBudget
            else if d.group.isSome && decide (cd.reserve < 3) then refused s .overBudget
            else
              let t := s.setProgramme p (k.define d)
              if !t.admits d.carrier then refused s .overBudget
              else (t, .done (.committed (t.committedWith d.carrier cd.reserve)))
  | _, _ => refused s .range

/-! ### SET PROGRAMME (R15, R16) -/

/-- SET PROGRAMME with target LIVE: the programme is RESYNC with an invalid expected sequence, and an ON_AIR carrier may
gain its group (R15, R115). -/
def State.goLive (s : State) (p : ProgrammeNo) : State :=
  let k := s.programme p
  let t := s.setProgramme p { k with state := .resync, expected := none }
  match k.definition with
  | some d =>
      (match d.group with
        | some g =>
            let t :=
              if (s.carrier d.carrier).state == .onAir && !s.carriesGroup d.carrier g then
                t.gainGroup d.carrier g s.time
              else t
            t.recompute g
        | none => t)
  | none => t

def setProgrammeLive (programme : Nat) (target : Selector) (s : State) : State × Response :=
  match toProgramme programme, target with
  | some p, .named =>
      if (s.programme p).state = .idle then (s.goLive p, .done (.programmeState .resync)) else refused s .state
  | _, _ => refused s .range

/-- SET PROGRAMME with target IDLE: the queue is emptied, the held count 0, and the carrier may lose the group (R16,
R117). -/
def State.goIdle (s : State) (p : ProgrammeNo) : State :=
  let s := s.emptyQueue p
  let k := s.programme p
  let t := s.setProgramme p { k with state := .idle, held := 0 }
  match k.definition with
  | some d =>
      (match d.group with
        | some g =>
            let t := if t.carriesGroup d.carrier g then t else t.loseGroup d.carrier g
            t.recompute g
        | none => t)
  | none => t

def setProgrammeIdle (programme : Nat) (s : State) : State × Response :=
  match toProgramme programme with
  | none => refused s .range
  | some p =>
      if (s.programme p).serving then (s.goIdle p, .done (.programmeState .idle)) else refused s .state

/-- SET PROGRAMME with target UNUSED (R16). -/
def setProgrammeUnused (programme : Nat) (s : State) : State × Response :=
  match toProgramme programme with
  | none => refused s .range
  | some p =>
      let k := s.programme p
      if k.state = .idle then
        (s.setProgramme p { k with state := .unused, definition := none, expected := none, held := 0, continuity := 0 },
          .done (.programmeState .unused))
      else refused s .state

/-! ### READ PROGRAMME (R18) -/

/-- A unit of the programme is in reassembly on its ingest link (R18, R25). -/
def State.reassembling (s : State) (p : ProgrammeNo) : Bool :=
  match (s.link (linkOf p)).context with
  | .receiving u => u.programme == p
  | _ => false

def State.programmeReport (s : State) (p : ProgrammeNo) : ProgrammeReport :=
  let k := s.programme p
  { programme := p
    state := k.state
    definition := k.definition
    queued := k.queue.length
    reassembling := s.reassembling p
    expected := k.expected
    held := k.held
    continuity := k.continuity }

/-- READ PROGRAMME. -/
def readProgramme (programme : Nat) (s : State) : State × Response :=
  match toProgramme programme with
  | none => refused s .range
  | some p => (s, .done (.programme (s.programmeReport p)))

/-! ### Meanings -/

/-- DEFINE PROGRAMME (R14). -/
def execDefineProgramme (f : Frame) (programme carrier group weight floor cap : Nat) (s : State) :
    Host.Outcome State Fault Refusal :=
  .next (s.takeOrder f .defineProgramme (defineProgramme programme carrier group weight floor cap))

/-- SET PROGRAMME with target LIVE (R15). -/
def execSetProgrammeLive (f : Frame) (programme : Nat) (target : Selector) (s : State) :
    Host.Outcome State Fault Refusal :=
  .next (s.takeOrder f .setProgramme (setProgrammeLive programme target))

/-- SET PROGRAMME with target IDLE (R16). -/
def execSetProgrammeIdle (f : Frame) (programme : Nat) (s : State) : Host.Outcome State Fault Refusal :=
  .next (s.takeOrder f .setProgramme (setProgrammeIdle programme))

/-- SET PROGRAMME with target UNUSED (R16). -/
def execSetProgrammeUnused (f : Frame) (programme : Nat) (s : State) : Host.Outcome State Fault Refusal :=
  .next (s.takeOrder f .setProgramme (setProgrammeUnused programme))

/-- READ PROGRAMME (R18). -/
def execReadProgramme (f : Frame) (programme : Nat) (s : State) : Host.Outcome State Fault Refusal :=
  .next (s.takeOrder f .readProgramme (readProgramme programme))

end Sys2Proof.Machine
end

