-- ==== Sys2Proof/Machine/Dispatch.lean ====
section
/-! DEFINITION. One arm per command: its meaning. -/

namespace Sys2Proof.Machine

/-- The effect of a command on everything but the queue. -/
def exec (i : Instr) (s : State) : Host.Outcome State Fault Refusal :=
  match i with
  | .defineCarrier frame carrier rate interval reserve => Sys2Proof.Machine.execDefineCarrier frame carrier rate interval reserve s
  | .setCarrierOn frame carrier target => Sys2Proof.Machine.execSetCarrierOn frame carrier target s
  | .setCarrierOff frame carrier => Sys2Proof.Machine.execSetCarrierOff frame carrier s
  | .readCarrier frame carrier => Sys2Proof.Machine.execReadCarrier frame carrier s
  | .defineProgramme frame programme carrier group weight floor cap => Sys2Proof.Machine.execDefineProgramme frame programme carrier group weight floor cap s
  | .setProgrammeLive frame programme target => Sys2Proof.Machine.execSetProgrammeLive frame programme target s
  | .setProgrammeIdle frame programme => Sys2Proof.Machine.execSetProgrammeIdle frame programme s
  | .setProgrammeUnused frame programme => Sys2Proof.Machine.execSetProgrammeUnused frame programme s
  | .readProgramme frame programme => Sys2Proof.Machine.execReadProgramme frame programme s
  | .defineGroup frame group roster preference repeatMs limit policy => Sys2Proof.Machine.execDefineGroup frame group roster preference repeatMs limit policy s
  | .releaseGroup frame group => Sys2Proof.Machine.execReleaseGroup frame group s
  | .restartGroup frame group => Sys2Proof.Machine.execRestartGroup frame group s
  | .readGroup frame group => Sys2Proof.Machine.execReadGroup frame group s
  | .setAllowance frame port carrier allowance => Sys2Proof.Machine.execSetAllowance frame port carrier allowance s
  | .restartPart frame => Sys2Proof.Machine.execRestartPart frame s
  | .restartCompletion => Sys2Proof.Machine.execRestartCompletion s
  | .attach frame offer => Sys2Proof.Machine.execAttach frame offer s
  | .detach frame => Sys2Proof.Machine.execDetach frame s
  | .planAck frame group number offer => Sys2Proof.Machine.execPlanAck frame group number offer s
  | .fetchKeyActive frame group selector => Sys2Proof.Machine.execFetchKeyActive frame group selector s
  | .fetchKeyPending frame group => Sys2Proof.Machine.execFetchKeyPending frame group s
  | .submitAccess frame group serial body => Sys2Proof.Machine.execSubmitAccess frame group serial body s
  | .probeGroup frame group => Sys2Proof.Machine.execProbeGroup frame group s
  | .openBatch frame present count => Sys2Proof.Machine.execOpenBatch frame present count s
  | .submitSubscriber frame body mask urgent => Sys2Proof.Machine.execSubmitSubscriber frame body mask urgent s
  | .readTime frame => Sys2Proof.Machine.execReadTime frame s
  | .readCondition frame => Sys2Proof.Machine.execReadCondition frame s
  | .readSummary frame => Sys2Proof.Machine.execReadSummary frame s
  | .acknowledgeBatchEnd frame kind object => Sys2Proof.Machine.execAcknowledgeBatchEnd frame kind object s
  | .acknowledgeGroupAlert frame object => Sys2Proof.Machine.execAcknowledgeGroupAlert frame object s
  | .acknowledgeCarrierAlert frame object => Sys2Proof.Machine.execAcknowledgeCarrierAlert frame object s
  | .unknownOrderCode port code => Sys2Proof.Machine.execUnknownOrderCode port code s
  | .framingFailure port code => Sys2Proof.Machine.execFramingFailure port code s
  | .replySent port => Sys2Proof.Machine.execReplySent port s
  | .orderLinkUp port => Sys2Proof.Machine.execOrderLinkUp port s
  | .orderLinkDown port => Sys2Proof.Machine.execOrderLinkDown port s
  | .powerOn straps => Sys2Proof.Machine.execPowerOn straps s
  | .resetInputLow => Sys2Proof.Machine.execResetInputLow s
  | .signalDetected link => Sys2Proof.Machine.execSignalDetected link s
  | .lossOfSignal link => Sys2Proof.Machine.execLossOfSignal link s
  | .syncMarkFound link header => Sys2Proof.Machine.execSyncMarkFound link header s
  | .headerTaken link header => Sys2Proof.Machine.execHeaderTaken link header s
  | .cellClaim link stretch => Sys2Proof.Machine.execCellClaim link stretch s
  | .missingSyncMark link => Sys2Proof.Machine.execMissingSyncMark link s
  | .runawayUnit link => Sys2Proof.Machine.execRunawayUnit link s
  | .unitCompletion link => Sys2Proof.Machine.execUnitCompletion link s
  | .boundary carrier => Sys2Proof.Machine.execBoundary carrier s
  | .shrinkCompletion carrier => Sys2Proof.Machine.execShrinkCompletion carrier s
  | .sliceEmission carrier => Sys2Proof.Machine.execSliceEmission carrier s
  | .drawEvent group => Sys2Proof.Machine.execDrawEvent group s
  | .startEvent group => Sys2Proof.Machine.execStartEvent group s
  | .changeoverEvent group => Sys2Proof.Machine.execChangeoverEvent group s

end Sys2Proof.Machine
end

