-- ==== Sys2Proof/Machine/Wire.lean ====
section
/-! DEFINITION. What the part puts on its lines, byte by byte: reply frames and their bodies (R156), the key record
(R160), slices and their headers (R158). The widths of reply fields that R156 does not list are log entry 20. -/

namespace Sys2Proof.Machine

/-! ### Field types (R156) -/

def byteField (n : Nat) : List Byte := [byteOf n]
def wordField (n : Nat) : List Byte := beBytes 2 n
def longField (n : Nat) : List Byte := beBytes 4 n
def flagField (b : Bool) : List Byte := [if b then 1 else 0]
def set4Field (m : BitVec 4) : List Byte := [m.setWidth 8]

/-- A station time: 8 bytes, absent as all ones. -/
def timeField : Option Time → List Byte
  | some t => beBytes 8 t
  | none => List.replicate 8 255

/-- An optional value of `n` bytes: a present flag, then the value; an absent one as zeros. -/
def optionField {α : Type} (n : Nat) (enc : α → List Byte) : Option α → List Byte
  | some x => 1 :: enc x
  | none => 0 :: List.replicate n 0

/-- The items of a table of four, in ascending order. -/
def vectorField {α : Type} (enc : α → List Byte) (v : Vector α 4) : List Byte := v.toList.flatMap enc

/-! ### Enumerations, numbered from 0 in the order their rule lists them (R156) -/

def CarrierState.code : CarrierState → Nat
  | .off => 0 | .armed => 1 | .onAir => 2 | .draining => 3
def ProgrammeState.code : ProgrammeState → Nat
  | .unused => 0 | .idle => 1 | .live => 2 | .resync => 3
def GroupState.code : GroupState → Nat
  | .free => 0 | .planning => 1 | .starting => 2 | .running => 3 | .extended => 4 | .frozen => 5
def Role.code : Role → Nat
  | .notMember => 0 | .absent => 1 | .excluded => 2 | .joining => 3 | .joined => 4
def PlanStatus.code : PlanStatus → Nat
  | .none => 0 | .proposed => 1 | .agreed => 2 | .fault => 3
def SlotState.code : SlotState → Nat
  | .empty => 0 | .issued => 1 | .covered => 2 | .aired => 3 | .active => 4
def PortState.code : PortState → Nat
  | .detached => 0 | .ready => 1 | .exception => 2
def ManagerState.code : ManagerState → Nat
  | .ready => 0 | .exception => 1
def LinkState.code : LinkState → Nat
  | .down => 0 | .searching => 1 | .locked => 2
def LatePolicy.code : LatePolicy → Nat
  | .hold => 0 | .blank => 1

/-- A phase in a key record, a slice header and the other replies: 0 NONE, 1 A, 2 B (R158, R160). -/
def Phase.code : Phase → Nat
  | .a => 1 | .b => 2
def phaseCode : Option Phase → Nat
  | none => 0
  | some ph => ph.code

/-- The refusal codes 1 to 15 (R156). -/
def RefusalCode.code : RefusalCode → Nat
  | .busy => 1 | .check => 2 | .unknown => 3 | .notPermitted => 4 | .range => 5 | .state => 6 | .overBudget => 7
  | .exceptionPending => 8 | .detached => 9 | .stale => 10 | .length => 11 | .queueFull => 12 | .noBatch => 13
  | .batchSpent => 14 | .noCarrier => 15

/-- A cause, and an attention flag: kind, then object, 0 where the kind concerns none (R156). -/
def Cause.bytes : Cause → List Byte
  | .late g => [0, byteOf g.val]
  | .excluded g => [1, byteOf g.val]
  | .groupFrozen g => [2, byteOf g.val]
  | .storeExhausted => [3, 0]
  | .linkFault l => [4, byteOf l.val]
def Flag.bytes : Flag → List Byte
  | .keyWaiting g => [0, byteOf g.val]
  | .planWaiting g => [1, byteOf g.val]
  | .batchEnd => [2, 0]
  | .groupAlert g => [3, byteOf g.val]
  | .carrierAlert c => [4, byteOf c.val]

/-- A list of causes or flags: a count, then two bytes per entry (R156). -/
def listField {α : Type} (enc : α → List Byte) (xs : List α) : List Byte := byteField xs.length ++ xs.flatMap enc

/-- A group or clear: the group number, or 255 (R156). -/
def groupField : Option GroupNo → List Byte
  | some g => [byteOf g.val]
  | none => [255]

/-- A plan: period length and lead time in whole seconds (R156). -/
def planField (p : Plan) : List Byte := [byteOf p.period.seconds, byteOf p.lead]

/-! ### Records -/

/-- The key record, 25 bytes (R160). -/
def KeyRecord.bytes (r : KeyRecord) : List Byte :=
  [byteOf r.group.val, byteOf r.phase.code] ++ beBytes 2 r.serial.toNat ++ beBytes 12 r.key.toNat
    ++ timeField r.nextChangeover ++ [r.number]

def Counters.bytes (k : Counters) : List Byte :=
  longField k.filler ++ longField k.unitsShrunk ++ longField k.bridgesDropped ++ longField k.forwardsDropped
    ++ longField k.anchorsHeld ++ longField k.anchorsDiscarded ++ longField k.resyncDiscarded

/-- The reply to READ CARRIER, in the order of R10. R156 gives the number of programmes no width: it is sent as 2 bytes
(log entry 20). -/
def CarrierReport.bytes (r : CarrierReport) : List Byte :=
  flagField r.definition.isSome
    ++ optionField 4 (fun (d : CarrierDef) => longField d.rate) r.definition
    ++ optionField 4 (fun (d : CarrierDef) => longField d.interval) r.definition
    ++ optionField 2 (fun (d : CarrierDef) => wordField d.reserve) r.definition
    ++ optionField 2 (fun (d : CarrierDef) => wordField d.guaranteed) r.definition
    ++ vectorField wordField r.allowances
    ++ byteField r.state.code ++ timeField r.nextBoundary
    ++ longField r.interval.toNat ++ longField r.fraction ++ byteField r.rotate.val
    ++ flagField r.degraded ++ r.counters.bytes ++ wordField r.programmes
    ++ optionField 2 wordField r.committed ++ optionField 2 wordField r.spare

/-- The reply to READ PROGRAMME, in the order of R18. -/
def ProgrammeReport.bytes (r : ProgrammeReport) : List Byte :=
  [byteOf r.programme.val, byteOf r.state.code]
    ++ optionField 1 (fun (d : ProgrammeDef) => byteField d.carrier.val) r.definition
    ++ optionField 1 (fun (d : ProgrammeDef) => groupField d.group) r.definition
    ++ optionField 2 (fun (d : ProgrammeDef) => wordField d.weight) r.definition
    ++ optionField 2 (fun (d : ProgrammeDef) => wordField d.floor) r.definition
    ++ optionField 2 (fun (d : ProgrammeDef) => wordField d.cap) r.definition
    ++ byteField r.queued ++ flagField r.reassembling
    ++ wordField (r.expected.getD 0).toNat ++ flagField r.expected.isSome
    ++ byteField r.held ++ byteField r.continuity.toNat

/-- A stored packet in READ GROUP's reply: length, slice count, aired set (R83); the widths of the two counts are log
entry 20. -/
def PacketReport.bytes (p : PacketReport) : List Byte :=
  wordField p.length ++ byteField p.slices ++ set4Field p.aired

/-- A slot in READ GROUP's reply: its state and serial. -/
def SlotReport.bytes (r : SlotReport) : List Byte :=
  byteField r.state.code ++ optionField 2 (fun (x : Serial) => wordField x.toNat) r.serial

/-- The preference list: a count, then one byte per entry (R156). -/
def preferenceField (ps : List Period) : List Byte := listField (fun p => [byteOf p.seconds]) ps

/-- The definition of a group: roster, preference list, repeat period, extension limit, late policy (R76, R83). An absent
preference list is one byte of 0 after its flag, and the late policy one byte: R156 gives neither a width (log entry
20). -/
def groupDefFields (d : Option GroupDef) : List Byte :=
  optionField 1 (fun (d : GroupDef) => set4Field d.roster) d
    ++ optionField 1 (fun (d : GroupDef) => preferenceField d.preference) d
    ++ optionField 2 (fun (d : GroupDef) => wordField d.repeatMs) d
    ++ optionField 2 (fun (d : GroupDef) => wordField d.limit) d
    ++ optionField 1 (fun (d : GroupDef) => byteField d.policy.code) d

/-- The reply to READ GROUP, in the order of R83. -/
def GroupReport.bytes (r : GroupReport) : List Byte :=
  byteField r.state.code ++ groupDefFields r.definition ++ flagField r.alert
    ++ [r.number] ++ byteField r.status.code ++ optionField 2 planField r.agreed
    ++ vectorField (fun x => byteField x.code) r.roles
    ++ r.slotA.bytes ++ r.slotB.bytes
    ++ vectorField (optionField 4 PacketReport.bytes) r.slotA.packets
    ++ vectorField (optionField 4 PacketReport.bytes) r.slotB.packets
    ++ set4Field r.relevant
    ++ timeField r.lastChangeover ++ timeField r.nextChangeover ++ timeField r.drawTime ++ timeField r.startTime
    ++ wordField r.extensions

/-- The condition record of the manager port, with the ingest link states (R150, R151). -/
def ManagerCondition.bytes (k : ManagerCondition) : List Byte :=
  flagField k.restartSeen ++ listField Cause.bytes k.causes ++ wordField k.refused
    ++ k.linkErrors.toList.flatMap wordField ++ wordField k.ingestErrors ++ wordField k.storeExhaustions

/-- The condition record of an access port (R150). -/
def AccessCondition.bytes (k : AccessCondition) : List Byte :=
  flagField k.restartSeen ++ listField Cause.bytes k.causes ++ wordField k.refused ++ wordField k.lateCount

/-! ### Reply bodies -/

/-- The body of a DONE reply, its fields in the order in which the owning rule lists them (R156). Where R156 gives a
number no width, log entry 20 does: one byte for the slice count of an access packet, here and in READ GROUP, for a place,
for a queue length and for a number of causes, two for S_min and the committed total. -/
def ReplyBody.bytes : ReplyBody → List Byte
  | .empty => []
  | .guaranteed n => wordField n
  | .firstBoundary t => timeField (some t)
  | .carrierState st => byteField st.code
  | .carrier r => r.bytes
  | .committed n => wordField n
  | .programmeState st => byteField st.code
  | .programme r => r.bytes
  | .groupState st => byteField st.code
  | .restarted serial next => wordField serial.toNat ++ timeField next
  | .group r => r.bytes
  | .place n => byteField n
  | .planAck role number status => byteField role.code ++ [number] ++ byteField status.code
  | .key r => r.bytes
  | .stored phase slices => byteField phase.code ++ byteField slices
  | .probe role st number status plan =>
      byteField role.code ++ byteField st.code ++ [number] ++ byteField status.code ++ optionField 2 planField plan
  | .batch count queued => wordField count ++ byteField queued
  | .placed carriers head queued count =>
      set4Field carriers ++ byteField (if head then 0 else 1) ++ byteField queued ++ wordField count
  | .time t station => timeField (some t) ++ byteField station.toNat
  | .managerCondition r links => r.bytes ++ links.toList.flatMap (fun l => byteField l.code)
  | .accessCondition r st => r.bytes ++ byteField st.code
  | .managerSummary st seen causes flags =>
      byteField st.code ++ flagField seen ++ byteField causes ++ listField Flag.bytes flags
  | .accessSummary st seen causes flags =>
      byteField st.code ++ flagField seen ++ byteField causes ++ listField Flag.bytes flags
  | .acknowledged set => flagField set
  | .restart station t => byteField station.toNat ++ timeField (some t)

/-- Result 0 for DONE, or the refusal code (R156). -/
def Response.result : Response → Nat
  | .done _ => 0
  | .refused r => r.code

/-- The body of a reply: empty for a refusal (R156). -/
def Response.body : Response → List Byte
  | .done b => b.bytes
  | .refused _ => []

/-- A reply frame: start mark, order code as received, result, body length, body, check (R156). -/
def Reply.bytes (r : Reply) : List Byte :=
  let covered :=
    [byteOf r.code, byteOf r.response.result] ++ beBytes 2 r.response.body.length ++ r.response.body
  startMark ++ covered ++ beBytes 2 (frameCheck covered).toNat

/-! ### Slices (R158) -/

/-- The kinds of slice, 1 to 5 (R158). -/
def SliceKind.code : SliceKind → Nat
  | .directory => 1 | .access => 2 | .subscriber => 3 | .programme => 4 | .filler => 5

/-- The 8-byte header of a slice (R158). -/
def Slice.header (x : Slice) : List Byte :=
  [byteOf (x.kind.code * 32 + phaseCode x.phase * 8 + (if x.unitStart then 4 else 0) + x.part),
    byteOf (x.source * 4 + x.parts), byteOf (x.continuity.toNat * 16), byteOf x.step, byteOf x.group]
    ++ beBytes 2 x.serial.toNat ++ [byteOf x.fill]

/-- The 256 bytes of a slice: its header, then its payload (R158). -/
def Slice.bytes (x : Slice) : List Byte := x.header ++ x.payload

/-! ### Carrier output lines (R133, R154) -/

/-- The bit a carrier output line carries: the next bit of the slice at the front of the transmit buffer, each byte most
significant bit first (log entry 39); logic 0 while the carrier sends nothing (R133). -/
def Carrier.lineBit (k : Carrier) : Bool :=
  match k.buffer with
  | [] => false
  | x :: _ => (x.bytes.flatMap byteBits).getD k.bitsSent false

/-- The level of a carrier output line; logic 0 while the reset input is held low (R154). -/
def State.outputLevel (s : State) (c : CarrierNo) : Bool := !s.resetLow && (s.carrier c).lineBit

end Sys2Proof.Machine
end

