-- ==== Sys2Proof/Safety.lean ====
section
/-! DEFINITION. What claims about the part are stated with: when an order is accepted and how it is answered, and the
properties the spec promises of every state that a run reaches. -/

namespace Sys2Proof.Machine

/-! ### Orders (R145 to R147) -/

/-- The frame and the order of a command that is an order; none for the other commands. -/
def orderIn : Instr → Option (Frame × Order)
  | .defineCarrier f .. => some (f, .defineCarrier)
  | .setCarrierOn f .. => some (f, .setCarrier)
  | .setCarrierOff f .. => some (f, .setCarrier)
  | .readCarrier f .. => some (f, .readCarrier)
  | .defineProgramme f .. => some (f, .defineProgramme)
  | .setProgrammeLive f .. => some (f, .setProgramme)
  | .setProgrammeIdle f .. => some (f, .setProgramme)
  | .setProgrammeUnused f .. => some (f, .setProgramme)
  | .readProgramme f .. => some (f, .readProgramme)
  | .defineGroup f .. => some (f, .defineGroup)
  | .releaseGroup f .. => some (f, .releaseGroup)
  | .restartGroup f .. => some (f, .restartGroup)
  | .readGroup f .. => some (f, .readGroup)
  | .setAllowance f .. => some (f, .setAllowance)
  | .restartPart f => some (f, .restartPart)
  | .restartCompletion => none
  | .attach f _ => some (f, .attach)
  | .detach f => some (f, .detach)
  | .planAck f .. => some (f, .planAck)
  | .fetchKeyActive f .. => some (f, .fetchKey)
  | .fetchKeyPending f .. => some (f, .fetchKey)
  | .submitAccess f .. => some (f, .submitAccess)
  | .probeGroup f .. => some (f, .probeGroup)
  | .openBatch f .. => some (f, .openBatch)
  | .submitSubscriber f .. => some (f, .submitSubscriber)
  | .readTime f => some (f, .readTime)
  | .readCondition f => some (f, .readCondition)
  | .readSummary f => some (f, .readSummary)
  | .acknowledgeBatchEnd f .. => some (f, .acknowledge)
  | .acknowledgeGroupAlert f .. => some (f, .acknowledge)
  | .acknowledgeCarrierAlert f .. => some (f, .acknowledge)
  | .unknownOrderCode .. => none
  | .framingFailure .. => none
  | .replySent _ => none
  | .orderLinkUp _ => none
  | .orderLinkDown _ => none
  | .powerOn _ => none
  | .resetInputLow => none
  | .signalDetected _ => none
  | .lossOfSignal _ => none
  | .syncMarkFound .. => none
  | .headerTaken .. => none
  | .cellClaim .. => none
  | .missingSyncMark _ => none
  | .runawayUnit _ => none
  | .unitCompletion _ => none
  | .boundary _ => none
  | .shrinkCompletion _ => none
  | .sliceEmission _ => none
  | .drawEvent _ => none
  | .startEvent _ => none
  | .changeoverEvent _ => none

/-- A port takes a frame and is free to judge it: the reset input is released, no restart runs, the line carries a
signal, and nothing is in hand or being sent (R145, R146, R154, R155). -/
abbrev State.Free (s : State) (p : PortId) : Prop :=
  s.resetLow = false ∧ s.restart = .idle ∧ (s.line p).up = true ∧ (s.line p).inHand = none ∧ (s.line p).sending = none

/-- A frame of an order is accepted (R147): the port's kind has the right to it, the port's state allows it, the body
has its length. -/
abbrev State.Accepts (s : State) (f : Frame) (o : Order) : Prop :=
  s.Free f.port ∧ o.allowedOn f.port = true ∧ (s.portDetached f.port = true → o.whileDetached = true)
    ∧ (s.portException f.port = true → o.whileException = true) ∧ f.fits = true

/-- The state `t` with the DONE reply of an order being sent on the port that took it. -/
def State.done (t : State) (f : Frame) (o : Order) (b : ReplyBody) : State :=
  t.setLine f.port { t.line f.port with inHand := some o, sending := some ⟨o.code, .done b⟩ }

/-- The state `s` after an accepted order that its owning rule refuses: the refusal is counted and sent, and nothing
else changes (R147). -/
def State.rejected (s : State) (f : Frame) (o : Order) (r : RefusalCode) : State :=
  let t := s.countRefusal f.port
  t.setLine f.port { t.line f.port with inHand := some o, sending := some ⟨o.code, .refused r⟩ }

/-! ### Cells (R32) -/

/-- The cells of a reassembly context. -/
def Reassembly.cells : Reassembly → List CellNo
  | .receiving u => u.cells
  | .empty => []
  | .skipping _ => []

/-- The cells of an item still to be emitted. -/
def Item.cells : Item → List CellNo
  | .programme e _ _ => e.unit.cells
  | .directory _ => []
  | .access _ _ => []
  | .subscriber _ => []
  | .filler _ => []

/-- The cells that a carrier's two lists hold. -/
def Carrier.cells (k : Carrier) : List CellNo :=
  (match k.building with | some l => l.entries.flatMap (·.unit.cells) | none => [])
    ++ (match k.emitting with | some items => items.flatMap Item.cells | none => [])

/-- Every cell with the place that holds it: the free list, the contexts, the queues, the emission lists. -/
def State.heldCells (s : State) : List CellNo :=
  s.freeCells ++ s.links.toList.flatMap (fun l => l.context.cells)
    ++ s.programmes.toList.flatMap (fun p => unitCells p.queue) ++ s.carriers.toList.flatMap Carrier.cells

/-- A carrier that is OFF or ARMED holds no list (R62). -/
def State.listsInService (s : State) : Prop :=
  ∀ c : CarrierNo, (s.carrier c).state = .off ∨ (s.carrier c).state = .armed →
    (s.carrier c).building = none ∧ (s.carrier c).emitting = none

/-- Every cell is held, in one place (R32). -/
def State.cellsKept (s : State) : Prop := s.heldCells.Perm allCells ∧ s.listsInService

/-! ### Admission (R11) -/

/-- The programmes that name a carrier: not UNUSED, and defined for it (R11). -/
def State.naming (s : State) (c : CarrierNo) : List ProgrammeNo :=
  (List.finRange 48).filter (fun p =>
    decide ((s.programme p).state ≠ .unused ∧ (s.programme p).definition.map (·.carrier) = some c))

/-- The committed total of a carrier with access reserve `reserve`: one directory slice, the reserve, the four
allowances, and the floors of the programmes that name the carrier (R11). -/
def State.committedTotal (s : State) (c : CarrierNo) (reserve : Nat) : Nat :=
  1 + reserve + (s.carrier c).allowances.toList.sum
    + ((s.naming c).map (fun p => match (s.programme p).definition with | some d => d.floor | none => 0)).sum

/-- A programme that names the carrier is scrambled (R4, R14). -/
def State.scrambles (s : State) (c : CarrierNo) : Bool :=
  (s.naming c).any (fun p => match (s.programme p).definition with | some d => d.group.isSome | none => false)

/-- A defined carrier's record agrees with R4 and R5, its committed total is within S_min, and at most 24 programmes
name it; an UNUSED programme has no definition, a programme that is not names a defined carrier, with a reserve of at
least 3 where it is scrambled; a floor is at most its cap. -/
def State.admitted11 (s : State) : Prop :=
  (∀ c : CarrierNo, ∀ d, (s.carrier c).definition = some d →
      d.guaranteed = d.rate * d.interval / 2048000000 ∧ s.committedTotal c d.reserve ≤ d.guaranteed
        ∧ (s.naming c).length ≤ 24)
    ∧ (∀ p : ProgrammeNo, (s.programme p).state = .unused → (s.programme p).definition = none)
    ∧ (∀ p : ProgrammeNo, ∀ d, (s.programme p).definition = some d →
        d.floor ≤ d.cap ∧ ∃ k, (s.carrier d.carrier).definition = some k ∧ (d.group.isSome → 3 ≤ k.reserve))

/-- A carrier in service is defined (R3, R6). -/
def State.serviceDefined (s : State) : Prop :=
  ∀ c : CarrierNo, (s.carrier c).state ≠ .off → (s.carrier c).definition.isSome

/-! ### Groups (R76, R77, R92, R102) -/

/-- The count and the state of a group agree with its limit: the count never exceeds the limit, and the group is FROZEN
exactly when the two are equal; a group that has not deferred since its last swap counts 0 (R81, R92, R94). -/
def Group.extensionsFit (g : Group) : Prop :=
  match g.definition with
  | none => g.state = .free ∧ g.extensions = 0
  | some d =>
      g.state ≠ .free ∧ 1 ≤ d.limit ∧ g.extensions ≤ d.limit ∧ (g.state = .frozen ↔ g.extensions = d.limit)
        ∧ (g.state ≠ .extended → g.state ≠ .frozen → g.extensions = 0)

/-- A plan's period is at least its lead time plus 2 s (R102). -/
def Plan.fits (p : Plan) : Prop := p.lead + 2 ≤ p.period.seconds

/-- The plans of a group fit; a plan is proposed exactly while the status is PROPOSED (R102); one is agreed from the first
agreement on, so in every state but FREE and PLANNING (R84, R102), and one is applied while a key is in use (R85, R109). -/
def Group.plansFit (g : Group) : Prop :=
  (∀ p, g.plan.agreed = some p → p.fits) ∧ (∀ p, g.plan.proposed = some p → p.fits)
    ∧ (∀ p, g.applied = some p → p.fits)
    ∧ (g.plan.proposed.isSome ↔ g.plan.status = .proposed)
    ∧ (g.plan.agreed.isSome ↔ g.state ≠ .free ∧ g.state ≠ .planning)
    ∧ (g.applied.isSome ↔ g.state.keyed = true)

/-- A packet is stored only for a member that is JOINING or JOINED (R78). -/
def Group.packetsOfMembers (g : Group) : Prop :=
  ∀ ph : Phase, ∀ k, g.slot ph = some k → ∀ p : PortNo, k.packets[p.val].isSome → (g.roles[p.val]).active = true

/-! ### Lists and queues (R31, R98, R124, R133) -/

/-- A programme queue holds at most 8 units, each of its own programme (R31). -/
def State.queuesFit (s : State) : Prop :=
  ∀ p : ProgrammeNo, (s.programme p).queue.length ≤ 8 ∧ ∀ u ∈ (s.programme p).queue, u.programme = p

/-- A subscriber queue holds at most 64 entries, each naming a carrier still (R124). -/
def AccessPort.queueFits (k : AccessPort) : Prop := k.queue.length ≤ 64 ∧ ∀ e ∈ k.queue, e.remaining ≠ 0

/-- The attach order list holds exactly the attached ports, none twice, and exactly those have a recorded offer (R98). -/
def State.attachedOnce (s : State) : Prop :=
  s.attachOrder.Nodup
    ∧ ∀ p : PortNo, (p ∈ s.attachOrder ↔ (s.port p).state ≠ .detached)
      ∧ ((s.port p).offer.isSome ↔ (s.port p).state ≠ .detached)

/-! ### Keys (R83, R87) -/

/-- The reply being sent on a line carries a key. -/
def OrderLine.sendsKey (l : OrderLine) : Bool :=
  match l.sending with
  | some ⟨_, .done (.key _)⟩ => true
  | _ => false

/-- What waits on a line is a refusal (R146). -/
def OrderLine.waitsRefusal (l : OrderLine) : Prop := ∀ r, l.waiting = some r → ∃ c, r.response = .refused c

/-! ### Slices (R5, R58) -/

/-- The slices of an emission list: the directory slice, the access and subscriber slices, the grants, the filler. -/
def EmissionList.slices (l : EmissionList) : Nat :=
  1 + accessSlices l.access + l.subscribers.length + (l.entries.map (·.grant)).sum + l.filler

/-! ### Frames on a line (R145 to R147) -/

/-- The port a frame arrives on, the code it carries, and the refusal a busy port gives it: BUSY, or CHECK for a framing
failure (R145, R146). None for a command that is no frame. -/
def frameOf (c : Instr) : Option (PortId × Nat × RefusalCode) :=
  match orderIn c with
  | some (f, o) => some (f.port, o.code, .busy)
  | none =>
      match c with
      | .unknownOrderCode p code => some (p, code, .busy)
      | .framingFailure p code => some (p, code, .check)
      | _ => none

/-- The state `s` after a frame that is not accepted on a free port: the refusal is counted and sent, no order is in
hand, and nothing else changes (R147). -/
def State.turnedAway (s : State) (p : PortId) (code : Nat) (r : RefusalCode) : State :=
  let t := s.countRefusal p
  t.setLine p { t.line p with inHand := none, sending := some ⟨code, .refused r⟩ }

/-! ### Carriers -/

/-- The LIVE and RESYNC programmes that name a carrier, ascending (R9). -/
def State.servedBy (s : State) (c : CarrierNo) : List ProgrammeNo :=
  (s.naming c).filter (fun p => decide ((s.programme p).state = .live ∨ (s.programme p).state = .resync))

/-- The start time that a recomputation in state `t` gives a group whose record was as in `s`: a STARTING group has one
exactly while slot A is AIRED, set to the first whole second at or after the moment slot A becomes AIRED (R77, R84). -/
def State.startTimeFrom (t s : State) (g : GroupNo) : Option Time :=
  if (s.group g).state = .starting then
    (if t.slotState g .a = .aired then
      some ((s.group g).startTime.getD ((s.time + 999999) / 1000000 * 1000000)) else none)
  else (s.group g).startTime

/-- A STARTING group has a start time exactly while its slot A is AIRED (R77, R84). -/
def State.startFits (s : State) (g : GroupNo) : Prop :=
  (s.group g).state = .starting → ((s.group g).startTime ≠ none ↔ s.slotState g .a = .aired)

/-- A carrier is taken out of every aired set of a slot (R9, R90). -/
def KeySlot.without (k : KeySlot) (c : CarrierNo) : KeySlot :=
  { k with packets := k.packets.map (Option.map (fun x => { x with aired := dropItem x.aired c })) }

/-- `t` is `s` after carrier `c` has become OFF, with every effect of R9 and nothing else. -/
def State.WentOff (s t : State) (c : CarrierNo) : Prop :=
  t.carrier c = { s.carrier c with state := .off, nextBoundary := none, carousel := [] }
    ∧ (∀ d, d ≠ c → t.carrier d = s.carrier d)
    ∧ (∀ p, t.programme p =
        if p ∈ s.servedBy c then { s.programme p with state := .resync, expected := none, held := 0, queue := [] }
        else s.programme p)
    ∧ t.freeCells = s.freeCells ++ (s.servedBy c).flatMap (fun p => (s.programme p).queue.flatMap (·.cells))
    ∧ (∀ q, t.port q =
        { s.port q with
          queue :=
            ((s.port q).queue.map (fun e => { e with remaining := dropItem e.remaining c })).filter
              (fun e => e.remaining != 0) })
    ∧ (∀ g, t.group g =
        { s.group g with
          slotA := (s.group g).slotA.map (·.without c)
          slotB := (s.group g).slotB.map (·.without c)
          startTime := t.startTimeFrom s g })
    ∧ t =
        { s with
          carriers := t.carriers
          programmes := t.programmes
          groups := t.groups
          access := t.access
          freeCells := t.freeCells }

/-- The fraction accumulator of a carrier lies in 0 to 2,047,999,999 (R3, R38). -/
def State.fractionsFit (s : State) : Prop := ∀ c : CarrierNo, (s.carrier c).fraction < Config.budgetDivisor

/-- The records agree with what the manager's orders admit (R3, R4, R11, R14, R38). -/
def State.recordsFit (s : State) : Prop := s.admitted11 ∧ s.serviceDefined ∧ s.fractionsFit

/-! ### Ports leaving, groups resolved (R99, R101, R103) -/

/-- The groups that are not FREE and whose rosters name a port, in ascending number (R99). -/
def State.namedBy (s : State) (p : PortNo) : List GroupNo :=
  (List.finRange 32).filter (fun g => decide ((s.group g).state ≠ .free
    ∧ (s.group g).definition.map (fun d => hasItem d.roster p) = some true))

/-- Each of those groups is resolved, one after another (R99, R103). -/
def State.resolvedFor (s : State) (p : PortNo) : State := (s.namedBy p).foldl State.resolve s

/-- A member's packet leaves a slot where `drop` says so (R78). -/
def KeySlot.dropping (k : KeySlot) (drop : PortNo → Bool) : KeySlot :=
  { k with packets := Vector.ofFn (fun p : PortNo => if drop p then none else k.packets[p.val]) }

/-- `u` is `s` after port `p` has left, before the groups that name it are resolved: DETACHED with no offer, off the attach
order list, its flags, queue and batch gone; in every group that names it ABSENT, the packets and the carousel entries it
had as a JOINING or JOINED member deleted (R78, R101). -/
def State.LeftGroups (s u : State) (p : PortNo) : Prop :=
  let leaves := fun (g : GroupNo) => decide (g ∈ s.namedBy p) && (s.group g).roles[p.val].active
  u.port p =
      { s.port p with
        state := .detached
        offer := none
        keyWaiting := Vector.replicate 32 false
        planWaiting := Vector.replicate 32 false
        batchEnd := false
        queue := []
        batch := none }
    ∧ (∀ q, q ≠ p → u.port q = s.port q)
    ∧ (∀ g, u.group g =
        if g ∈ s.namedBy p then
          { s.group g with
            roles := (s.group g).roles.set p.val .absent
            slotA := (s.group g).slotA.map (·.dropping (fun q => leaves g && decide (q = p)))
            slotB := (s.group g).slotB.map (·.dropping (fun q => leaves g && decide (q = p)))
            startTime := u.startTimeFrom s g }
        else s.group g)
    ∧ (∀ c, u.carrier c =
        { s.carrier c with
          carousel := (s.carrier c).carousel.filter (fun e => !(decide (e.member = p) && leaves e.group)) })
    ∧ u =
        { s with
          access := u.access
          attachOrder := s.attachOrder.filter (fun q => q != p)
          groups := u.groups
          carriers := u.carriers }

/-! ### Groups: keys (R77, R79, R84, R86) -/

/-- The slots agree with the group state: a key is in use exactly while the group is RUNNING, EXTENDED or FROZEN; a FREE
or PLANNING group holds no key; a STARTING group holds serial 0 in slot A alone; the pending key has the next serial and
differs from the key in use. -/
def Group.keysFit (g : Group) : Prop :=
  (g.active.isSome ↔ g.state.keyed = true) ∧ (∀ ph, g.active = some ph → (g.slot ph).isSome)
    ∧ (g.state = .free ∨ g.state = .planning → g.slotA = none ∧ g.slotB = none)
    ∧ (g.state = .starting → (∃ k, g.slotA = some k ∧ k.serial = 0) ∧ g.slotB = none)
    ∧ (∀ ph k q, g.active = some ph → g.slot ph = some k → g.slot ph.other = some q →
        q.serial = k.serial + 1 ∧ q.key ≠ k.key)

/-- A port is NOT_MEMBER exactly where no roster names it (R76, R105). -/
def Group.rolesFit (g : Group) : Prop :=
  ∀ p : PortNo, g.roles[p.val] = .notMember ↔ ¬ ∃ d, g.definition = some d ∧ hasItem d.roster p = true

/-- What the spec promises of every group record. -/
def Group.fits (g : Group) : Prop :=
  g.extensionsFit ∧ g.plansFit ∧ g.packetsOfMembers ∧ g.keysFit ∧ g.rolesFit

/-! ### Units (R22, R25, R31) -/

/-- A link that is not LOCKED has an empty context, and a unit in reassembly has a size of 1 to 1,048,576 bytes. -/
def State.contextsFit (s : State) : Prop :=
  ∀ l : LinkNo, ((s.link l).state ≠ .locked → (s.link l).context = .empty)
    ∧ (∀ u, (s.link l).context = .receiving u → 1 ≤ u.size ∧ u.size ≤ 1048576)

/-- A queued unit has a size of 1 to 1,048,576 bytes (R22). -/
def State.sizesFit (s : State) : Prop :=
  ∀ p : ProgrammeNo, ∀ u ∈ (s.programme p).queue, 1 ≤ u.size ∧ u.size ≤ 1048576

/-- A carrier's transmit buffer holds two slices at most (R133), its carousel list one entry of a name (R113), and copies
that have been emitted stand beside an emitting list (R140). -/
def Carrier.outputFits (k : Carrier) : Prop :=
  k.buffer.length ≤ 2 ∧ (k.carousel.map (fun e => (e.group, e.phase, e.member))).Nodup
    ∧ (k.emitting = none → k.emitted = [])

/-- Queues, lists, buffers and sizes stay within their limits; the attach order list holds the attached ports; only a
refusal waits on a line (R146). -/
def State.listsFit (s : State) : Prop :=
  s.queuesFit ∧ s.sizesFit ∧ s.contextsFit ∧ (∀ q : PortNo, (s.port q).queueFits) ∧ s.attachedOnce
    ∧ (∀ c : CarrierNo, (s.carrier c).outputFits) ∧ ∀ q : PortId, (s.line q).waitsRefusal

/-! ### Ingest (R20 to R24) -/

/-- `s` after link `l` has left LOCKED for `next`, its line carrying a signal or not: the context ends, the cells of a
unit in reassembly return to the tail of the free list and its programme, if LIVE, is RESYNC; LINK_FAULT for the link is
a cause, and the manager port is in EXCEPTION (R20, R25). -/
def State.leftLocked (s : State) (l : LinkNo) (signal : Bool) (next : LinkState) : State :=
  let context := (s.link l).context
  { s with
    links := s.links.set l.val ⟨signal, next, .empty⟩
    freeCells := s.freeCells ++ context.cells
    programmes :=
      match context with
      | .receiving u =>
          if (s.programme u.programme).state = .live then
            s.programmes.set u.programme.val { s.programme u.programme with state := .resync }
          else s.programmes
      | _ => s.programmes
    manager :=
      { s.manager with
        state := .exception
        condition := { s.manager.condition with linkFault := s.manager.condition.linkFault.set l.val true } } }

/-- The eight slot codes, by slot (R22). -/
def slotCodes : Vector Nat 8 := #v[7, 11, 13, 14, 19, 21, 22, 25]

/-- The codes of the kinds ANCHOR, FORWARD and BRIDGE (R157). -/
def UnitKind.code : UnitKind → Nat
  | .anchor => 1
  | .forward => 2
  | .bridge => 3

/-- A header has a code error or a header error (R23). -/
def faultyHeader (h : UnitHeader) : Prop :=
  h.slotCode.toNat ∉ slotCodes.toList ∨ h.kind.toNat = 0 ∨ 3 < h.kind.toNat ∨ h.size.toNat = 0
    ∨ 1048576 < h.size.toNat

/-- A programme is LIVE or RESYNC and its carrier ARMED or ON_AIR (R17). -/
def State.isAdmitted (s : State) (p : ProgrammeNo) : Prop :=
  ((s.programme p).state = .live ∨ (s.programme p).state = .resync)
    ∧ ∃ d, (s.programme p).definition = some d
        ∧ ((s.carrier d.carrier).state = .armed ∨ (s.carrier d.carrier).state = .onAir)

/-- The place of a faulty header: both error counts rise by 1, no cause is added (R23, R34). -/
def State.headerCounted (s : State) (l : LinkNo) : State :=
  { s with
    manager :=
      { s.manager with
        condition :=
          { s.manager.condition with
            linkErrors := s.manager.condition.linkErrors.set l.val (min (s.manager.condition.linkErrors[l.val] + 1) 65535)
            ingestErrors := min (s.manager.condition.ingestErrors + 1) 65535 } } }

end Sys2Proof.Machine
end

