-- ==== Sys2Proof/Certificates/Slice0/Obligations.lean ====
section
/-! DEFINITION. The statements for the provers. Where a statement says what an order does, its hypothesis `Accepts` is
R147's: the frame is judged on a free port and passes every check. -/

open Sys2Proof Sys2Proof.Machine

/-! ### The step -/

/-- Model's own (log entry 1): a step takes the command at the front of the queue and runs it with the queue's rest. -/
def Obligations.StepTakesFrontCommand : Prop :=
  ∀ (c : Instr) (rest : List Instr) (s : State),
    step { s with pending := c :: rest } = exec c { s with pending := rest }

/-- Every command completes in every state, and leaves the waiting commands alone (log entry 1). -/
def Obligations.EveryCommandCompletes : Prop :=
  ∀ (c : Instr) (s : State), ∃ t : State, exec c s = .next t ∧ t.pending = s.pending

/-- The step on an empty queue. Where events are due they are put into the queue, each once, in an order left open;
where none is due and the reset input is released, one microsecond passes (log entries 1 and 12; what one of them makes
due at the same station time comes behind them all, the model's choice of log entry 12). A stored time that station time
has reached falls due in the states whose rule takes it (R1, R7, R85, R86, R91); a link that has its signal and is not
held comes up (R19, R145, R154, R155; log entries 4 and 23); a restart completes before station time reaches 10,000 µs
(R155), and a shrink operation, later than the event that made its list, before the next boundary (R64; log entry 10);
nothing else falls due; a slice is placed as soon as the buffer of two has room, and the line drains the buffer at the
carrier's rate, a slice leaving it with its 2,048th bit (R133; a part of a bit is kept over an empty buffer, log entry
35). -/
def Obligations.IdleStep : Prop :=
  ∀ s : State, s.pending = [] →
    (s.dueEvents ≠ [] →
      ∃ q k, step s = .next { s with pending := q, freeIndex := k } ∧ q.Perm s.dueEvents ∧ s.freeIndex < k)
    ∧ (s.dueEvents = [] → s.resetLow = false → s.time < 18446744073709551615 →
      step s = .next { s with time := s.time + 1, carriers := s.carriers.map Carrier.drain })
    ∧ s.dueEvents.Nodup
    ∧ (∀ i ∈ s.dueEvents, i = .restartCompletion ∨ (∃ l, i = .signalDetected l) ∨ (∃ p, i = .orderLinkUp p)
        ∨ (∃ c, i = .boundary c ∨ i = .shrinkCompletion c ∨ i = .sliceEmission c)
        ∨ ∃ g, i = .drawEvent g ∨ i = .startEvent g ∨ i = .changeoverEvent g)
    ∧ (.restartCompletion ∈ s.dueEvents → s.restart ≠ .idle)
    ∧ (s.restart ≠ .idle → 9999 ≤ s.time → .restartCompletion ∈ s.dueEvents)
    ∧ (∀ l, .signalDetected l ∈ s.dueEvents ↔
      (s.link l).signal = true ∧ (s.link l).state = .down ∧ s.resetLow = false ∧ s.restart = .idle)
    ∧ (.orderLinkUp .manager ∈ s.dueEvents ↔
      s.manager.line.signal = true ∧ s.manager.line.up = false ∧ s.resetLow = false)
    ∧ (∀ p, .orderLinkUp (.access p) ∈ s.dueEvents ↔
      (s.port p).line.signal = true ∧ (s.port p).line.up = false ∧ s.resetLow = false ∧ s.restart = .idle)
    ∧ (∀ c b d list, (s.carrier c).nextBoundary = some b → (s.carrier c).definition = some d →
      (s.carrier c).building = some list →
      (.shrinkCompletion c ∈ s.dueEvents →
        b < s.time + d.interval ∧ ∃ e ∈ list.entries, e.state = .shrinking)
      ∧ (b < s.time + d.interval → (∃ e ∈ list.entries, e.state = .shrinking) → b ≤ s.time + 1 →
        .shrinkCompletion c ∈ s.dueEvents))
    ∧ (∀ c, (s.carrier c).building = none ∨ (s.carrier c).nextBoundary = none → .shrinkCompletion c ∉ s.dueEvents)
    ∧ (∀ c, .boundary c ∈ s.dueEvents ↔
      (s.carrier c).state ≠ .off ∧ ∃ b, (s.carrier c).nextBoundary = some b ∧ b ≤ s.time)
    ∧ (∀ g, .drawEvent g ∈ s.dueEvents ↔
      (s.group g).state = .running ∧ ∃ d, (s.group g).drawTime = some d ∧ d ≤ s.time)
    ∧ (∀ g, .startEvent g ∈ s.dueEvents ↔
      (s.group g).state = .starting ∧ ∃ d, (s.group g).startTime = some d ∧ d ≤ s.time)
    ∧ (∀ g, .changeoverEvent g ∈ s.dueEvents ↔
      ((s.group g).state = .running ∨ (s.group g).state = .extended ∨ (s.group g).state = .frozen)
        ∧ ∃ d, (s.group g).nextChangeover = some d ∧ d ≤ s.time)
    ∧ (∀ c, .sliceEmission c ∈ s.dueEvents ↔
      (s.carrier c).buffer.length < 2 ∧ ∃ item rest, (s.carrier c).emitting = some (item :: rest))
    ∧ ∀ k : Carrier,
      (k.buffer = [] → k.drain = k)
      ∧ ∀ d x rest, k.definition = some d → k.buffer = x :: rest →
        let sent := k.bitsSent * 1000000 + k.bitPart + d.rate
        k.drain =
          if sent < 2048 * 1000000 then { k with bitsSent := sent / 1000000, bitPart := sent % 1000000 }
          else
            { k with
              buffer := rest
              bitsSent := if rest = [] then 0 else sent / 1000000 - 2048
              bitPart := sent % 1000000 }

/-! ### Order ports (R145 to R153) -/

/-- What R147 does with a frame on a free port. Each kind of port has its orders, a DETACHED port and a port in
EXCEPTION accept only some. The first check that fails gives the refusal: UNKNOWN, NOT_PERMITTED, DETACHED,
EXCEPTION_PENDING, RANGE for a body of the wrong length; a framing failure is refused CHECK (R145). The refusal is
counted and sent, and nothing else changes. -/
def Obligations.FramesJudged : Prop :=
  (∀ o : Order,
    (o.allowedOn .manager = true ↔
      o ∈ [Order.defineCarrier, .setCarrier, .readCarrier, .defineProgramme, .setProgramme, .readProgramme,
        .defineGroup, .releaseGroup, .restartGroup, .readGroup, .setAllowance, .restartPart, .readTime,
        .readCondition, .readSummary, .acknowledge])
    ∧ (∀ p, o.allowedOn (.access p) = true ↔
      o ∈ [Order.attach, .detach, .planAck, .fetchKey, .submitAccess, .probeGroup, .openBatch, .submitSubscriber,
        .readTime, .readCondition, .readSummary, .acknowledge])
    ∧ (o.whileDetached = true ↔ o ∈ [Order.attach, .readCondition, .readTime])
    ∧ (o.whileException = true ↔ o ∈ [Order.readCondition, .readSummary, .readTime]))
  ∧ (∀ (i : Instr) (f : Frame) (o : Order) (s : State), orderIn i = some (f, o) → s.Free f.port → ¬ s.Accepts f o →
    exec i s = .next (s.turnedAway f.port o.code
      (if o.allowedOn f.port = false then .notPermitted
        else if s.portDetached f.port = true ∧ o.whileDetached = false then .detached
        else if s.portException f.port = true ∧ o.whileException = false then .exceptionPending
        else .range)))
  ∧ ∀ (p : PortId) (code : Nat) (s : State), s.Free p →
    exec (.unknownOrderCode p code) s = .next (s.turnedAway p code .unknown)
    ∧ exec (.framingFailure p code) s = .next (s.turnedAway p code .check)

/-- A frame on a busy port is counted as refused and not judged; its refusal waits if none is waiting (R146), and so too
one taken after a DETACH of the same station time whose reply is being sent (log entry 42). A frame that comes while the
reset input is low, while a restart runs, or on a line whose link is DOWN has no effect (R145, R154, R155; log entry
19). But an order that fell at the very station time at which its access port lost its link, and is taken after the
loss, is refused DETACHED unless a DETACHED port accepts it; the refusal is counted, and not sent on the DOWN link
(R132, R149, R150; log entry 19). -/
def Obligations.BusyAndDeafPorts : Prop :=
  ∀ (i : Instr) (p : PortId) (code : Nat) (r : RefusalCode) (s : State), frameOf i = some (p, code, r) →
    let fell := s.resetLow = false ∧ s.restart = .idle ∧ (s.line p).up = false ∧ (s.line p).lostAt = some s.time
      ∧ s.portDetached p = true ∧ ∃ f o, orderIn i = some (f, o) ∧ o.allowedOn p = true ∧ o.whileDetached = false
    (s.resetLow = true ∨ s.restart ≠ .idle ∨ (s.line p).up = false → ¬ fell → exec i s = .next s)
    ∧ (fell → exec i s = .next (s.countRefusal p))
    ∧ (s.resetLow = false → s.restart = .idle → (s.line p).up = true → (s.line p).busy = true →
      exec i s = .next
        (let t := s.countRefusal p
         if (s.line p).waiting.isSome then t
         else t.setLine p { t.line p with waiting := some ⟨code, .refused r⟩ }))

/-- An accepted order that its owning rule refuses changes nothing but the refused-order count and the line; SUBMIT
SUBSCRIBER refused BATCH_SPENT alone sets BATCH_END besides (R128, R147). -/
def Obligations.RefusalChangesNothing : Prop :=
  ∀ (i : Instr) (f : Frame) (o : Order) (r : RefusalCode) (s t : State),
    orderIn i = some (f, o) → s.Accepts f o → exec i s = .next t →
    (t.line f.port).sending = some ⟨o.code, .refused r⟩ →
    t = s.rejected f o r ∨
      (o = .submitSubscriber ∧ r = .batchSpent ∧ ∃ p, f.port = .access p ∧ t = (s.setBatchEnd p true).rejected f o r)

/-- What a port's line does. Once the last byte of a reply or refusal is sent, its order is no longer in hand and the
refusal that waited is sent (R146); where none is being sent nothing happens (log entry 2). A line that gains its signal
brings its link UP, but for a line held DOWN by the reset input or, on an access port, by a restart, while the manager
port's follows its signal (R145, R154, R155; log entry 23). Signal lost on the manager port's line, or on that of a
DETACHED access port, discards what is being sent and what waits, be it BUSY or CHECK (log entry 38), and changes
nothing else; a RESTART PART in hand stays in hand until the restart completes, but its reply is not sent (R149). The
model notes the station time of the loss (log entry 19). -/
def Obligations.LinesOfPorts : Prop :=
  ∀ s : State,
    let lostAt := fun (p : PortId) => if (s.line p).up = true then some s.time else (s.line p).lostAt
    (∀ p, exec (.replySent p) s = .next
      (if (s.line p).sending = none then s
       else s.setLine p { s.line p with inHand := none, sending := (s.line p).waiting, waiting := none }))
    ∧ exec (.orderLinkUp .manager) s = .next
      { s with
        manager :=
          { s.manager with
            line := { s.manager.line with signal := true, up := s.manager.line.up || !s.resetLow } } }
    ∧ (∀ p, exec (.orderLinkUp (.access p)) s = .next
      (s.setPort p
        { s.port p with
          line :=
            { (s.port p).line with
              signal := true
              up := (s.port p).line.up || (!s.resetLow && decide (s.restart = .idle)) } }))
    ∧ (s.restart = .idle →
      exec (.orderLinkDown .manager) s = .next (s.setLine .manager ⟨false, false, none, none, none, lostAt .manager⟩))
    ∧ (∀ b, s.restart = .running b →
      exec (.orderLinkDown .manager) s = .next
        { s.setLine .manager ⟨false, false, s.manager.line.inHand, none, none, lostAt .manager⟩ with
          restart := .running false })
    ∧ (∀ p, (s.port p).state = .detached →
      exec (.orderLinkDown (.access p)) s
        = .next (s.setLine (.access p) ⟨false, false, none, none, none, lostAt (.access p)⟩))

/-- A port leaves: DETACH accepted on a READY port, or the loss of the link of a port that is READY or in EXCEPTION. The
port is DETACHED with no offer, off the attach order list, its flags clear, its queue empty, its batch closed, its
condition record kept; in every group that names it, it is ABSENT, and the packets and carousel entries it had as a
JOINING or JOINED member are gone; the carriers' allowances are kept (R12, R78, R96, R101, R149). Then each group that
is not FREE and names the port is resolved, in ascending number (R103). What the loss makes of the port's line is the
model's choice in two points: whatever refusal waits is discarded, BUSY, which R149 names, or CHECK (log entry 38), and
the station time of the loss is noted (log entry 19). -/
def Obligations.PortLeaves : Prop :=
  let left := fun (s t : State) (p : PortNo) (line : OrderLine) =>
    t.port p =
        { s.port p with
          line := line
          state := .detached
          offer := none
          keyWaiting := Vector.replicate 32 false
          planWaiting := Vector.replicate 32 false
          batchEnd := false
          queue := []
          batch := none }
      ∧ t.attachOrder = s.attachOrder.filter (fun q => q != p)
      ∧ (∀ g : GroupNo, s.rosterNames g p = true →
          (t.group g).roles[p.val] = .absent
            ∧ ((s.group g).roles[p.val].active = true →
                (∀ ph k, (t.group g).slot ph = some k → k.packets[p.val] = none)
                  ∧ ∀ c : CarrierNo, ∀ e ∈ (t.carrier c).carousel, ¬ (e.group = g ∧ e.member = p)))
      ∧ (∀ c : CarrierNo, (t.carrier c).allowances = (s.carrier c).allowances)
      ∧ (∀ g : GroupNo, s.rosterNames g p = false → t.group g = s.group g)
      ∧ t.time = s.time ∧ t.programmes = s.programmes ∧ t.links = s.links ∧ t.memory = s.memory
      ∧ t.freeCells = s.freeCells
  ∀ (p : PortNo) (s : State),
    (s.Accepts ⟨.access p, true⟩ .detach →
      ∃ t : State, exec (.detach ⟨.access p, true⟩) s = .next t
        ∧ left s t p
            { (s.port p).line with inHand := some .detach, sending := some ⟨Order.detach.code, .done .empty⟩ }
        ∧ ∃ u : State, s.LeftGroups u p
          ∧ t = (u.resolvedFor p).done ⟨.access p, true⟩ .detach .empty)
    ∧ ((s.port p).state ≠ .detached →
      let lost : OrderLine :=
        ⟨false, false, none, none, none, if (s.port p).line.up = true then some s.time else (s.port p).line.lostAt⟩
      ∃ t : State, exec (.orderLinkDown (.access p)) s = .next t ∧ left s t p lost
        ∧ ∃ u : State, (s.setLine (.access p) lost).LeftGroups u p ∧ t = u.resolvedFor p)

/-- READ TIME is accepted in every state of every port, changes no state, and answers with the station time at
acceptance and the station number, which no command but power-on changes (R2). -/
def Obligations.ReadTimeAndStationNumber : Prop :=
  (∀ (p : PortId) (s : State), s.Free p →
    exec (.readTime ⟨p, true⟩) s = .next (s.done ⟨p, true⟩ .readTime (.time s.time s.stationNumber)))
  ∧ (∀ (c : Instr) (s t : State), exec c s = .next t → (∀ straps, c ≠ .powerOn straps) →
      t.stationNumber = s.stationNumber)
  ∧ (∀ (straps : BitVec 4) (s t : State), exec (.powerOn straps) s = .next t → t.stationNumber = straps)

/-- READ CONDITION is accepted in every port state. The reply carries the condition record as it stands, with the ingest
link states on the manager port and the port state on an access port; the record is then cleared, EXCEPTION returns to
READY, and nothing else changes, the attention flags included; with a flag still set the attention line stays asserted
(R151). -/
def Obligations.ReadCondition : Prop :=
  (∀ s : State, s.Free .manager →
    exec (.readCondition ⟨.manager, true⟩) s = .next
      (State.done
        { s with
          manager :=
            { s.manager with
              state := .ready
              condition :=
                { restartSeen := false
                  groupFrozen := Vector.replicate 32 false
                  storeExhausted := false
                  linkFault := Vector.replicate 6 false
                  refused := 0
                  linkErrors := Vector.replicate 6 0
                  ingestErrors := 0
                  storeExhaustions := 0 } } }
        ⟨.manager, true⟩ .readCondition (.managerCondition s.manager.condition (s.links.map (·.state))))
      ∧ ∀ t, exec (.readCondition ⟨.manager, true⟩) s = .next t → s.manager.flags ≠ [] →
        t.attention .manager = true)
  ∧ ∀ (p : PortNo) (s : State), s.Free (.access p) →
    exec (.readCondition ⟨.access p, true⟩) s = .next
      ((s.setPort p
        { s.port p with
          state := if (s.port p).state = .detached then .detached else .ready
          condition :=
            { restartSeen := false
              late := Vector.replicate 32 false
              excluded := Vector.replicate 32 false
              refused := 0
              lateCount := 0 } }).done
        ⟨.access p, true⟩ .readCondition (.accessCondition (s.port p).condition (s.port p).state))
      ∧ ∀ t, exec (.readCondition ⟨.access p, true⟩) s = .next t → (s.port p).flags ≠ [] →
        t.attention (.access p) = true

/-- READ SUMMARY changes no state; its reply holds the port state, the restart-seen flag, the number of causes, and
exactly the set flags, ascending by kind and then by object: GROUP_ALERT and CARRIER_ALERT on the manager port,
KEY_WAITING, PLAN_WAITING and BATCH_END on an access port, and none of the other port's kinds (R152). The attention line
of a port is asserted exactly while one of its flags is set or it is in EXCEPTION, but for the time the reset input is
low or a restart runs (R152, R154, R155). -/
def Obligations.ReadSummary : Prop :=
  (∀ s : State, s.Accepts ⟨.manager, true⟩ .readSummary →
    let k := s.manager.condition
    exec (.readSummary ⟨.manager, true⟩) s = .next
      (s.done ⟨.manager, true⟩ .readSummary
        (.managerSummary s.manager.state k.restartSeen
          (k.groupFrozen.toList.count true + (if k.storeExhausted then 1 else 0) + k.linkFault.toList.count true)
          (((List.finRange 32).filter (fun g => s.manager.groupAlert[g.val])).map .groupAlert
            ++ ((List.finRange 4).filter (fun c => s.manager.carrierAlert[c.val])).map .carrierAlert))))
  ∧ (∀ (p : PortNo) (s : State), s.Accepts ⟨.access p, true⟩ .readSummary →
    let k := s.port p
    exec (.readSummary ⟨.access p, true⟩) s = .next
      (s.done ⟨.access p, true⟩ .readSummary
        (.accessSummary k.state k.condition.restartSeen
          (k.condition.late.toList.count true + k.condition.excluded.toList.count true)
          (((List.finRange 32).filter (fun g => k.keyWaiting[g.val])).map .keyWaiting
            ++ ((List.finRange 32).filter (fun g => k.planWaiting[g.val])).map .planWaiting
            ++ (if k.batchEnd then [.batchEnd] else [])))))
  ∧ ∀ s : State,
    (s.attention .manager = true ↔
      s.resetLow = false ∧ s.restart = .idle
        ∧ ((∃ g : GroupNo, s.manager.groupAlert[g.val] = true) ∨ (∃ c : CarrierNo, s.manager.carrierAlert[c.val] = true)
          ∨ s.manager.state = .exception))
    ∧ ∀ p : PortNo, s.attention (.access p) = true ↔
      s.resetLow = false ∧ s.restart = .idle
        ∧ ((∃ g : GroupNo, (s.port p).keyWaiting[g.val] = true ∨ (s.port p).planWaiting[g.val] = true)
          ∨ (s.port p).batchEnd = true ∨ (s.port p).state = .exception)

/-- ACKNOWLEDGE: BATCH_END on an access port is always cleared; GROUP_ALERT and CARRIER_ALERT on the manager port are
cleared when their source no longer holds; the reply says whether the flag is set after the order. Every other kind, and
an object out of range, is refused RANGE (R153). -/
def Obligations.Acknowledge : Prop :=
  ∀ (s : State),
    (∀ (p : PortNo) (object : Nat), s.Accepts ⟨.access p, true⟩ .acknowledge →
      exec (.acknowledgeBatchEnd ⟨.access p, true⟩ .named object) s = .next
          ((s.setPort p { s.port p with batchEnd := false }).done ⟨.access p, true⟩ .acknowledge (.acknowledged false))
        ∧ exec (.acknowledgeGroupAlert ⟨.access p, true⟩ object) s = .next
          (s.rejected ⟨.access p, true⟩ .acknowledge .range)
        ∧ exec (.acknowledgeCarrierAlert ⟨.access p, true⟩ object) s = .next
          (s.rejected ⟨.access p, true⟩ .acknowledge .range)
        ∧ ∀ kind, exec (.acknowledgeBatchEnd ⟨.access p, true⟩ (.other kind) object) s = .next
          (s.rejected ⟨.access p, true⟩ .acknowledge .range))
    ∧ (s.Accepts ⟨.manager, true⟩ .acknowledge →
      (∀ kind object, exec (.acknowledgeBatchEnd ⟨.manager, true⟩ kind object) s = .next
        (s.rejected ⟨.manager, true⟩ .acknowledge .range))
      ∧ (∀ object, 32 ≤ object → exec (.acknowledgeGroupAlert ⟨.manager, true⟩ object) s = .next
        (s.rejected ⟨.manager, true⟩ .acknowledge .range))
      ∧ (∀ object, 4 ≤ object → exec (.acknowledgeCarrierAlert ⟨.manager, true⟩ object) s = .next
        (s.rejected ⟨.manager, true⟩ .acknowledge .range))
      ∧ (∀ g : GroupNo, exec (.acknowledgeGroupAlert ⟨.manager, true⟩ g.val) s = .next
        (if (s.group g).state = .extended ∨ (s.group g).state = .frozen ∨ (s.group g).plan.status = .fault then
          s.done ⟨.manager, true⟩ .acknowledge (.acknowledged s.manager.groupAlert[g.val])
        else
          State.done { s with manager := { s.manager with groupAlert := s.manager.groupAlert.set g.val false } }
            ⟨.manager, true⟩ .acknowledge (.acknowledged false)))
      ∧ (∀ c : CarrierNo, exec (.acknowledgeCarrierAlert ⟨.manager, true⟩ c.val) s = .next
        (if (s.carrier c).degraded = true then
          s.done ⟨.manager, true⟩ .acknowledge (.acknowledged s.manager.carrierAlert[c.val])
        else
          State.done { s with manager := { s.manager with carrierAlert := s.manager.carrierAlert.set c.val false } }
            ⟨.manager, true⟩ .acknowledge (.acknowledged false))))

/-! ### Resets (R154, R155) -/

/-- The release of the reset input is a power-on: every block takes its reset value, the station number is latched from
the straps, and the key generator is reseeded, its sequence not repeated (R79; log entry 7); kept are the waiting
commands, the signals on the lines and the contents of picture memory (log entry 5). While the reset input is low the
blocks hold their reset values (R154; log entry 22). The reset values are those of R3, R13, R19, R32, R62, R76, R98,
R102, R113, R124, R125, R133 and R154: cells 0 to 32,767 free in ascending order, the access ports DETACHED, the manager
port READY, every flag clear, every condition record with its restart-seen flag set and nothing else; the model's own
are no signal on a line (log entry 3), no time of a loss (log entry 19), no plan applied (log entry 37) and the counts
of a slice being sent (log entry 35). -/
def Obligations.PowerOnAndReset : Prop :=
  (∀ one other : Nat, one ≠ other → ∃ i, Config.keyDraw one i ≠ Config.keyDraw other i)
  ∧ (∀ (straps : BitVec 4) (s : State),
    let reset : State :=
      { State.reset with
        pending := s.pending
        stationNumber := s.stationNumber
        links := s.links.map (fun k => ⟨k.signal, .down, .empty⟩)
        memory := s.memory
        manager := { ManagerPort.reset with line := { OrderLine.reset with signal := s.manager.line.signal } }
        access := s.access.map (fun k =>
          { AccessPort.reset with line := { OrderLine.reset with signal := k.line.signal } })
        keySeed := s.keySeed + 1
        freeIndex := s.freeIndex }
    exec (.powerOn straps) s = .next { reset with stationNumber := straps }
      ∧ exec .resetInputLow s = .next { reset with resetLow := true })
  ∧ (∀ c : CarrierNo, State.reset.carrier c =
      { definition := none, allowances := Vector.replicate 4 0, state := .off, nextBoundary := none, interval := 0,
        fraction := 0, rotate := 0, degraded := false, counters := ⟨0, 0, 0, 0, 0, 0, 0⟩, building := none,
        emitting := none, emitted := [], carousel := [], buffer := [], bitsSent := 0, bitPart := 0 })
  ∧ (∀ p : ProgrammeNo, State.reset.programme p =
      { state := .unused, definition := none, expected := none, held := 0, continuity := 0, queue := [] })
  ∧ (∀ g : GroupNo, State.reset.group g =
      { state := .free, definition := none, roles := Vector.replicate 4 .notMember, plan := ⟨0, .none, none, none⟩,
        applied := none, slotA := none, slotB := none, active := none, lastChangeover := none, nextChangeover := none,
        drawTime := none, startTime := none, extensions := 0 })
  ∧ (∀ l : LinkNo, State.reset.link l = { signal := false, state := .down, context := .empty })
  ∧ (let line : OrderLine :=
      { signal := false, up := false, inHand := none, sending := none, waiting := none, lostAt := none }
    State.reset.manager =
      { line := line, state := .ready, groupAlert := Vector.replicate 32 false, carrierAlert := Vector.replicate 4 false,
        condition :=
          { restartSeen := true, groupFrozen := Vector.replicate 32 false, storeExhausted := false,
            linkFault := Vector.replicate 6 false, refused := 0, linkErrors := Vector.replicate 6 0, ingestErrors := 0,
            storeExhaustions := 0 } }
    ∧ ∀ p : PortNo, State.reset.port p =
      { line := line, state := .detached, keyWaiting := Vector.replicate 32 false,
        planWaiting := Vector.replicate 32 false, batchEnd := false, offer := none, queue := [], batch := none,
        condition :=
          { restartSeen := true, late := Vector.replicate 32 false, excluded := Vector.replicate 32 false, refused := 0,
            lateCount := 0 } })
  ∧ State.reset.resetLow = false ∧ State.reset.time = 0 ∧ State.reset.attachOrder = [] ∧ State.reset.restart = .idle
  ∧ State.reset.freeCells.map (·.val) = List.range 32768

/-- RESTART PART accepted: every block takes its power-on value, but for the station number and the manager port's link,
which keep theirs; the contents of picture memory are kept too (log entry 5); the order stays in hand and no reply is
sent yet. At the completion the manager port sends the DONE reply with the station number and the station time, unless
its link went DOWN meanwhile; the port is then free (R149, R155). A completion with no restart running has no effect
(log entry 2). -/
def Obligations.RestartPart : Prop :=
  (∀ s : State, s.Accepts ⟨.manager, true⟩ .restartPart →
    exec (.restartPart ⟨.manager, true⟩) s = .next
      { State.reset with
        pending := s.pending
        stationNumber := s.stationNumber
        restart := .running true
        links := s.links.map (fun k => ⟨k.signal, .down, .empty⟩)
        memory := s.memory
        manager :=
          { ManagerPort.reset with line := ⟨s.manager.line.signal, s.manager.line.up, some .restartPart, none, none, none⟩ }
        access := s.access.map (fun k =>
          { AccessPort.reset with line := { OrderLine.reset with signal := k.line.signal } })
        keySeed := s.keySeed + 1
        freeIndex := s.freeIndex })
  ∧ (∀ s : State, s.restart = .running true →
    exec .restartCompletion s = .next
      (State.done { s with restart := .idle } ⟨.manager, true⟩ .restartPart (.restart s.stationNumber s.time)))
  ∧ (∀ s : State, s.restart = .running false →
    exec .restartCompletion s = .next
      { s with restart := .idle, manager := { s.manager with line := { s.manager.line with inHand := none } } })
  ∧ (∀ s : State, s.restart = .idle → exec .restartCompletion s = .next s)

/-! ### Carriers (R3 to R12) -/

/-- DEFINE CARRIER: the checks in R4's order; then the record takes Q, T, A and S_min = Q × T / 2,048,000,000 rounded
down (R5), and the reply carries S_min. -/
def Obligations.DefineCarrier : Prop :=
  ∀ (q t a : Nat) (s : State), s.Accepts ⟨.manager, true⟩ .defineCarrier →
    (∀ carrier, 4 ≤ carrier →
      exec (.defineCarrier ⟨.manager, true⟩ carrier q t a) s = .next
        (s.rejected ⟨.manager, true⟩ .defineCarrier .range))
    ∧ ∀ c : CarrierNo, exec (.defineCarrier ⟨.manager, true⟩ c.val q t a) s = .next
      (if ¬ (4096000 ≤ q ∧ q ≤ 81920000 ∧ q % 1024 = 0 ∧ 20000 ≤ t ∧ t ≤ 80000 ∧ a ≤ 255) then
        s.rejected ⟨.manager, true⟩ .defineCarrier .range
      else if (s.carrier c).state ≠ .off then s.rejected ⟨.manager, true⟩ .defineCarrier .state
      else if q * t / 2048000000 < s.committedTotal c a ∨ (a < 3 ∧ s.scrambles c = true) then
        s.rejected ⟨.manager, true⟩ .defineCarrier .overBudget
      else
        (s.setCarrier c { s.carrier c with definition := some ⟨q, t, a, q * t / 2048000000⟩ }).done
          ⟨.manager, true⟩ .defineCarrier (.guaranteed (q * t / 2048000000)))

/-- SET CARRIER with target ON: an OFF, defined carrier is ARMED with its counters and accumulators at 0; its first
boundary is the first whole millisecond later than the acceptance (R6). -/
def Obligations.SetCarrierOn : Prop :=
  ∀ (s : State), s.Accepts ⟨.manager, true⟩ .setCarrier →
    (∀ carrier target, 4 ≤ carrier ∨ target ≠ .named →
      exec (.setCarrierOn ⟨.manager, true⟩ carrier target) s = .next
        (s.rejected ⟨.manager, true⟩ .setCarrier .range))
    ∧ ∀ c : CarrierNo, ∃ first, s.time < first ∧ first ≤ s.time + 1000 ∧ first % 1000 = 0
      ∧ exec (.setCarrierOn ⟨.manager, true⟩ c.val .named) s = .next
        (if (s.carrier c).state = .off ∧ (s.carrier c).definition ≠ none then
          (s.setCarrier c
            { s.carrier c with
              state := .armed
              counters := ⟨0, 0, 0, 0, 0, 0, 0⟩
              fraction := 0
              interval := 0
              rotate := 0
              degraded := false
              nextBoundary := some first }).done ⟨.manager, true⟩ .setCarrier (.firstBoundary first)
        else s.rejected ⟨.manager, true⟩ .setCarrier .state)

/-- SET CARRIER with target OFF: an ARMED carrier becomes OFF at once with the effects of R9; an ON_AIR carrier becomes
DRAINING, its boundary times and its lists kept, its carousel list emptied, and the pending slots are recomputed; OFF
and DRAINING are refused STATE (R8, R9, R71, R90, R117). The queues of a carrier that becomes OFF return their cells in
ascending programme number (log entry 17), and a carrier made OFF from ARMED has no next boundary time (log entry
40). -/
def Obligations.SetCarrierOff : Prop :=
  ∀ (s : State), s.Accepts ⟨.manager, true⟩ .setCarrier →
    (∀ carrier, 4 ≤ carrier →
      exec (.setCarrierOff ⟨.manager, true⟩ carrier) s = .next (s.rejected ⟨.manager, true⟩ .setCarrier .range))
    ∧ ∀ c : CarrierNo,
      ((s.carrier c).state = .off ∨ (s.carrier c).state = .draining →
        exec (.setCarrierOff ⟨.manager, true⟩ c.val) s = .next (s.rejected ⟨.manager, true⟩ .setCarrier .state))
      ∧ ((s.carrier c).state = .armed →
        ∃ t : State, exec (.setCarrierOff ⟨.manager, true⟩ c.val) s = .next
            (t.done ⟨.manager, true⟩ .setCarrier (.carrierState .off)) ∧ s.WentOff t c)
      ∧ ((s.carrier c).state = .onAir →
        ∃ t : State, exec (.setCarrierOff ⟨.manager, true⟩ c.val) s = .next
            (t.done ⟨.manager, true⟩ .setCarrier (.carrierState .draining))
          ∧ (∀ g, t.group g = { s.group g with startTime := t.startTimeFrom s g })
          ∧ t = { s.setCarrier c { s.carrier c with state := .draining, carousel := [] } with groups := t.groups })

/-- SET ALLOWANCE: refused RANGE, STATE for an undefined carrier, OVER_BUDGET where the committed total would exceed
S_min; otherwise that port's allowance on that carrier is replaced in every carrier state, and nothing else (R11,
R12). -/
def Obligations.SetAllowance : Prop :=
  ∀ (s : State), s.Accepts ⟨.manager, true⟩ .setAllowance →
    (∀ port carrier allowance, 4 ≤ port ∨ 4 ≤ carrier ∨ 64 ≤ allowance →
      exec (.setAllowance ⟨.manager, true⟩ port carrier allowance) s = .next
        (s.rejected ⟨.manager, true⟩ .setAllowance .range))
    ∧ ∀ (p : PortNo) (c : CarrierNo) (n : Nat), n < 64 →
      ((s.carrier c).definition = none →
        exec (.setAllowance ⟨.manager, true⟩ p.val c.val n) s = .next
          (s.rejected ⟨.manager, true⟩ .setAllowance .state))
      ∧ ∀ d, (s.carrier c).definition = some d →
        let t := s.setCarrier c { s.carrier c with allowances := (s.carrier c).allowances.set p.val n }
        exec (.setAllowance ⟨.manager, true⟩ p.val c.val n) s = .next
          (if d.guaranteed < t.committedTotal c d.reserve then s.rejected ⟨.manager, true⟩ .setAllowance .overBudget
          else t.done ⟨.manager, true⟩ .setAllowance (.committed (t.committedTotal c d.reserve)))

/-! ### Programmes (R13 to R18) -/

/-- DEFINE PROGRAMME: the checks in R14's order; then the definition is replaced, an UNUSED programme becomes IDLE with
its tracking at its reset values, and the reply carries the carrier's committed total (R11, R14). -/
def Obligations.DefineProgramme : Prop :=
  ∀ (w fl cap : Nat) (s : State), s.Accepts ⟨.manager, true⟩ .defineProgramme →
    (∀ programme carrier group, 48 ≤ programme ∨ 4 ≤ carrier ∨ (32 ≤ group ∧ group ≠ 255) →
      exec (.defineProgramme ⟨.manager, true⟩ programme carrier group w fl cap) s = .next
        (s.rejected ⟨.manager, true⟩ .defineProgramme .range))
    ∧ ∀ (p : ProgrammeNo) (c : CarrierNo) (group : Nat) (g : Option GroupNo),
      (group = 255 ∧ g = none ∨ ∃ n : GroupNo, group = n.val ∧ g = some n) →
      let k := s.programme p
      let t := s.setProgramme p
        (if k.state = .unused then
          { k with state := .idle, definition := some ⟨c, g, w, fl, cap⟩, expected := none, held := 0, continuity := 0 }
        else { k with definition := some ⟨c, g, w, fl, cap⟩ })
      exec (.defineProgramme ⟨.manager, true⟩ p.val c.val group w fl cap) s = .next
        (if ¬ (1 ≤ w ∧ w ≤ 16 ∧ fl ≤ 255 ∧ 1 ≤ cap ∧ cap ≤ 4229 ∧ fl ≤ cap) then
          s.rejected ⟨.manager, true⟩ .defineProgramme .range
        else if k.state ≠ .unused ∧ k.state ≠ .idle then s.rejected ⟨.manager, true⟩ .defineProgramme .state
        else
          match (s.carrier c).definition with
          | none => s.rejected ⟨.manager, true⟩ .defineProgramme .state
          | some d =>
              if (match g with | some n => decide ((s.group n).state = .free) | none => false) = true then
                s.rejected ⟨.manager, true⟩ .defineProgramme .state
              else if 24 ≤ ((s.naming c).filter (fun q => q != p)).length ∨ (g ≠ none ∧ d.reserve < 3)
                  ∨ d.guaranteed < t.committedTotal c d.reserve then
                s.rejected ⟨.manager, true⟩ .defineProgramme .overBudget
              else t.done ⟨.manager, true⟩ .defineProgramme (.committed (t.committedTotal c d.reserve)))

/-- SET PROGRAMME with target LIVE: an IDLE programme becomes RESYNC with an invalid expected sequence; a carrier that
is ON_AIR and did not carry the group gains an entry for each of its stored packets, due at once, and no other, its
other entries staying; the group's pending slot is recomputed; the reply carries RESYNC (R15, R90, R115). -/
def Obligations.SetProgrammeLive : Prop :=
  ∀ (s : State), s.Accepts ⟨.manager, true⟩ .setProgramme →
    (∀ programme target, 48 ≤ programme ∨ target ≠ .named →
      exec (.setProgrammeLive ⟨.manager, true⟩ programme target) s = .next
        (s.rejected ⟨.manager, true⟩ .setProgramme .range))
    ∧ ∀ p : ProgrammeNo,
      ((s.programme p).state ≠ .idle →
        exec (.setProgrammeLive ⟨.manager, true⟩ p.val .named) s = .next
          (s.rejected ⟨.manager, true⟩ .setProgramme .state))
      ∧ ((s.programme p).state = .idle →
        ∃ t : State, exec (.setProgrammeLive ⟨.manager, true⟩ p.val .named) s = .next
            (t.done ⟨.manager, true⟩ .setProgramme (.programmeState .resync))
          ∧ t = { s.setProgramme p { s.programme p with state := .resync, expected := none } with
              carriers := t.carriers, groups := t.groups }
          ∧ (∀ c, t.carrier c = { s.carrier c with carousel := (t.carrier c).carousel })
          ∧ (∀ c, (∀ d g, (s.programme p).definition = some d → d.group = some g → d.carrier = c →
                (s.carrier c).state = .onAir → s.carriesGroup c g = true) →
              (t.carrier c).carousel = (s.carrier c).carousel)
          ∧ ((s.programme p).definition.bind (·.group) = none → t.groups = s.groups)
          ∧ (∀ d g, (s.programme p).definition = some d → d.group = some g →
              (∀ h, h ≠ g → t.group h = s.group h)
              ∧ t.group g = { s.group g with startTime := t.startTimeFrom s g }
              ∧ ((s.carrier d.carrier).state = .onAir → s.carriesGroup d.carrier g = false →
                let stored := fun (ph : Phase) (m : PortNo) => ((s.group g).slot ph).bind (fun k => k.packets[m.val])
                ∀ e, e ∈ (t.carrier d.carrier).carousel ↔
                  (∃ ph m x, stored ph m = some x ∧ e = ⟨g, ph, m, (x.body.length + 247) / 248, s.time⟩)
                    ∨ (e ∈ (s.carrier d.carrier).carousel ∧ ¬ (e.group = g ∧ stored e.phase e.member ≠ none)))))

/-- SET PROGRAMME with target IDLE empties the queue of a LIVE or RESYNC programme, its cells returned to the tail of
the free list head unit first, and sets its held count to 0; a carrier left without a LIVE or RESYNC programme of the
group loses the group's carousel entries. With target UNUSED an IDLE programme loses its definition and its tracking.
The reply carries the new state (R16, R31, R90, R117). -/
def Obligations.SetProgrammeIdleUnused : Prop :=
  ∀ (s : State), s.Accepts ⟨.manager, true⟩ .setProgramme →
    (∀ programme, 48 ≤ programme →
      exec (.setProgrammeIdle ⟨.manager, true⟩ programme) s = .next (s.rejected ⟨.manager, true⟩ .setProgramme .range)
      ∧ exec (.setProgrammeUnused ⟨.manager, true⟩ programme) s = .next
        (s.rejected ⟨.manager, true⟩ .setProgramme .range))
    ∧ ∀ p : ProgrammeNo,
      (exec (.setProgrammeUnused ⟨.manager, true⟩ p.val) s = .next
        (if (s.programme p).state = .idle then
          (s.setProgramme p
            { s.programme p with
              state := .unused
              definition := none
              expected := none
              held := 0
              continuity := 0 }).done ⟨.manager, true⟩ .setProgramme (.programmeState .unused)
        else s.rejected ⟨.manager, true⟩ .setProgramme .state))
      ∧ ((s.programme p).state = .unused ∨ (s.programme p).state = .idle →
        exec (.setProgrammeIdle ⟨.manager, true⟩ p.val) s = .next
          (s.rejected ⟨.manager, true⟩ .setProgramme .state))
      ∧ ((s.programme p).state = .live ∨ (s.programme p).state = .resync →
        ∃ t : State, exec (.setProgrammeIdle ⟨.manager, true⟩ p.val) s = .next
            (t.done ⟨.manager, true⟩ .setProgramme (.programmeState .idle))
          ∧ t = { s.setProgramme p { s.programme p with state := .idle, queue := [], held := 0 } with
              freeCells := s.freeCells ++ (s.programme p).queue.flatMap (·.cells)
              carriers := t.carriers
              groups := t.groups }
          ∧ (∀ c, t.carrier c =
              { s.carrier c with
                carousel :=
                  (s.carrier c).carousel.filter (fun e =>
                    !((s.programme p).definition.map (·.carrier) == some c
                      && (s.programme p).definition.bind (·.group) == some e.group && !t.carriesGroup c e.group)) })
          ∧ (∀ g, t.group g =
              if (s.programme p).definition.bind (·.group) = some g then
                { s.group g with startTime := t.startTimeFrom s g }
              else s.group g))

/-- READ CARRIER and READ PROGRAMME change no state. The replies carry the records; READ CARRIER adds the number of
programmes that name the carrier and a defined carrier's committed total and spare, both absent for an undefined one
(log entry 28); READ PROGRAMME the queue length and whether a unit of the programme is in reassembly on its ingest link
(R10, R11, R18). -/
def Obligations.RecordsRead : Prop :=
  (∀ (s : State), s.Accepts ⟨.manager, true⟩ .readCarrier →
    (∀ carrier, 4 ≤ carrier →
      exec (.readCarrier ⟨.manager, true⟩ carrier) s = .next (s.rejected ⟨.manager, true⟩ .readCarrier .range))
    ∧ ∀ c : CarrierNo, exec (.readCarrier ⟨.manager, true⟩ c.val) s = .next
      (s.done ⟨.manager, true⟩ .readCarrier
        (.carrier
          { definition := (s.carrier c).definition
            allowances := (s.carrier c).allowances
            state := (s.carrier c).state
            nextBoundary := (s.carrier c).nextBoundary
            interval := (s.carrier c).interval
            fraction := (s.carrier c).fraction
            rotate := (s.carrier c).rotate
            degraded := (s.carrier c).degraded
            counters := (s.carrier c).counters
            programmes := (s.naming c).length
            committed := (s.carrier c).definition.map (fun d => s.committedTotal c d.reserve)
            spare := (s.carrier c).definition.map (fun d => d.guaranteed - s.committedTotal c d.reserve) })))
  ∧ ∀ (s : State), s.Accepts ⟨.manager, true⟩ .readProgramme →
    (∀ programme, 48 ≤ programme →
      exec (.readProgramme ⟨.manager, true⟩ programme) s = .next
        (s.rejected ⟨.manager, true⟩ .readProgramme .range))
    ∧ ∀ p : ProgrammeNo, ∃ reassembling : Bool,
      (reassembling = true ↔
        ∃ u, (s.link (linkOf p)).context = .receiving u ∧ u.programme = p)
      ∧ exec (.readProgramme ⟨.manager, true⟩ p.val) s = .next
        (s.done ⟨.manager, true⟩ .readProgramme
          (.programme
            { programme := p
              state := (s.programme p).state
              definition := (s.programme p).definition
              queued := (s.programme p).queue.length
              reassembling := reassembling
              expected := (s.programme p).expected
              held := (s.programme p).held
              continuity := (s.programme p).continuity }))

/-! ### Groups (R76 to R83, R94) -/

/-- DEFINE GROUP of a FREE group: refused RANGE where a field is out of range; otherwise the group is PLANNING with the
definition carried, its roster members ABSENT and everything else at its reset value, and its plan is then resolved; the
reply carries the state (R80, R103). -/
def Obligations.DefineFreeGroup : Prop :=
  ∀ (roster : BitVec 8) (preference : List Nat) (repeatMs limit policy : Nat) (s : State),
    s.Accepts ⟨.manager, true⟩ .defineGroup →
    (∀ group, 32 ≤ group ∨ roster = 0 ∨ 16 ≤ roster.toNat ∨ preference = [] ∨ ¬ preference.Nodup
        ∨ (∃ l ∈ preference, l ∉ [6, 10, 15, 20, 30, 45, 60, 120]) ∨ repeatMs < 100 ∨ 1000 < repeatMs
        ∨ repeatMs % 10 ≠ 0 ∨ limit = 0 ∨ 60 < limit ∨ 1 < policy →
      exec (.defineGroup ⟨.manager, true⟩ group roster preference repeatMs limit policy) s = .next
        (s.rejected ⟨.manager, true⟩ .defineGroup .range))
    ∧ ∀ (g : GroupNo) (ps : List Period) (r : PortSet) (pol : LatePolicy),
      preference = ps.map Period.seconds → ps ≠ [] → ps.Nodup → r ≠ 0 → roster = r.setWidth 8 →
      100 ≤ repeatMs → repeatMs ≤ 1000 → repeatMs % 10 = 0 → 1 ≤ limit → limit ≤ 60 → policy = pol.code →
      (s.group g).state = .free →
      let t :=
        (s.setGroup g
          { Group.reset with
            state := .planning
            definition := some ⟨r, ps, repeatMs, limit, pol⟩
            roles := Vector.ofFn (fun p => if hasItem r p then .absent else .notMember) }).resolve g
      exec (.defineGroup ⟨.manager, true⟩ g.val roster preference repeatMs limit policy) s = .next
        (t.done ⟨.manager, true⟩ .defineGroup (.groupState .planning))

/-- DEFINE GROUP of a group that is not FREE replaces the definition and keeps keys, timing and plan. Ports off the new
roster become NOT_MEMBER: as JOINING or JOINED members they lose their packets, their carousel entries and KEY_WAITING,
and PLAN_WAITING is cleared; ports new to it become ABSENT; the pending slot is recomputed (R78, R81, R84). The
extension count falls to the new limit; an EXTENDED group at it is FROZEN, with GROUP_FROZEN and GROUP_ALERT, a FROZEN
group below it EXTENDED; the plan is then resolved (R81). Nothing else changes. -/
def Obligations.RedefineGroup : Prop :=
  ∀ (g : GroupNo) (ps : List Period) (r : PortSet) (pol : LatePolicy) (repeatMs limit : Nat) (s : State),
    s.Accepts ⟨.manager, true⟩ .defineGroup →
    ps ≠ [] → ps.Nodup → r ≠ 0 → 100 ≤ repeatMs → repeatMs ≤ 1000 → repeatMs % 10 = 0 → 1 ≤ limit → limit ≤ 60 →
    (s.group g).state ≠ .free →
    let old := s.group g
    let count := min old.extensions limit
    let leaves := fun (p : PortNo) => old.roles[p.val].active && !hasItem r p
    let changes := fun (p : PortNo) => old.roles[p.val] = .notMember ↔ hasItem r p = true
    ∃ t : State,
      exec (.defineGroup ⟨.manager, true⟩ g.val (r.setWidth 8) (ps.map Period.seconds) repeatMs limit pol.code) s
        = .next ((t.resolve g).done ⟨.manager, true⟩ .defineGroup (.groupState (t.group g).state))
      ∧ (t.group g).state =
        (if old.state = .extended ∨ old.state = .frozen then (if count = limit then .frozen else .extended)
         else old.state)
      ∧ t.group g =
        { old with
          state := (t.group g).state
          definition := some ⟨r, ps, repeatMs, limit, pol⟩
          roles := Vector.ofFn (fun p =>
            if hasItem r p then (if old.roles[p.val] = .notMember then .absent else old.roles[p.val]) else .notMember)
          slotA := (t.group g).slotA
          slotB := (t.group g).slotB
          startTime := (t.group g).startTime
          extensions := count }
      ∧ (∀ ph, (t.group g).slot ph = (old.slot ph).map (fun k =>
          { k with
            packets := Vector.ofFn (fun p =>
              if leaves p then none else k.packets[p.val]) }))
      ∧ ((old.state = .starting → (old.startTime ≠ none ↔ s.slotState g .a = .aired)) →
          (t.group g).startTime = t.startTimeFrom s g)
      ∧ (∀ h, h ≠ g → t.group h = s.group h)
      ∧ (∀ c, t.carrier c =
          { s.carrier c with
            carousel := (s.carrier c).carousel.filter (fun e => !(e.group == g && leaves e.member)) })
      ∧ (∀ p, t.port p =
          { s.port p with
            keyWaiting := if leaves p then (s.port p).keyWaiting.set g.val false else (s.port p).keyWaiting
            planWaiting := if changes p then (s.port p).planWaiting.set g.val false else (s.port p).planWaiting })
      ∧ t.manager =
        (if old.state = .extended ∧ count = limit then
          { s.manager with
            state := .exception
            groupAlert := s.manager.groupAlert.set g.val true
            condition :=
              { s.manager.condition with groupFrozen := s.manager.condition.groupFrozen.set g.val true } }
         else s.manager)
      ∧ t = { s with groups := t.groups, carriers := t.carriers, access := t.access, manager := t.manager }

/-- RELEASE GROUP: refused STATE for a FREE group and for one that a programme not UNUSED names; otherwise the group
record takes its reset values, its entries leave every carousel list, and KEY_WAITING and PLAN_WAITING for it are
cleared on every access port; causes and GROUP_ALERT stay (R82; log entry 14). -/
def Obligations.ReleaseGroup : Prop :=
  ∀ (s : State), s.Accepts ⟨.manager, true⟩ .releaseGroup →
    (∀ group, 32 ≤ group →
      exec (.releaseGroup ⟨.manager, true⟩ group) s = .next (s.rejected ⟨.manager, true⟩ .releaseGroup .range))
    ∧ ∀ g : GroupNo,
      ((s.group g).state = .free
          ∨ (∃ p, (s.programme p).state ≠ .unused ∧ (s.programme p).definition.bind (·.group) = some g) →
        exec (.releaseGroup ⟨.manager, true⟩ g.val) s = .next (s.rejected ⟨.manager, true⟩ .releaseGroup .state))
      ∧ ((s.group g).state ≠ .free →
        (∀ p, (s.programme p).state ≠ .unused → (s.programme p).definition.bind (·.group) ≠ some g) →
        exec (.releaseGroup ⟨.manager, true⟩ g.val) s = .next
          (State.done
            { s with
              groups := s.groups.set g.val Group.reset
              carriers := s.carriers.map (fun k => { k with carousel := k.carousel.filter (fun e => e.group != g) })
              access := s.access.map (fun k =>
                { k with
                  keyWaiting := k.keyWaiting.set g.val false
                  planWaiting := k.planWaiting.set g.val false }) }
            ⟨.manager, true⟩ .releaseGroup .empty))

/-- RESTART GROUP of an EXTENDED or FROZEN group with an ACTIVE slot: a new key is drawn into the pending slot under the
serial of the key discarded, with no packet; the group is EXTENDED with count 0; the next changeover is the first whole
second at or after the acceptance plus a lead time plus 1,000 ms, the lead time of the agreed plan as the start or the
latest swap applied it (R94, R109; log entry 37); KEY_WAITING is set on its JOINING and JOINED members. Other states are
refused STATE (R79, R94). -/
def Obligations.RestartGroup : Prop :=
  ∀ (s : State), s.Accepts ⟨.manager, true⟩ .restartGroup →
    (∀ group, 32 ≤ group →
      exec (.restartGroup ⟨.manager, true⟩ group) s = .next (s.rejected ⟨.manager, true⟩ .restartGroup .range))
    ∧ ∀ g : GroupNo,
      ((s.group g).state ≠ .extended → (s.group g).state ≠ .frozen →
        exec (.restartGroup ⟨.manager, true⟩ g.val) s = .next (s.rejected ⟨.manager, true⟩ .restartGroup .state))
      ∧ ∀ (ph : Phase) (inUse old : KeySlot) (plan : Plan),
        (s.group g).state = .extended ∨ (s.group g).state = .frozen →
        (s.group g).active = some ph → (s.group g).slot ph = some inUse → (s.group g).slot ph.other = some old →
        (s.group g).applied = some plan →
        let next := (s.time + plan.lead * 1000000 + 1000000 + 999999) / 1000000 * 1000000
        ∃ (key : Key) (n : Nat) (t : State), exec (.restartGroup ⟨.manager, true⟩ g.val) s = .next
            (t.done ⟨.manager, true⟩ .restartGroup (.restarted old.serial (some next)))
          ∧ key ≠ inUse.key
          ∧ t.group g =
            { (s.group g).setSlot ph.other (some ⟨old.serial, key, Vector.replicate 4 none⟩) with
              state := .extended
              extensions := 0
              nextChangeover := some next
              drawTime := none }
          ∧ (∀ h, h ≠ g → t.group h = s.group h)
          ∧ (∀ c, t.carrier c =
            { s.carrier c with
              carousel := (s.carrier c).carousel.filter (fun e => !(e.group == g && e.phase == ph.other)) })
          ∧ (∀ p, t.port p =
            if (s.group g).roles[p.val].active = true then
              { s.port p with keyWaiting := (s.port p).keyWaiting.set g.val true }
            else s.port p)
          ∧ t = { s with carriers := t.carriers, groups := t.groups, access := t.access, keyIndex := n }

/-- READ GROUP changes no state; the reply carries the record, the slot states and serials and the stored packets'
lengths, and never a key (R83). A slot without a key is EMPTY, the slot in use ACTIVE; another is AIRED where some
member is JOINED, every JOINED member has a packet in it, and every packet has been aired on every relevant carrier;
COVERED where only the airing is wanting; ISSUED where a JOINED member or a packet of one is (R77). -/
def Obligations.ReadGroup : Prop :=
  ∀ (s : State), s.Accepts ⟨.manager, true⟩ .readGroup →
    (∀ group, 32 ≤ group →
      exec (.readGroup ⟨.manager, true⟩ group) s = .next (s.rejected ⟨.manager, true⟩ .readGroup .range))
    ∧ ∀ g : GroupNo, ∃ r : GroupReport,
      exec (.readGroup ⟨.manager, true⟩ g.val) s = .next (s.done ⟨.manager, true⟩ .readGroup (.group r))
      ∧ r.state = (s.group g).state ∧ r.definition = (s.group g).definition ∧ r.roles = (s.group g).roles
      ∧ r.number = (s.group g).plan.number ∧ r.status = (s.group g).plan.status ∧ r.agreed = (s.group g).plan.agreed
      ∧ r.lastChangeover = (s.group g).lastChangeover ∧ r.nextChangeover = (s.group g).nextChangeover
      ∧ r.drawTime = (s.group g).drawTime ∧ r.startTime = (s.group g).startTime
      ∧ r.extensions = (s.group g).extensions
      ∧ (r.alert = true ↔
        (s.group g).state = .extended ∨ (s.group g).state = .frozen ∨ (s.group g).plan.status = .fault)
      ∧ (∀ c : CarrierNo, hasItem r.relevant c = true ↔
        (s.carrier c).state = .onAir ∧ ∃ p d, ((s.programme p).state = .live ∨ (s.programme p).state = .resync)
          ∧ (s.programme p).definition = some d ∧ d.carrier = c ∧ d.group = some g)
      ∧ (∀ (ph : Phase), let rep := (match ph with | .a => r.slotA | .b => r.slotB)
          rep.serial = ((s.group g).slot ph).map (·.serial)
          ∧ (∀ p : PortNo, rep.packets[p.val] =
              ((s.group g).slot ph).bind (fun k => k.packets[p.val].map (fun x =>
                ⟨x.body.length, (x.body.length + 247) / 248, x.aired⟩)))
          ∧ (let covered := fun (k : KeySlot) => (∃ p : PortNo, (s.group g).roles[p.val] = .joined)
                ∧ ∀ p : PortNo, (s.group g).roles[p.val] = .joined → k.packets[p.val] ≠ none
              let aired := fun (k : KeySlot) => ∀ (p : PortNo) x, k.packets[p.val] = some x →
                ∀ c : CarrierNo, hasItem r.relevant c = true → hasItem x.aired c = true
              let pending := fun (holds : KeySlot → Prop) =>
                (s.group g).active ≠ some ph ∧ ∃ k, (s.group g).slot ph = some k ∧ holds k
              (rep.state = .empty ↔ (s.group g).slot ph = none)
              ∧ (rep.state = .active ↔ (s.group g).slot ph ≠ none ∧ (s.group g).active = some ph)
              ∧ (rep.state = .issued ↔ pending (fun k => ¬ covered k))
              ∧ (rep.state = .covered ↔ pending (fun k => covered k ∧ ¬ aired k))
              ∧ (rep.state = .aired ↔ pending (fun k => covered k ∧ aired k))))

/-! ### Keys (R84 to R92) -/

/-- FETCH KEY: refused RANGE, NOT_PERMITTED for a role other than JOINING and JOINED, STATE where the selected slot
holds no key; otherwise the reply is the key record of the slot, and PENDING clears KEY_WAITING for the group on the
port and nothing else (R87). -/
def Obligations.FetchKey : Prop :=
  ∀ (p : PortNo) (s : State), s.Accepts ⟨.access p, true⟩ .fetchKey →
    (∀ group selector, 32 ≤ group ∨ selector ≠ .named →
      exec (.fetchKeyActive ⟨.access p, true⟩ group selector) s = .next
        (s.rejected ⟨.access p, true⟩ .fetchKey .range))
    ∧ (∀ group, 32 ≤ group →
      exec (.fetchKeyPending ⟨.access p, true⟩ group) s = .next (s.rejected ⟨.access p, true⟩ .fetchKey .range))
    ∧ ∀ g : GroupNo,
      let grp := s.group g
      let member := grp.roles[p.val] = .joining ∨ grp.roles[p.val] = .joined
      let pending := (match grp.active with | some ph => ph.other | none => Phase.a)
      (¬ member →
        exec (.fetchKeyActive ⟨.access p, true⟩ g.val .named) s = .next
            (s.rejected ⟨.access p, true⟩ .fetchKey .notPermitted)
          ∧ exec (.fetchKeyPending ⟨.access p, true⟩ g.val) s = .next
            (s.rejected ⟨.access p, true⟩ .fetchKey .notPermitted))
      ∧ (member → grp.active.bind grp.slot = none →
        exec (.fetchKeyActive ⟨.access p, true⟩ g.val .named) s = .next
          (s.rejected ⟨.access p, true⟩ .fetchKey .state))
      ∧ (∀ ph k, member → grp.active = some ph → grp.slot ph = some k →
        exec (.fetchKeyActive ⟨.access p, true⟩ g.val .named) s = .next
          (s.done ⟨.access p, true⟩ .fetchKey (.key ⟨g, ph, k.serial, k.key, grp.nextChangeover, grp.plan.number⟩)))
      ∧ (member → grp.slot pending = none →
        exec (.fetchKeyPending ⟨.access p, true⟩ g.val) s = .next
          (s.rejected ⟨.access p, true⟩ .fetchKey .state))
      ∧ (∀ k, member → grp.slot pending = some k →
        exec (.fetchKeyPending ⟨.access p, true⟩ g.val) s = .next
          ((s.setPort p { s.port p with keyWaiting := (s.port p).keyWaiting.set g.val false }).done
            ⟨.access p, true⟩ .fetchKey
            (.key ⟨g, pending, k.serial, k.key, grp.nextChangeover, grp.plan.number⟩)))

/-- SUBMIT ACCESS: refused RANGE, NOT_PERMITTED, STALE for a serial that no slot holds, LENGTH outside 1 to 744 bytes;
otherwise the packet is stored for the member in the slot of that serial, in place of any before it and with an empty
aired set; every ON_AIR carrier that a LIVE or RESYNC programme of the group names gets its entry, due at once; the slot
is recomputed; the reply carries the phase and the slice count (R88, R90, R114). -/
def Obligations.SubmitAccess : Prop :=
  ∀ (p : PortNo) (serial : Serial) (body : List Byte) (s : State), s.Accepts ⟨.access p, true⟩ .submitAccess →
    (∀ group, 32 ≤ group →
      exec (.submitAccess ⟨.access p, true⟩ group serial body) s = .next
        (s.rejected ⟨.access p, true⟩ .submitAccess .range))
    ∧ ∀ g : GroupNo,
      let grp := s.group g
      let member := grp.roles[p.val] = .joining ∨ grp.roles[p.val] = .joined
      (¬ member →
        exec (.submitAccess ⟨.access p, true⟩ g.val serial body) s = .next
          (s.rejected ⟨.access p, true⟩ .submitAccess .notPermitted))
      ∧ (member → (∀ ph k, grp.slot ph = some k → k.serial ≠ serial) →
        exec (.submitAccess ⟨.access p, true⟩ g.val serial body) s = .next
          (s.rejected ⟨.access p, true⟩ .submitAccess .stale))
      ∧ ∀ ph k, member → grp.slot ph = some k → k.serial = serial →
        (grp.active = some ph ∨ (grp.active = some ph.other ∧ ∀ q, grp.slot ph.other = some q → q.serial ≠ serial)
          ∨ (grp.active = none ∧ ph = .a)) →
        (¬ (1 ≤ body.length ∧ body.length ≤ 744) →
          exec (.submitAccess ⟨.access p, true⟩ g.val serial body) s = .next
            (s.rejected ⟨.access p, true⟩ .submitAccess .length))
        ∧ (1 ≤ body.length ∧ body.length ≤ 744 →
          ∃ t : State, exec (.submitAccess ⟨.access p, true⟩ g.val serial body) s = .next
              (t.done ⟨.access p, true⟩ .submitAccess (.stored ph ((body.length + 247) / 248)))
            ∧ t.group g =
              { grp.setSlot ph (some { k with packets := k.packets.set p.val (some ⟨body, 0⟩) }) with
                startTime := t.startTimeFrom s g }
            ∧ (∀ h, h ≠ g → t.group h = s.group h)
            ∧ (∀ c, t.carrier c =
              if (s.carrier c).state = .onAir ∧ s.carriesGroup c g = true then
                { s.carrier c with
                  carousel :=
                    (s.carrier c).carousel.filter (fun e => !(e.group == g && e.phase == ph && e.member == p))
                      ++ [⟨g, ph, p, (body.length + 247) / 248, s.time⟩] }
              else s.carrier c)
            ∧ t = { s with carriers := t.carriers, groups := t.groups })

/-- The draw and start events, taken when they are due. The draw of a RUNNING group puts a new key into its pending slot
under the active serial plus 1, different from the key in use, raises KEY_WAITING on its JOINING and JOINED members, and
makes the draw time absent (R79, R86). An event that is not due has no effect (log entry 2). The start makes slot A of a
STARTING group ACTIVE and the group RUNNING, sets its times from the agreed plan, which it applies (R109; log entry 37),
and clears KEY_WAITING on every access port (R85). -/
def Obligations.DrawAndStart : Prop :=
  ∀ (g : GroupNo) (s : State),
    let grp := s.group g
    (¬ (grp.state = .running ∧ ∃ d, grp.drawTime = some d ∧ d ≤ s.time) → exec (.drawEvent g) s = .next s)
    ∧ (∀ d ph k, grp.state = .running → grp.drawTime = some d → d ≤ s.time → grp.active = some ph →
        grp.slot ph = some k →
        ∃ (key : Key) (n : Nat) (t : State), exec (.drawEvent g) s = .next t ∧ key ≠ k.key
          ∧ t.group g =
            { grp.setSlot ph.other (some ⟨k.serial + 1, key, Vector.replicate 4 none⟩) with drawTime := none }
          ∧ (∀ h, h ≠ g → t.group h = s.group h)
          ∧ (∀ p, t.port p =
            if grp.roles[p.val] = .joining ∨ grp.roles[p.val] = .joined then
              { s.port p with keyWaiting := (s.port p).keyWaiting.set g.val true }
            else s.port p)
          ∧ t = { s with groups := t.groups, access := t.access, keyIndex := n })
    ∧ (¬ (grp.state = .starting ∧ ∃ d, grp.startTime = some d ∧ d ≤ s.time) → exec (.startEvent g) s = .next s)
    ∧ (∀ d plan, grp.state = .starting → grp.startTime = some d → d ≤ s.time → grp.plan.agreed = some plan →
        exec (.startEvent g) s = .next
          { s with
            groups := s.groups.set g.val
              { grp with
                state := .running
                active := some .a
                applied := some plan
                lastChangeover := some d
                nextChangeover := some (d + plan.period.seconds * 1000000)
                drawTime := some (d + plan.period.seconds * 1000000 - plan.lead * 1000000)
                startTime := none }
            access := s.access.map (fun k => { k with keyWaiting := k.keyWaiting.set g.val false }) })

/-- The changeover of a RUNNING, EXTENDED or FROZEN group, taken when it is due. Where the pending slot is AIRED the
phases swap: it becomes ACTIVE, the old slot EMPTY with its entries gone, the group RUNNING with count 0 and the times
of the agreed plan, which only this applies (R109; log entry 37), KEY_WAITING cleared on every access port (R91). Where
it is not, the changeover comes again 1,000 ms later: the count rises to at most the limit, at which the group is
FROZEN, with GROUP_FROZEN on the event that freezes it; LATE goes to each JOINED member without a packet in the pending
slot; GROUP_ALERT is set (R92). Both reckon from station time at the taking (log entry 29); a changeover that is not due
has no effect (log entry 2). -/
def Obligations.Changeover : Prop :=
  ∀ (g : GroupNo) (s : State),
    let grp := s.group g
    let keyed := grp.state = .running ∨ grp.state = .extended ∨ grp.state = .frozen
    (¬ (keyed ∧ ∃ d, grp.nextChangeover = some d ∧ d ≤ s.time) → exec (.changeoverEvent g) s = .next s)
    ∧ ∀ d ph, keyed → grp.nextChangeover = some d → d ≤ s.time → grp.active = some ph →
      (∀ plan, s.slotState g ph.other = .aired → grp.plan.agreed = some plan →
        exec (.changeoverEvent g) s = .next
          { s with
            groups := s.groups.set g.val
              { grp.setSlot ph none with
                state := .running
                active := some ph.other
                applied := some plan
                lastChangeover := some s.time
                nextChangeover := some (s.time + plan.period.seconds * 1000000)
                drawTime := some (s.time + plan.period.seconds * 1000000 - plan.lead * 1000000)
                extensions := 0 }
            carriers := s.carriers.map (fun k =>
              { k with carousel := k.carousel.filter (fun e => !(e.group == g && e.phase == ph)) })
            access := s.access.map (fun k => { k with keyWaiting := k.keyWaiting.set g.val false }) })
      ∧ (∀ def_, s.slotState g ph.other ≠ .aired → grp.definition = some def_ →
        let count := if grp.extensions < def_.limit then grp.extensions + 1 else grp.extensions
        ∃ t : State, exec (.changeoverEvent g) s = .next t
          ∧ t.group g =
            { grp with
              state := if def_.limit ≤ count then .frozen else .extended
              extensions := count
              nextChangeover := some (s.time + 1000000)
              drawTime := none }
          ∧ (∀ h, h ≠ g → t.group h = s.group h)
          ∧ (∀ p, t.port p =
            if grp.roles[p.val] = .joined ∧ (grp.slot ph.other).bind (fun k => k.packets[p.val]) = none then
              { s.port p with
                state := if (s.port p).state = .detached then .detached else .exception
                condition :=
                  { (s.port p).condition with
                    late := (s.port p).condition.late.set g.val true
                    lateCount := min ((s.port p).condition.lateCount + 1) 65535 } }
            else s.port p)
          ∧ t.manager =
            (let m := { s.manager with groupAlert := s.manager.groupAlert.set g.val true }
             if grp.extensions + 1 = def_.limit then
               { m with
                 state := .exception
                 condition := { m.condition with groupFrozen := m.condition.groupFrozen.set g.val true } }
             else m)
          ∧ t = { s with groups := t.groups, access := t.access, manager := t.manager })

/-! ### Plans (R98 to R111) -/

/-- ATTACH: an empty mask or a lead outside 1 to 30 s is refused RANGE. Otherwise the offer is recorded, a DETACHED port
is READY and joins the tail of the attach order list; each group that is not FREE and whose roster names the port is
resolved, in ascending number; and the reply carries the port's place (R99, R100, R103). -/
def Obligations.Attach : Prop :=
  ∀ (p : PortNo) (o : Offer) (s : State), s.Accepts ⟨.access p, true⟩ .attach →
    let joined :=
      if (s.port p).state = .detached then
        { s.setPort p { s.port p with state := .ready, offer := some o } with attachOrder := s.attachOrder ++ [p] }
      else s.setPort p { s.port p with offer := some o }
    exec (.attach ⟨.access p, true⟩ o) s = .next
        (if o.mask = 0 ∨ o.lead = 0 ∨ 30 < o.lead then s.rejected ⟨.access p, true⟩ .attach .range
         else (joined.resolvedFor p).done ⟨.access p, true⟩ .attach (.place (joined.attachOrder.idxOf p)))
      ∧ ∀ g : GroupNo, s.rosterNames g p = false → (joined.resolvedFor p).group g = s.group g

/-- PLAN ACK: refused RANGE, STATE for a role other than JOINING, STALE for another plan number. A differing offer is
recorded and each group that is not FREE and names the port resolved again, in ascending number (R103). The recorded
offer makes the port JOINED and clears its PLAN_WAITING; where that leaves no JOINING port while the status is PROPOSED,
the plan is agreed, and a PLANNING group is STARTING with serial 0 in slot A and KEY_WAITING on its members (R84, R108,
R109). -/
def Obligations.PlanAck : Prop :=
  ∀ (p : PortNo) (o : Offer) (s : State), s.Accepts ⟨.access p, true⟩ .planAck →
    (∀ group number, 32 ≤ group ∨ 256 ≤ number ∨ o.mask = 0 ∨ o.lead = 0 ∨ 30 < o.lead →
      exec (.planAck ⟨.access p, true⟩ group number o) s = .next (s.rejected ⟨.access p, true⟩ .planAck .range))
    ∧ ∀ (g : GroupNo) (number : Nat), number < 256 → o.mask ≠ 0 → 1 ≤ o.lead → o.lead ≤ 30 →
      let grp := s.group g
      (grp.roles[p.val] ≠ .joining →
        exec (.planAck ⟨.access p, true⟩ g.val number o) s = .next (s.rejected ⟨.access p, true⟩ .planAck .state))
      ∧ (grp.roles[p.val] = .joining → number ≠ grp.plan.number.toNat →
        exec (.planAck ⟨.access p, true⟩ g.val number o) s = .next (s.rejected ⟨.access p, true⟩ .planAck .stale))
      ∧ (grp.roles[p.val] = .joining → number = grp.plan.number.toNat → (s.port p).offer ≠ some o →
        let t := (s.setPort p { s.port p with offer := some o }).resolvedFor p
        exec (.planAck ⟨.access p, true⟩ g.val number o) s = .next
          (t.done ⟨.access p, true⟩ .planAck
            (.planAck (t.group g).roles[p.val] (t.group g).plan.number (t.group g).plan.status)))
      ∧ (grp.roles[p.val] = .joining → number = grp.plan.number.toNat → (s.port p).offer = some o →
        let agrees := grp.plan.status = .proposed ∧ ∀ q : PortNo, q ≠ p → grp.roles[q.val] ≠ .joining
        let first := agrees ∧ grp.state = .planning
        let plan : PlanRecord :=
          if agrees then ⟨grp.plan.number, .agreed, none, grp.plan.proposed⟩ else grp.plan
        ∃ (key : Key) (n : Nat) (t : State), exec (.planAck ⟨.access p, true⟩ g.val number o) s = .next
            (t.done ⟨.access p, true⟩ .planAck (.planAck .joined grp.plan.number plan.status))
          ∧ t.group g =
            { grp with
              roles := grp.roles.set p.val .joined
              plan := plan
              state := if first then .starting else grp.state
              slotA := if first then some ⟨0, key, Vector.replicate 4 none⟩ else grp.slotA
              startTime := if first then none else t.startTimeFrom s g }
          ∧ (∀ h, h ≠ g → t.group h = s.group h)
          ∧ (∀ q, t.port q =
            { s.port q with
              keyWaiting :=
                if first ∧ (grp.roles[q.val] = .joining ∨ grp.roles[q.val] = .joined) then
                  (s.port q).keyWaiting.set g.val true
                else (s.port q).keyWaiting
              planWaiting := if q = p then (s.port q).planWaiting.set g.val false else (s.port q).planWaiting })
          ∧ t = { s with groups := t.groups, access := t.access, keyIndex := n })

/-- PROBE GROUP is refused RANGE for a group number above 31 and for nothing else; it changes no state, and its reply
carries the port's role, the group state, the plan number and status, and the plan the number names: the proposed plan
while PROPOSED, otherwise the agreed plan or none. The role is NOT_MEMBER for a FREE group and for one whose roster does
not name the port, where the record is as every step keeps it (R111). -/
def Obligations.ProbeGroup : Prop :=
  ∀ (p : PortNo) (s : State), s.Accepts ⟨.access p, true⟩ .probeGroup →
    (∀ group, 32 ≤ group →
      exec (.probeGroup ⟨.access p, true⟩ group) s = .next (s.rejected ⟨.access p, true⟩ .probeGroup .range))
    ∧ ∀ g : GroupNo, exec (.probeGroup ⟨.access p, true⟩ g.val) s = .next
      (s.done ⟨.access p, true⟩ .probeGroup
        (.probe (s.group g).roles[p.val] (s.group g).state (s.group g).plan.number (s.group g).plan.status
          (if (s.group g).plan.status = .proposed then (s.group g).plan.proposed else (s.group g).plan.agreed)))
      ∧ ((s.group g).fits →
        ((s.group g).state = .free ∨ ∃ d, (s.group g).definition = some d ∧ hasItem d.roster p = false) →
        (s.group g).roles[p.val] = .notMember)

/-- The compatible set of a resolution: attached ports of the roster, in attach order; while it is not empty some period
of the preference list is in every offer and at least 2 s longer than the largest lead; and an attached roster port left
out has no such period together with those ports of the set that stand before it in attach order, so an earlier port is
never left out for a later one (R103, R104). -/
def Obligations.CompatibleSet : Prop :=
  ∀ (d : GroupDef) (s : State),
    let set := s.compatibleSet d
    let works := fun (ports : List PortNo) (l : Period) =>
      l ∈ d.preference ∧ ∀ p ∈ ports, ∃ o, (s.port p).offer = some o ∧ hasItem o.mask l.index = true
        ∧ o.lead + 2 ≤ l.seconds
    set.Sublist s.attachOrder
      ∧ (∀ p ∈ set, hasItem d.roster p = true)
      ∧ (set ≠ [] → ∃ l, works set l)
      ∧ (∀ before p after, s.attachOrder = before ++ p :: after → hasItem d.roster p = true → p ∉ set →
          ∀ l, ¬ works (before.filter (fun q => decide (q ∈ set)) ++ [p]) l)
      ∧ (∀ plan, s.chosenPlan d set = some plan →
          set ≠ [] ∧ works set plan.period ∧ (∀ p ∈ set, s.leadOf p ≤ plan.lead)
            ∧ (∃ p ∈ set, s.leadOf p = plan.lead)
            ∧ ∀ l before after, d.preference = before ++ l :: after → works set l → plan.period ∈ before ++ [l])
      ∧ (s.chosenPlan d set = none ↔ set = [])

/-- A resolution of a group that is not FREE: the role of every port (R105), the plan record by R106's table,
PLAN_WAITING on the JOINING members, EXCLUDED and EXCEPTION on the ports it leaves out, GROUP_ALERT at a FAULT. A member
that leaves JOINING and JOINED loses its packets, its carousel entries and KEY_WAITING; one that comes to them has
KEY_WAITING set where the pending slot holds a key (R78). Nothing else of the part changes. -/
def Obligations.Resolution : Prop :=
  ∀ (g : GroupNo) (d : GroupDef) (s : State), (s.group g).definition = some d → (s.group g).state ≠ .free →
    let old := s.group g
    let set := s.compatibleSet d
    let chosen := s.chosenPlan d set
    let attached := ∃ p ∈ s.attachOrder, hasItem d.roster p = true
    let same := chosen ≠ none ∧ old.plan.agreed = chosen
    let fault := chosen = none ∧ attached
    let t := s.resolve g
    (∀ p : PortNo, (t.group g).roles[p.val] =
      if p ∈ set then
        (if old.roles[p.val] = .joined ∧ same ∧ (old.plan.status = .agreed ∨ old.plan.status = .proposed) then .joined
         else .joining)
      else if hasItem d.roster p = true then (if p ∈ s.attachOrder then .excluded else .absent)
      else .notMember)
    ∧ ((t.group g).plan.number =
        if (chosen ≠ none ∧ ¬ same) ∨ (same ∧ old.plan.status = .proposed) then old.plan.number + 1
        else old.plan.number)
    ∧ (chosen ≠ none → ¬ same → (t.group g).plan.status = .proposed ∧ (t.group g).plan.proposed = chosen)
    ∧ (same → (t.group g).plan.status = .agreed
        ∧ (old.plan.status = .proposed → (t.group g).plan.proposed = none))
    ∧ (fault → (t.group g).plan.status = .fault ∧ (t.group g).plan.proposed = none)
    ∧ (chosen = none → ¬ attached → (t.group g).plan = old.plan)
    ∧ (t.group g).plan.agreed = old.plan.agreed
    ∧ (t.group g).state = old.state ∧ (t.group g).definition = old.definition ∧ (t.group g).active = old.active
    ∧ t.group g =
      { old with
        roles := (t.group g).roles
        plan := (t.group g).plan
        slotA := (t.group g).slotA
        slotB := (t.group g).slotB
        startTime := (t.group g).startTime }
    ∧ ((old.state = .starting → (old.startTime ≠ none ↔ s.slotState g .a = .aired)) →
        (t.group g).startTime = t.startTimeFrom s g)
    ∧ (∀ p : PortNo, (t.port p).planWaiting[g.val] = true ↔
        (t.group g).roles[p.val] = .joining
          ∨ ((t.group g).roles[p.val] = .joined ∧ (s.port p).planWaiting[g.val] = true))
    ∧ (∀ p : PortNo, (t.port p).condition.excluded[g.val] = true ↔
        (s.port p).condition.excluded[g.val] = true
          ∨ ((t.group g).roles[p.val] = .excluded ∧ (fault ∨ old.roles[p.val] ≠ .excluded)))
    ∧ (∀ p : PortNo, (t.group g).roles[p.val] = .excluded → fault ∨ old.roles[p.val] ≠ .excluded →
        (s.port p).state ≠ .detached → (t.port p).state = .exception)
    ∧ (t.manager.groupAlert[g.val] = true ↔ s.manager.groupAlert[g.val] = true ∨ fault)
    ∧ (∀ p : PortNo, ¬ ((t.group g).roles[p.val] = .excluded ∧ (fault ∨ old.roles[p.val] ≠ .excluded)) →
        (t.port p).state = (s.port p).state)
    ∧ (let was := fun (p : PortNo) => old.roles[p.val].active
       let is := fun (p : PortNo) => (t.group g).roles[p.val].active
       let pending : Option KeySlot := (match old.active with | some ph => old.slot ph.other | none => old.slotA)
       (∀ p : PortNo, (t.port p).keyWaiting =
          if was p = true ∧ is p = false then (s.port p).keyWaiting.set g.val false
          else if was p = false ∧ is p = true ∧ pending ≠ none then (s.port p).keyWaiting.set g.val true
          else (s.port p).keyWaiting)
       ∧ (∀ ph, (t.group g).slot ph = (old.slot ph).map (·.dropping (fun p => was p && !is p)))
       ∧ (∀ c, t.carrier c =
          { s.carrier c with
            carousel :=
              (s.carrier c).carousel.filter (fun e => !(e.group == g && was e.member && !is e.member)) }))
    ∧ (∀ h, h ≠ g → t.group h = s.group h)
    ∧ (∀ (p : PortNo) (h : GroupNo), h ≠ g →
        (t.port p).planWaiting[h.val] = (s.port p).planWaiting[h.val]
          ∧ (t.port p).condition.excluded[h.val] = (s.port p).condition.excluded[h.val])
    ∧ (∀ p : PortNo, t.port p =
        { s.port p with
          state := (t.port p).state
          keyWaiting := (t.port p).keyWaiting
          planWaiting := (t.port p).planWaiting
          condition := { (s.port p).condition with excluded := (t.port p).condition.excluded } })
    ∧ t =
        { s with
          groups := t.groups
          carriers := t.carriers
          access := t.access
          manager := { s.manager with groupAlert := if fault then s.manager.groupAlert.set g.val true else s.manager.groupAlert } }

/-! ### Subscriber packets (R124 to R129) -/

/-- OPEN BATCH opens the port's batch at its count, 65,535 where it carries none, and clears BATCH_END; a count of 0, or
above 65,535, is refused RANGE. SUBMIT SUBSCRIBER is refused by R126's table in its order; otherwise the packet joins
the head of the queue when urgent, its tail when not, for those carriers of the mask that are ARMED or ON_AIR; it spends
one from the batch, and the last sets BATCH_END (R125 to R128). -/
def Obligations.Batches : Prop :=
  (∀ (p : PortNo) (present count : Nat) (s : State), s.Accepts ⟨.access p, true⟩ .openBatch →
    let n := if present = 1 then count else 65535
    exec (.openBatch ⟨.access p, true⟩ present count) s = .next
      (if 1 < present ∨ (present = 1 ∧ (count = 0 ∨ 65535 < count)) then s.rejected ⟨.access p, true⟩ .openBatch .range
       else
        (s.setPort p { s.port p with batch := some n, batchEnd := false }).done ⟨.access p, true⟩ .openBatch
          (.batch n (s.port p).queue.length)))
  ∧ ∀ (p : PortNo) (body : List Byte) (s : State), s.Accepts ⟨.access p, true⟩ .submitSubscriber →
    (∀ (mask : BitVec 8) (urgent : Nat), 16 ≤ mask.toNat ∨ 1 < urgent →
      exec (.submitSubscriber ⟨.access p, true⟩ body mask urgent) s = .next
        (s.rejected ⟨.access p, true⟩ .submitSubscriber .range))
    ∧ ∀ (m r : CarrierSet) (u : Bool),
      (∀ c : CarrierNo, hasItem r c =
        (hasItem m c && decide ((s.carrier c).state = .armed ∨ (s.carrier c).state = .onAir))) →
      let k := s.port p
      exec (.submitSubscriber ⟨.access p, true⟩ body (m.setWidth 8) u.toNat) s = .next
        (match k.batch with
        | none => s.rejected ⟨.access p, true⟩ .submitSubscriber .noBatch
        | some 0 =>
            (s.setPort p { k with batchEnd := true }).rejected ⟨.access p, true⟩ .submitSubscriber .batchSpent
        | some (n + 1) =>
            if body.length = 0 ∨ 248 < body.length then s.rejected ⟨.access p, true⟩ .submitSubscriber .length
            else if r = 0 then s.rejected ⟨.access p, true⟩ .submitSubscriber .noCarrier
            else if 64 ≤ k.queue.length then s.rejected ⟨.access p, true⟩ .submitSubscriber .queueFull
            else
              (s.setPort p
                { k with
                  queue := if u then ⟨body, r, u⟩ :: k.queue else k.queue ++ [⟨body, r, u⟩]
                  batch := some n
                  batchEnd := if n = 0 then true else k.batchEnd }).done ⟨.access p, true⟩ .submitSubscriber
                (.placed r u (k.queue.length + 1) n))

/-- The take of a port's queue for a carrier: the first entries that name the carrier, head first, up to the allowance;
the carrier leaves their sets, an entry whose set is empty goes, and every other entry and set stays in its place, each
entry with its body and urgent flag; behind the last entry scanned the queue is as it was (R124, R129). -/
def Obligations.SubscriberTake : Prop :=
  ∀ (c : CarrierNo) (p : PortNo) (s : State), (∀ e ∈ (s.port p).queue, e.remaining ≠ 0) →
    let allowance := (s.carrier c).allowances[p.val]
    let names := fun (d : CarrierNo) (e : SubscriberEntry) => hasItem e.remaining d
    let q := (s.port p).queue
    let t := (s.takeFrom c p).2
    let left := (t.port p).queue
    let unnamed := fun (e : SubscriberEntry) => { e with remaining := dropItem e.remaining c }
    (∃ scanned behind, q = scanned ++ behind
        ∧ (scanned.filter (names c)).length ≤ allowance
        ∧ ((scanned.filter (names c)).length < allowance → ∀ e ∈ behind, names c e = false)
        ∧ (s.takeFrom c p).1 = (scanned.filter (names c)).map (fun e => ⟨p, e.body, e.urgent⟩)
        ∧ left = (scanned.map unnamed).filter (fun e => e.remaining != 0) ++ behind)
      ∧ (s.takeFrom c p).1 = ((q.filter (names c)).take allowance).map (fun e => ⟨p, e.body, e.urgent⟩)
      ∧ left.filter (names c) = (q.filter (names c)).drop allowance
      ∧ (∀ d, d ≠ c → (left.filter (names d)).map unnamed = (q.filter (names d)).map unnamed)
      ∧ (∀ e ∈ left, e.remaining ≠ 0)
      ∧ t = s.setPort p { s.port p with queue := left }

/-! ### Ingest (R19 to R31) -/

/-- The states of an ingest link. A DOWN link with signal is SEARCHING, unless the links are held; a SEARCHING link
without signal is DOWN; loss of signal takes a LOCKED link to DOWN, a missing sync mark and a runaway at the end of a
unit take it to SEARCHING, each with the effects of leaving LOCKED (R19, R20, R21, R27; log entries 2, 16 and 23). A
runaway ends a skip whatever number of bytes is left (log entry 26). -/
def Obligations.LinkStates : Prop :=
  ∀ (l : LinkNo) (s : State),
    let k := s.link l
    exec (.signalDetected l) s = .next
        (s.setLink l
          { k with
            signal := true
            state := if k.state = .down ∧ s.resetLow = false ∧ s.restart = .idle then .searching else k.state })
    ∧ exec (.lossOfSignal l) s = .next
        (if k.state = .locked then s.leftLocked l false .down
         else s.setLink l { k with signal := false, state := .down })
    ∧ exec (.missingSyncMark l) s = .next (if k.state = .locked then s.leftLocked l k.signal .searching else s)
    ∧ (∀ n, k.state = .locked → k.context = .skipping n →
        exec (.runawayUnit l) s = .next (s.leftLocked l k.signal .searching))
    ∧ (∀ u, k.state = .locked → k.context = .receiving u → u.received = u.size →
        exec (.runawayUnit l) s = .next (s.leftLocked l k.signal .searching))
    ∧ (k.state ≠ .locked ∨ k.context = .empty ∨ (∃ u, k.context = .receiving u ∧ u.received ≠ u.size) →
        exec (.runawayUnit l) s = .next s)

/-- A header at a header position of a LOCKED link, and a sync mark on a SEARCHING link, which becomes LOCKED and takes
the header that begins with it (log entry 41). A faulty header is counted and its declared body skipped; a unit that is
not admitted is skipped without a count; an admitted one is received, with complexity 0 read as 1 and no cell claimed
(R19, R22 to R25). Elsewhere neither command has an effect (log entry 2). -/
def Obligations.HeadersTaken : Prop :=
  ∀ (l : LinkNo) (h : UnitHeader) (s : State),
    let k := s.link l
    let after := fun (t : State) (context : Reassembly) => t.setLink l ⟨k.signal, .locked, context⟩
    let atHeader := k.state = .locked ∧ k.context = .empty
    (¬ atHeader → exec (.headerTaken l h) s = .next s)
    ∧ (k.state ≠ .searching → exec (.syncMarkFound l h) s = exec (.headerTaken l h) s)
    ∧ (faultyHeader h →
        (atHeader → exec (.headerTaken l h) s = .next (after (s.headerCounted l) (.skipping h.size.toNat)))
        ∧ (k.state = .searching →
          exec (.syncMarkFound l h) s = .next (after (s.headerCounted l) (.skipping h.size.toNat))))
    ∧ ∀ (slot : Fin 8) (kind : UnitKind) (p : ProgrammeNo),
      h.slotCode.toNat = slotCodes[slot.val] → h.kind.toNat = kind.code → 1 ≤ h.size.toNat →
      h.size.toNat ≤ 1048576 → p.val = l.val * 8 + slot.val →
      let unit : PartialUnit :=
        { programme := p
          kind := kind
          sequence := h.sequence
          size := h.size.toNat
          complexity := if h.complexity = 0 then 1 else h.complexity.toNat
          received := 0
          cells := [] }
      (s.isAdmitted p →
        (atHeader → exec (.headerTaken l h) s = .next (after s (.receiving unit)))
        ∧ (k.state = .searching → exec (.syncMarkFound l h) s = .next (after s (.receiving unit))))
      ∧ (¬ s.isAdmitted p →
        (atHeader → exec (.headerTaken l h) s = .next (after s (.skipping h.size.toNat)))
        ∧ (k.state = .searching → exec (.syncMarkFound l h) s = .next (after s (.skipping h.size.toNat))))

/-- The first byte of a 2,048-byte stretch of a received body claims the cell at the head of the free list, and the
bytes of the stretch are written into it; every other byte of picture memory stays (R25, R32). With no cell free the
unit is discarded, its cells return to the tail, its programme if LIVE is RESYNC, STORE_EXHAUSTED is added and counted,
and the rest of the body is skipped, the link staying LOCKED (R26; log entry 16). At any other moment the command has no
effect (log entries 2 and 27). -/
def Obligations.CellClaim : Prop :=
  ∀ (l : LinkNo) (stretch : List Byte) (s : State),
    let k := s.link l
    ((∀ u, k.context = .receiving u →
        k.state ≠ .locked ∨ u.size ≤ u.received ∨ u.received % 2048 ≠ 0 ∨ stretch = []) →
      exec (.cellClaim l stretch) s = .next s)
    ∧ ∀ u, k.state = .locked → k.context = .receiving u → u.received < u.size → u.received % 2048 = 0 →
      stretch ≠ [] →
      (∀ c rest, s.freeCells = c :: rest →
        let bytes := stretch.take (min 2048 (u.size - u.received))
        ∃ t : State, exec (.cellClaim l stretch) s = .next t
          ∧ t =
            { s.setLink l
                { k with
                  context :=
                    .receiving { u with received := u.received + bytes.length, cells := u.cells ++ [c] } } with
              freeCells := rest
              memory := t.memory }
          ∧ (s.memory.wf = true → ∀ i, (h : i < bytes.length) → t.memory.read (c.val * 2048 + i) = bytes[i])
          ∧ (∀ a, a < c.val * 2048 ∨ c.val * 2048 + bytes.length ≤ a → t.memory.read a = s.memory.read a))
      ∧ (s.freeCells = [] →
        exec (.cellClaim l stretch) s = .next
          { s.setLink l { k with context := .skipping (u.size - u.received) } with
            freeCells := u.cells
            programmes :=
              if (s.programme u.programme).state = .live then
                s.programmes.set u.programme.val { s.programme u.programme with state := .resync }
              else s.programmes
            manager :=
              { s.manager with
                state := .exception
                condition :=
                  { s.manager.condition with
                    storeExhausted := true
                    storeExhaustions := min (s.manager.condition.storeExhaustions + 1) 65535 } } })

/-- A unit's completion empties the context. A skipped unit leaves nothing, whatever number of bytes is left (log entry
26); a unit whose programme is no longer admitted is discarded, its cells returned (R28). Otherwise a valid expected
sequence that differs makes the programme RESYNC and the next sequence is expected (R29); the unit joins the tail of its
queue, a full queue losing its oldest bridge, or, with no bridge, the unit is discarded and the programme is RESYNC
(R30, R31). Elsewhere nothing happens (log entry 2). -/
def Obligations.UnitCompletion : Prop :=
  ∀ (l : LinkNo) (s : State),
    let k := s.link l
    let done := s.setLink l { k with context := .empty }
    (k.state ≠ .locked ∨ k.context = .empty ∨ (∃ u, k.context = .receiving u ∧ u.received ≠ u.size) →
      exec (.unitCompletion l) s = .next s)
    ∧ (∀ n, k.state = .locked → k.context = .skipping n → exec (.unitCompletion l) s = .next done)
    ∧ ∀ u, k.state = .locked → k.context = .receiving u → u.received = u.size →
      (¬ s.isAdmitted u.programme →
        exec (.unitCompletion l) s = .next { done with freeCells := s.freeCells ++ u.cells })
      ∧ (s.isAdmitted u.programme →
        let p := s.programme u.programme
        let unit : UnitRecord := ⟨u.programme, u.kind, u.size, u.complexity, u.cells⟩
        let checked :=
          { p with
            expected := some (u.sequence + 1)
            state := if p.expected ≠ none ∧ p.expected ≠ some u.sequence then .resync else p.state }
        (p.queue.length < 8 →
          exec (.unitCompletion l) s = .next
            (done.setProgramme u.programme { checked with queue := p.queue ++ [unit] }))
        ∧ (∀ before b after, 8 ≤ p.queue.length → p.queue = before ++ b :: after → b.kind = .bridge →
            (∀ x ∈ before, x.kind ≠ .bridge) →
            exec (.unitCompletion l) s = .next
              { done.setProgramme u.programme { checked with queue := before ++ after ++ [unit] } with
                freeCells := s.freeCells ++ b.cells })
        ∧ (8 ≤ p.queue.length → (∀ x ∈ p.queue, x.kind ≠ .bridge) →
            exec (.unitCompletion l) s = .next
              { done.setProgramme u.programme { checked with state := .resync } with
                freeCells := s.freeCells ++ u.cells }))

/-! ### Intervals (R7, R37 to R59, R62 to R75, R133 to R142) -/

/-- A boundary, taken when it is due; one that is not due has no effect (log entry 2). An ARMED carrier is ON_AIR in
interval 1, begins its first interval of S_min slices, gains every group a LIVE or RESYNC programme brings it, an entry
for each stored packet, due at the boundary (R115), and runs its allocation event; an ON_AIR carrier begins the list
built before, under the next interval number, and runs an allocation event (R37); a DRAINING carrier begins its last
list with the final flag, runs none, and at the boundary after it is OFF with the effects of R9, its cells returned in
the order of log entry 17. The next boundary comes T later (R5, R7, R62). Shrinks and slices outstanding at a boundary
are finished first, one after another as by SHRINK_COMPLETION and by SLICE_EMISSION with the line making room, until no
entry is SHRINKING and no slice is left: their cells return, their filler is counted (R63, R64, R133; log entries 10 and
11). The list that ends takes its copies with it (R140). -/
def Obligations.Boundary : Prop :=
  ∀ (c : CarrierNo) (s : State),
    let k := s.carrier c
    ((∀ b, k.nextBoundary = some b → s.time < b) → exec (.boundary c) s = .next s)
    ∧ (let finished := s.finishShrinks c
      (∀ list, (finished.carrier c).building = some list → ∀ e ∈ list.entries, e.state = .ready)
      ∧ (k.building = none → finished = s)
      ∧ ∀ list, k.building = some list →
        ((∀ e ∈ list.entries, e.state = .ready) → finished = s)
        ∧ ∀ b d, (∃ e ∈ list.entries, e.state = .shrinking) → k.nextBoundary = some b → b ≤ s.time →
          k.definition = some d → 0 < d.interval →
          ∃ u : State, exec (.shrinkCompletion c) s = .next u ∧ finished = u.finishShrinks c)
    ∧ (let placed := s.endInterval c
      let room :=
        if k.buffer.length < 2 then s else s.setCarrier c { k with buffer := k.buffer.drop 1, bitsSent := 0 }
      (placed.carrier c).emitting = none ∧ (placed.carrier c).emitted = []
      ∧ (k.emitting = none ∨ k.emitting = some [] →
          placed = s.setCarrier c { k with emitting := none, emitted := [] })
      ∧ (∀ item rest, k.emitting = some (item :: rest) → k.buffer.length ≤ 2 →
          ∃ u : State, exec (.sliceEmission c) room = .next u ∧ placed = u.endInterval c)
      ∧ ∀ items, k.emitting = some items →
        let fillers := (items.map (fun i => match i with | .filler n => max n 1 | _ => 0)).sum
        placed.freeCells = s.freeCells ++ items.flatMap Item.cells
          ∧ (placed.carrier c).counters =
            (if fillers = 0 then k.counters
             else { k.counters with filler := min (k.counters.filler + fillers) 4294967295 }))
    ∧ ∀ b d, k.nextBoundary = some b → b ≤ s.time → k.definition = some d →
      let ended := (s.finishShrinks c).endInterval c
      let begun := ended.setCarrier c { ended.carrier c with interval := k.interval + 1 }
      let advanced := fun (t : State) => t.setCarrier c { t.carrier c with nextBoundary := some (b + d.interval) }
      (k.state = .armed →
        let first : DirectoryBody :=
          ⟨s.stationNumber, c, 1, false, (s.naming c).map (fun p =>
            ⟨p, (s.programme p).definition.bind (·.group), false, false, false⟩)⟩
        let items : List Item :=
          .directory first :: (if d.guaranteed - 1 = 0 then [] else [.filler (d.guaranteed - 1)])
        let gained := (s.setCarrier c { k with state := .onAir, interval := 1, emitting := some items }).gainGroups c b
        let stored := fun (g : GroupNo) (ph : Phase) (m : PortNo) =>
          ((s.group g).slot ph).bind (fun x => x.packets[m.val])
        let gains := fun (g : GroupNo) => ∃ p ∈ s.servedBy c, (s.programme p).definition.bind (·.group) = some g
        ∃ t : State, exec (.boundary c) s = .next t
          ∧ (t.carrier c).state = .onAir ∧ (t.carrier c).interval = 1
          ∧ (t.carrier c).nextBoundary = some (b + d.interval) ∧ (t.carrier c).building ≠ none
          ∧ (t.carrier c).emitting = some items
          ∧ (∀ e, e ≠ c → t.carrier e = s.carrier e)
          ∧ t = advanced (gained.recomputeAll.allocate c b)
          ∧ (∀ e, e ∈ (gained.carrier c).carousel ↔
              (∃ g ph m x, gains g ∧ stored g ph m = some x ∧ e = ⟨g, ph, m, (x.body.length + 247) / 248, b⟩)
                ∨ (e ∈ k.carousel ∧ ¬ (gains e.group ∧ stored e.group e.phase e.member ≠ none)))
          ∧ ∀ g, gained.recomputeAll.group g =
              { s.group g with startTime := gained.recomputeAll.startTimeFrom s g })
      ∧ (k.state = .onAir →
        ∃ t : State, exec (.boundary c) s = .next t
          ∧ (t.carrier c).state = .onAir ∧ (t.carrier c).interval = k.interval + 1
          ∧ (t.carrier c).nextBoundary = some (b + d.interval) ∧ (t.carrier c).building ≠ none
          ∧ (∀ list, (ended.carrier c).building = some list →
              (t.carrier c).emitting = some (begun.itemsOf c list false))
          ∧ (t.carrier c).emitted = []
          ∧ (∀ e, e ≠ c → t.carrier e = s.carrier e)
          ∧ t = advanced ((begun.beginInterval c false).allocate c b))
      ∧ (k.state = .draining → ∀ list, k.building = some list →
        ∃ t : State, exec (.boundary c) s = .next t
          ∧ (t.carrier c).state = .draining ∧ (t.carrier c).interval = k.interval + 1
          ∧ (t.carrier c).nextBoundary = some (b + d.interval) ∧ (t.carrier c).building = none
          ∧ (∀ list, (ended.carrier c).building = some list →
              (t.carrier c).emitting = some (begun.itemsOf c list true))
          ∧ (t.carrier c).emitted = []
          ∧ (t.carrier c).fraction = k.fraction ∧ (t.carrier c).rotate = k.rotate
          ∧ (t.carrier c).degraded = k.degraded ∧ (t.carrier c).carousel = k.carousel
          ∧ (∀ q, (t.port q).queue = (s.port q).queue) ∧ (∀ e, e ≠ c → t.carrier e = s.carrier e)
          ∧ t = advanced (begun.beginInterval c true))
      ∧ (k.state = .draining → k.building = none →
        ∃ t : State, exec (.boundary c) s = .next t ∧ (s.endInterval c).WentOff t c
          ∧ (t.carrier c).emitting = none ∧ (t.carrier c).emitted = [])

/-- What a boundary begins to emit: the directory slice, the access packets, the subscriber packets, the programme
entries in list order under the phase and key of their recorded group's ACTIVE slot, none for a clear one, g filler
slices in the place of an entry whose group has no ACTIVE slot, and the filler (R73, R134, R135). The repeat flag is set
for the programmes of the withdrawn entries, and the slices number those of the list. The cells of the withdrawn entries
return to the tail of the free list, entry by entry in list order (log entry 25), and nothing else changes. -/
def Obligations.EmissionOrder : Prop :=
  ∀ (c : CarrierNo) (list : EmissionList) (final : Bool) (s : State),
    let capture := fun (e : ProgrammeEntry) => e.group.map (fun g => (s.group g).active.bind (fun ph =>
      ((s.group g).slot ph).map (fun k => (ph, k.key))))
    ∃ directory, s.itemsOf c list final =
        [.directory ⟨s.stationNumber, c, (s.carrier c).interval, final, directory⟩]
          ++ list.access.map (fun a => .access a 1) ++ list.subscribers.map .subscriber
          ++ list.entries.flatMap (fun e =>
              match capture e with
              | none => [.programme e none 0]
              | some (some key) => [.programme e (some key) 0]
              | some none => if e.grant = 0 then [] else [.filler e.grant])
          ++ (if list.filler = 0 then [] else [.filler list.filler])
      ∧ directory = list.directory.map (fun x =>
          { x with
            repeated :=
              x.repeated
                || list.entries.any (fun e => e.unit.programme == x.programme && capture e == some none) })
      ∧ itemsLeft (s.itemsOf c list final) = list.slices
      ∧ ((s.carrier c).building = some list →
          s.beginInterval c final =
            { s.setCarrier c { s.carrier c with building := none, emitting := some (s.itemsOf c list final) } with
              freeCells :=
                s.freeCells ++ list.entries.flatMap (fun e => if capture e = some none then e.unit.cells else []) })

/-- The carousel take of an allocation event: the entries due by the boundary, earliest first, then by group, ACTIVE
phase and member, as far as their slices stay within the reserve; the first that does not fit ends it (R118). A taken
entry is copied, stays in the list due again one repeat period past the boundary, and its packet has the carrier in its
aired set; other entries and packets stay as they are (R119). A report that makes slot A of a STARTING group AIRED sets
its start time, to the first whole second at or after it (R84, R90). -/
def Obligations.CarouselTake : Prop :=
  ∀ (c : CarrierNo) (b : Time) (s : State),
    let reserve := (s.carrier c).spec.reserve
    let taken := s.carouselTake c reserve b
    let copies := (s.accessTake c b).1
    let t := (s.accessTake c b).2
    let isTaken := fun (g : GroupNo) (ph : Phase) (m : PortNo) =>
      taken.any (fun e => e.group == g && e.phase == ph && e.member == m)
    let before := fun (x y : CarouselEntry) =>
      x.due < y.due ∨ (x.due = y.due ∧ (x.group < y.group ∨ (x.group = y.group ∧
        ((x.phase = y.phase ∧ x.member ≤ y.member)
          ∨ (x.phase ≠ y.phase ∧ (s.group x.group).active ≠ some y.phase)))))
    (∃ rest, (taken ++ rest).Perm ((s.carrier c).carousel.filter (fun e => decide (e.due ≤ b)))
      ∧ (taken ++ rest).Pairwise before
      ∧ (taken.map (·.slices)).sum ≤ reserve
      ∧ (∀ e, rest.head? = some e → reserve < (taken.map (·.slices)).sum + e.slices))
    ∧ copies.map (fun x => (x.group, x.phase, x.member, x.slices))
        = taken.map (fun e => (e.group, e.phase, e.member, e.slices))
    ∧ (∀ x ∈ copies, ∀ k pk, (s.group x.group).slot x.phase = some k → k.packets[x.member.val] = some pk →
        x.serial = k.serial ∧ x.body = pk.body)
    ∧ (t.carrier c).carousel = (s.carrier c).carousel.map (fun e =>
        if isTaken e.group e.phase e.member then
          { e with due := b + ((s.group e.group).definition.map (·.repeatMs)).getD 0 * 1000 }
        else e)
    ∧ (∀ (g : GroupNo) (ph : Phase) (k : KeySlot), (s.group g).slot ph = some k →
        (t.group g).slot ph = some
          { k with
            packets := Vector.ofFn (fun m : PortNo =>
              k.packets[m.val].map (fun x =>
                if isTaken g ph m then { x with aired := addItem x.aired c } else x)) })
    ∧ (∀ g, t.group g =
        { s.group g with
          slotA := (t.group g).slotA
          slotB := (t.group g).slotB
          startTime := (t.group g).startTime })
    ∧ (∀ g, s.startFits g → (t.group g).startTime = t.startTimeFrom s g)
    ∧ (∀ (g : GroupNo) (ph : Phase), (s.group g).slot ph = none → (t.group g).slot ph = none)
    ∧ t.carrier c = { s.carrier c with carousel := (t.carrier c).carousel }
    ∧ (∀ d, d ≠ c → t.carrier d = s.carrier d)
    ∧ t = { s with carriers := t.carriers, groups := t.groups }

/-- Blanking and the resync walk of an allocation event, for a programme of the carrier that is LIVE or RESYNC. A
programme whose group is STARTING, PLANNING, or FROZEN under BLANK loses its queue, is RESYNC with held count 0, and has
its blanked flag set (R43). A RESYNC programme that is not blanked loses the units ahead of its first anchor, is LIVE
when an anchor heads its queue, and has its repeat flag set if a unit was discarded (R44). The cells return to the tail
of the free list in order, and the carrier counts each unit; every other programme of the part stays as it is. -/
def Obligations.BlankingAndWalk : Prop :=
  ∀ (c : CarrierNo) (p : ProgrammeNo) (v : Event),
    let s := v.state
    let k := s.programme p
    let flagged := fun (f : DirectoryEntry → DirectoryEntry) =>
      v.directory.map (fun e => if e.programme = p then f e else e)
    let counted := fun (n : Nat) (t : State) =>
      t.setCarrier c
        { s.carrier c with
          counters :=
            { (s.carrier c).counters with
              resyncDiscarded := min ((s.carrier c).counters.resyncDiscarded + n) 4294967295 } }
    let blanks := ∃ g, k.definition.bind (·.group) = some g ∧
      ((s.group g).state = .starting ∨ (s.group g).state = .planning
        ∨ ((s.group g).state = .frozen ∧ (s.group g).definition.map (·.policy) = some .blank))
    (p ∉ s.servedBy c → Event.stage3 c v p = v)
    ∧ (p ∈ s.servedBy c → blanks →
        Event.stage3 c v p =
          { v with
            state :=
              { counted k.queue.length
                  (s.setProgramme p { k with queue := [], state := .resync, held := 0 }) with
                freeCells := s.freeCells ++ k.queue.flatMap (·.cells) }
            directory := flagged (fun e => { e with blanked := true }) })
    ∧ (p ∈ s.servedBy c → ¬ blanks → k.state = .live ∨ k.queue = [] → Event.stage3 c v p = v)
    ∧ ∀ gone left, p ∈ s.servedBy c → ¬ blanks → k.state = .resync → k.queue ≠ [] → k.queue = gone ++ left →
        (∀ u ∈ gone, u.kind ≠ .anchor) → (∀ u, left.head? = some u → u.kind = .anchor) →
        Event.stage3 c v p =
          { v with
            state :=
              { counted gone.length
                  (s.setProgramme p { k with queue := left, state := if left = [] then .resync else .live }) with
                freeCells := s.freeCells ++ gone.flatMap (·.cells) }
            directory := if gone = [] then v.directory else flagged (fun e => { e with repeated := true }) }

/-- The demotions of the minimum pass. They are a first part of the demotable candidates, ordered bridges, forwards,
anchors, then by lowest weight, then by higher programme number; none while the minimum grants are within the pool, and
no more than it takes (R47). A demoted bridge or forward is dropped, a forward's programme becoming RESYNC; an anchor is
held twice and then discarded, its programme RESYNC; each sets its directory flag and its counter (R48, R49, R50). The
candidates are the head units of the carrier's LIVE programmes, ascending (R45, R46); the survivors are the candidates
not demoted, and a survivor whose head unit is an anchor has held count 0 (R51). -/
def Obligations.Demotions : Prop :=
  (∀ (c : CarrierNo) (s : State),
    (s.candidatesOf c).Pairwise (fun x y => x.programme < y.programme)
    ∧ ∀ x, x ∈ s.candidatesOf c ↔ ∃ (p : ProgrammeNo) (d : ProgrammeDef) (u : UnitRecord) (rest : List UnitRecord),
        (s.programme p).state = .live ∧ (s.programme p).definition = some d ∧ d.carrier = c
          ∧ (s.programme p).queue = u :: rest
          ∧ (let demand := (u.size + 247) / 248
             let need := (demand + 3) / 4
             x =
              { programme := p
                kind := u.kind
                weight := d.weight
                floor := d.floor
                demand := demand
                need := need
                product := d.weight * u.complexity
                cap := min demand (max d.cap need)
                grant := min demand (max d.floor need) }))
  ∧ (∀ (c : CarrierNo) (pool : Nat) (v : Event),
    let walked := (List.finRange 48).foldl (Event.stage3 c) v
    let gone := demotions pool (walked.state.candidatesOf c)
    let demoted := gone.foldl (Event.demote c) walked
    let after := v.select c pool
    after.2 = (walked.state.candidatesOf c).filter (fun x => decide (∀ y ∈ gone, y.programme ≠ x.programme))
      ∧ (∀ p, after.1.state.programme p =
          if ∃ x ∈ after.2, x.programme = p ∧ x.kind = .anchor then { demoted.state.programme p with held := 0 }
          else demoted.state.programme p)
      ∧ after.1 = { demoted with state := { demoted.state with programmes := after.1.state.programmes } })
  ∧ (∀ (pool : Nat) (cs : List Candidate),
    let gone := demotions pool cs
    let place := fun (k : UnitKind) => (match k with | .bridge => 1 | .forward => 2 | .anchor => 3 : Nat)
    (∃ spared, (gone ++ spared).Perm (cs.filter (fun x => decide (x.floor < x.need)))
      ∧ (gone ++ spared).Pairwise (fun x y =>
          place x.kind < place y.kind ∨ (x.kind = y.kind ∧
            (x.weight < y.weight ∨ (x.weight = y.weight ∧ y.programme ≤ x.programme))))
      ∧ (spared ≠ [] → (cs.map (·.grant)).sum ≤ pool + (gone.map (·.grant)).sum))
    ∧ ((cs.map (·.grant)).sum ≤ pool → gone = [])
    ∧ ∀ first last, gone = first ++ [last] → pool + (first.map (·.grant)).sum < (cs.map (·.grant)).sum)
  ∧ ∀ (c : CarrierNo) (v : Event) (x : Candidate) (u : UnitRecord) (queue : List UnitRecord),
    let s := v.state
    let k := s.programme x.programme
    let flagged := fun (f : DirectoryEntry → DirectoryEntry) =>
      v.directory.map (fun e => if e.programme = x.programme then f e else e)
    let counted := fun (f : Counters → Counters) (t : State) =>
      t.setCarrier c { s.carrier c with counters := f (s.carrier c).counters }
    k.queue = u :: queue →
    (x.kind = .bridge → Event.demote c v x =
      { v with
        state :=
          { counted (fun n => { n with bridgesDropped := min (n.bridgesDropped + 1) 4294967295 })
              (s.setProgramme x.programme { k with queue := queue }) with
            freeCells := s.freeCells ++ u.cells }
        directory := flagged (fun e => { e with repeated := true }) })
    ∧ (x.kind = .forward → Event.demote c v x =
      { v with
        state :=
          { counted (fun n => { n with forwardsDropped := min (n.forwardsDropped + 1) 4294967295 })
              (s.setProgramme x.programme { k with queue := queue, state := .resync }) with
            freeCells := s.freeCells ++ u.cells }
        directory := flagged (fun e => { e with repeated := true }) })
    ∧ (x.kind = .anchor → k.held < 2 → Event.demote c v x =
      { state :=
          counted (fun n => { n with anchorsHeld := min (n.anchorsHeld + 1) 4294967295 })
            (s.setProgramme x.programme { k with held := k.held + 1 })
        directory := flagged (fun e => { e with held := true })
        degraded := true })
    ∧ (x.kind = .anchor → 2 ≤ k.held → Event.demote c v x =
      { state :=
          { counted (fun n => { n with anchorsDiscarded := min (n.anchorsDiscarded + 1) 4294967295 })
              (s.setProgramme x.programme { k with queue := queue, state := .resync, held := 0 }) with
            freeCells := s.freeCells ++ u.cells }
        directory := flagged (fun e => { e with repeated := true })
        degraded := true })

/-- Every allocation event fills its interval exactly: the directory slice, the carousel take, the subscriber take, the
grants and the filler of the list sum to the budget S = (F + Q × T) / 2,048,000,000 rounded down, which is S_min or
S_min + 1, and the remainder is the new F (R38, R42, R58). Its stages follow one another: the takes of the carousel and
of ports 0 to 3 (R40, R41), the choice of the survivors of the pool they leave (R43 to R51), the share rounds and the
remainder pass over what the survivors' minimum grants leave of it (R52 to R56). The list holds the survivors' head
units, which leave their queues, and the filler (R57). The carrier takes the rotate pointer (R55) and the degraded flag,
yes exactly where an anchor was held or discarded, and then CARRIER_ALERT is set (R59). -/
def Obligations.IntervalsAreFilled : Prop :=
  ∀ (c : CarrierNo) (b : Time) (d : CarrierDef) (s : State), s.recordsFit → (s.carrier c).definition = some d →
    let k := s.carrier c
    let total := k.fraction + d.rate * d.interval
    let t := s.allocate c b
    let access := s.accessTake c b
    let port0 := access.2.takeFrom c 0
    let port1 := port0.2.takeFrom c 1
    let port2 := port1.2.takeFrom c 2
    let port3 := port2.2.takeFrom c 3
    let subscribers := port0.1 ++ port1.1 ++ port2.1 ++ port3.1
    let directory := (s.naming c).map (fun p =>
      (⟨p, (s.programme p).definition.bind (·.group), false, false, false⟩ : DirectoryEntry))
    let pool := total / 2048000000 - 1 - accessSlices access.1 - subscribers.length
    let chosen := Event.select ⟨port3.2, directory, false⟩ c pool
    let v := chosen.1
    let shared := shareRounds 4 (pool - (chosen.2.map (·.grant)).sum) chosen.2
    let given := remainderPass shared.1 k.rotate shared.2
    ∃ list, (t.carrier c).building = some list
      ∧ list.slices = total / 2048000000
      ∧ (list.slices = d.guaranteed ∨ list.slices = d.guaranteed + 1)
      ∧ (t.carrier c).fraction = total % 2048000000
      ∧ accessSlices list.access ≤ d.reserve
      ∧ list.subscribers.length ≤ k.allowances.toList.sum
      ∧ list.directory = v.directory ∧ list.access = access.1 ∧ list.subscribers = subscribers
      ∧ list.filler = given.1
      ∧ list.entries.map (fun e => (some e.unit, e.group, e.grant)) =
          given.2.2.map (fun x =>
            ((v.state.programme x.programme).queue.head?, (v.state.programme x.programme).definition.bind (·.group),
              x.grant))
      ∧ (t.carrier c).rotate = given.2.1
      ∧ (t.carrier c).degraded = v.degraded
      ∧ (v.degraded = true ↔
          ∃ x ∈ demotions pool
              (((List.finRange 48).foldl (Event.stage3 c) ⟨port3.2, directory, false⟩).state.candidatesOf c),
            x.kind = .anchor)
      ∧ t.manager =
          (if v.degraded then
            { s.manager with carrierAlert := s.manager.carrierAlert.set c.val true }
          else s.manager)
      ∧ (∀ p, t.programme p =
          if ∃ x ∈ chosen.2, x.programme = p then
            { v.state.programme p with queue := (v.state.programme p).queue.tail }
          else v.state.programme p)
      ∧ t.carrier c =
          { v.state.carrier c with
            fraction := (t.carrier c).fraction
            rotate := given.2.1
            degraded := v.degraded
            building := some list }
      ∧ t =
          { v.state with programmes := t.programmes, carriers := v.state.carriers.set c.val (t.carrier c), manager := t.manager }

/-- The entries of a list that an allocation event builds: one at most for a programme, in ascending programme number;
with d = size / 248 and n = d / 4, each rounded up, the grant g lies in n to d and within the cap raised to n, and the
shrink step is 16 × d / g rounded up, 16 to 64; a unit is READY exactly at step 16 (R45, R46, R57, R63). In a share
round each member of the open set takes its share R × w × x / W rounded down, at most the room below its cap, all from
the same R and W; the rounds end with R or the open set empty, after the last, or after one in which no member reached
its cap (R52, R53). The remainder goes one slice at a time to the first member of the open set at or after the pointer,
from 47 round to 0, the pointer then standing behind it; with no slice given the pointer stays (R54, R55, R56). -/
def Obligations.GrantsOfAList : Prop :=
  (∀ (n pool : Nat) (cs : List Candidate),
    let weight := ((cs.filter (fun x => decide (x.grant < x.cap))).map (·.product)).sum
    let take := fun (x : Candidate) =>
      if x.grant < x.cap then min (pool * x.product / weight) (x.cap - x.grant) else 0
    let after := cs.map (fun x => { x with grant := x.grant + take x })
    let left := pool - (cs.map take).sum
    (cs.map take).sum ≤ pool
      ∧ shareRounds 0 pool cs = (pool, cs)
      ∧ shareRounds (n + 1) pool cs =
          if pool = 0 ∨ ∀ x ∈ cs, x.cap ≤ x.grant then (pool, cs)
          else if ∃ x ∈ cs, x.grant < x.cap ∧ x.grant + take x = x.cap then shareRounds n left after
          else (left, after))
  ∧ (∀ (n : Nat) (pos : ProgrammeNo) (cs : List Candidate), cs.Pairwise (fun x y => x.programme < y.programme) →
    let distance := fun (x : Candidate) => (x.programme.val + 48 - pos.val) % 48
    remainderPass 0 pos cs = (0, pos, cs)
      ∧ ((∀ x ∈ cs, x.cap ≤ x.grant) → remainderPass n pos cs = (n, pos, cs))
      ∧ ∀ x ∈ cs, x.grant < x.cap → (∀ y ∈ cs, y.grant < y.cap → distance x ≤ distance y) →
          remainderPass (n + 1) pos cs =
            remainderPass n (if x.programme.val = 47 then 0 else x.programme + 1)
              (cs.map (fun y => if y.programme = x.programme then { y with grant := y.grant + 1 } else y)))
  ∧ ∀ (c : CarrierNo) (b : Time) (s : State), s.recordsFit → s.queuesFit → s.sizesFit →
    ∀ list, ((s.allocate c b).carrier c).building = some list →
      list.entries.Pairwise (fun x y => x.unit.programme < y.unit.programme)
      ∧ ∀ e ∈ list.entries,
        let d := (e.unit.size + 247) / 248
        let n := (d + 3) / 4
        n ≤ e.grant ∧ e.grant ≤ d
          ∧ (∃ k, (s.programme e.unit.programme).definition = some k ∧ k.carrier = c ∧ e.group = k.group
              ∧ e.grant ≤ max k.cap n ∧ min d k.floor ≤ e.grant)
          ∧ e.step = (16 * d + e.grant - 1) / e.grant ∧ 16 ≤ e.step ∧ e.step ≤ 64
          ∧ (e.state = .ready ↔ e.step = 16)

/-- A shrink completion, later than the event that made its list: the first SHRINKING entry is READY with its kept
cells, which hold the reduced body; its other cells return to the tail of the free list in body order; the carrier
counts a unit shrunk; no other byte of picture memory changes (R62 to R66). The reduced body is g × 248 bytes, a picture
and then pad bytes. With no SHRINKING entry nothing happens (log entry 2). -/
def Obligations.ShrinkCompletion : Prop :=
  ∀ (c : CarrierNo) (s : State),
    let k := s.carrier c
    (∀ list, k.building = some list → (∀ e ∈ list.entries, e.state = .ready) →
      exec (.shrinkCompletion c) s = .next s)
    ∧ ∀ (b : Time) (d : CarrierDef) (list : EmissionList) (before : List ProgrammeEntry) (e : ProgrammeEntry)
        (after : List ProgrammeEntry),
      k.nextBoundary = some b → k.definition = some d → b < s.time + d.interval → k.building = some list →
      list.entries = before ++ e :: after → (∀ x ∈ before, x.state = .ready) → e.state = .shrinking →
      let n := (e.grant * 248 + 2047) / 2048
      let kept := e.unit.cells.take n
      let body := reducedBody (bodyBytes s.memory e.unit.cells 0 e.unit.size) e.grant
      ∃ t : State, exec (.shrinkCompletion c) s = .next t
        ∧ t.carrier c =
          { k with
            building :=
              some
                { list with
                  entries := before ++ { e with unit := { e.unit with cells := kept }, state := .ready } :: after }
            counters := { k.counters with unitsShrunk := min (k.counters.unitsShrunk + 1) 4294967295 } }
        ∧ t = { s.setCarrier c (t.carrier c) with freeCells := s.freeCells ++ e.unit.cells.drop n, memory := t.memory }
        ∧ (∀ a, (∀ x ∈ kept, a < x.val * 2048 ∨ x.val * 2048 + 2048 ≤ a) → t.memory.read a = s.memory.read a)
        ∧ (s.memory.wf = true → e.unit.cells.Nodup → n ≤ e.unit.cells.length →
            bodyBytes t.memory kept 0 (e.grant * 248) = body)
        ∧ body.length = e.grant * 248
        ∧ ∀ i, i < e.grant * 248 →
          body[i]? = some
            ((Config.requantise (bodyBytes s.memory e.unit.cells 0 e.unit.size) e.grant)[i]?.getD 255)

/-- The emission of the next slice, when the buffer has room: it joins the buffer, and the list goes on behind it. A
programme slice is the entry's next one under its capture (R136, R137, R141), with its programme's continuity count,
which then rises by 1; the first of an entry is its unit start and carries the shrink step; after the g-th the entry's
cells return to the tail of the free list. The copy of a packet stays with the list after its last slice (R140). A
filler slice counts as filler (R133, R138, R142). With a full buffer or nothing to emit nothing happens (log entry
2). -/
def Obligations.SliceEmission : Prop :=
  ∀ (c : CarrierNo) (s : State),
    let k := s.carrier c
    let pushed := fun (t : State) (x : Slice) (rest : List Item) =>
      t.setCarrier c { k with buffer := k.buffer ++ [x], emitting := some rest }
    let last := fun (x : Slice) (rest : List Item) (copy : EmittedCopy) =>
      s.setCarrier c { k with buffer := k.buffer ++ [x], emitting := some rest, emitted := k.emitted ++ [copy] }
    (2 ≤ k.buffer.length ∨ k.emitting = none ∨ k.emitting = some [] → exec (.sliceEmission c) s = .next s)
    ∧ ∀ rest, k.buffer.length < 2 →
      (∀ body, k.emitting = some (.directory body :: rest) →
        exec (.sliceEmission c) s = .next (pushed s (directorySlice body) rest))
      ∧ (∀ a part, k.emitting = some (.access a part :: rest) →
        exec (.sliceEmission c) s = .next
          (if part < a.slices then pushed s (accessSlice a part) (.access a (part + 1) :: rest)
           else last (accessSlice a part) rest (.access a)))
      ∧ (∀ u, k.emitting = some (.subscriber u :: rest) →
        exec (.sliceEmission c) s = .next (last (subscriberSlice u) rest (.subscriber u)))
      ∧ (∀ n, k.emitting = some (.filler n :: rest) →
        exec (.sliceEmission c) s = .next
          (s.setCarrier c
            { k with
              buffer := k.buffer ++ [fillerSlice]
              emitting := some (if 1 < n then .filler (n - 1) :: rest else rest)
              counters := { k.counters with filler := min (k.counters.filler + 1) 4294967295 } }))
      ∧ ∀ e capture sent, k.emitting = some (.programme e capture sent :: rest) →
        let p := s.programme e.unit.programme
        let t := s.setProgramme e.unit.programme { p with continuity := p.continuity + 1 }
        let x := programmeSlice s.memory e capture p.continuity sent
        x.kind = .programme ∧ x.source = e.unit.programme.val ∧ x.phase = capture.map (·.1)
          ∧ x.continuity = p.continuity ∧ (x.unitStart = true ↔ sent = 0)
          ∧ x.step = (if sent = 0 then e.step else 0) ∧ x.payload.length = 248
          ∧ x.fill = min 248 ((if e.step = 16 then e.unit.size else e.grant * 248) - sent * 248)
          ∧ x.group = 0 ∧ x.serial = 0 ∧ x.part = 0 ∧ x.parts = 0
          ∧ exec (.sliceEmission c) s = .next
            (if sent + 1 < e.grant then pushed t x (.programme e capture (sent + 1) :: rest)
             else { pushed t x rest with freeCells := s.freeCells ++ e.unit.cells })

/-- The contents of slices: every payload is 248 bytes and every header 8, its fields where R158 has them. The directory
slice holds the directory body with its check; an access packet's parts, a subscriber's body and a unit's body fill
their payloads in order with pad bytes of 255 behind, under the headers of R137; a filler slice has the FILLER header,
every other field of it 0, and 248 pad bytes (R142); a clear programme's payload is as built, a scrambled one is
combined byte for byte with the keystream of its key, programme and continuity count, and under one key the keystreams
of two programmes or two counts differ (R136, R137, R139, R140, R141, R158, R159; log entry 8). The output line carries
the bits of the slice at the front of the buffer, and is at logic 0 while there is none (R133, R154; each byte most
significant bit first, log entry 39). -/
def Obligations.SlicePayloads : Prop :=
  (∀ x : Slice, x.header.length = 8
    ∧ (x.part < 4 → x.source < 64 → x.parts < 4 → x.step < 256 → x.group < 256 → x.fill < 256 →
        let at_ := fun (i : Nat) => (x.header.getD i 0).toNat
        at_ 0 / 32 = (match x.kind with | .directory => 1 | .access => 2 | .subscriber => 3 | .programme => 4 | .filler => 5)
          ∧ at_ 0 / 8 % 4 = (match x.phase with | none => 0 | some .a => 1 | some .b => 2)
          ∧ at_ 0 / 4 % 2 = (if x.unitStart then 1 else 0) ∧ at_ 0 % 4 = x.part
          ∧ at_ 1 / 4 = x.source ∧ at_ 1 % 4 = x.parts
          ∧ at_ 2 / 16 = x.continuity.toNat ∧ at_ 2 % 16 = 0
          ∧ at_ 3 = x.step ∧ at_ 4 = x.group ∧ at_ 5 * 256 + at_ 6 = x.serial.toNat ∧ at_ 7 = x.fill))
  ∧ (∀ b : DirectoryBody, b.entries.length ≤ 24 →
      let n := b.entries.length
      directorySlice b =
          { kind := .directory, source := b.carrier.val, phase := none, continuity := 0, unitStart := false, step := 0,
            group := 0, serial := 0, part := 0, parts := 0, fill := 248,
            payload := b.bytes ++ List.replicate (248 - b.bytes.length) 255 }
        ∧ (directorySlice b).payload.length = 248 ∧ b.bytes.length = 12 + 3 * n
        ∧ b.bytes[0]? = some (b.station.setWidth 8) ∧ b.bytes[1]? = some (BitVec.ofNat 8 b.carrier.val)
        ∧ beNat ((b.bytes.drop 2).take 4) = b.interval.toNat
        ∧ b.bytes[6]? = some (if b.final then 1 else 0) ∧ b.bytes[7]? = some (BitVec.ofNat 8 n)
        ∧ (∀ i, (h : i < n) →
            let e := b.entries[i]
            b.bytes[8 + 3 * i]? = some (BitVec.ofNat 8 e.programme.val)
              ∧ b.bytes[9 + 3 * i]? = some (match e.group with | some g => BitVec.ofNat 8 g.val | none => 255)
              ∧ ∃ f : Byte, b.bytes[10 + 3 * i]? = some f ∧ f.toNat < 8 ∧ f.getLsbD 0 = e.repeated
                ∧ f.getLsbD 1 = e.held ∧ f.getLsbD 2 = e.blanked)
        ∧ beNat (b.bytes.drop (8 + 3 * n))
            = (~~~ crcRun directoryPoly (BitVec.allOnes 32) (b.bytes.take (8 + 3 * n))).toNat)
  ∧ (∀ (a : AccessCopy) (n i : Nat), 1 ≤ n → i < 248 →
      accessSlice a n =
          { kind := .access, source := a.member.val, phase := some a.phase, continuity := 0, unitStart := decide (n = 1),
            step := 0, group := a.group.val, serial := a.serial, part := n, parts := a.slices,
            fill := min 248 (a.body.length - (n - 1) * 248), payload := (accessSlice a n).payload }
      ∧ (accessSlice a n).payload.length = 248
      ∧ (accessSlice a n).payload[i]? = some ((a.body[(n - 1) * 248 + i]?).getD 255))
  ∧ (∀ (u : SubscriberCopy) (i : Nat), u.body.length ≤ 248 → i < 248 →
      subscriberSlice u =
          { kind := .subscriber, source := u.port.val, phase := none, continuity := 0, unitStart := u.urgent, step := 0,
            group := 0, serial := 0, part := 1, parts := 1, fill := u.body.length, payload := (subscriberSlice u).payload }
      ∧ (subscriberSlice u).payload.length = 248 ∧ (subscriberSlice u).payload[i]? = some ((u.body[i]?).getD 255))
  ∧ fillerSlice =
      { kind := .filler, source := 0, phase := none, continuity := 0, unitStart := false, step := 0, group := 0,
        serial := 0, part := 0, parts := 0, fill := 0, payload := fillerSlice.payload }
  ∧ (∀ i, i < 248 → fillerSlice.payload.length = 248 ∧ fillerSlice.payload[i]? = some 255)
  ∧ (∀ (m : Memory) (e : ProgrammeEntry) (cc : BitVec 4) (n i : Nat), i < 248 →
      let clear := (programmeSlice m e none cc n).payload
      clear[i]? = some (if n * 248 + i < e.bodyLength then bodyByte m e.unit.cells (n * 248 + i) else 255)
      ∧ ∀ ph key, (programmeSlice m e (some (ph, key)) cc n).payload[i]? =
          clear[i]?.map (fun b => b ^^^ Config.keystreamByte key e.unit.programme cc i))
  ∧ (∀ (key : Key) (p q : ProgrammeNo) (cc dd : BitVec 4), p ≠ q ∨ cc ≠ dd →
      ∃ i, i < 248 ∧ Config.keystreamByte key p cc i ≠ Config.keystreamByte key q dd i)
  ∧ ∀ (c : CarrierNo) (s : State),
      (s.resetLow = true ∨ (s.carrier c).buffer = [] → s.outputLevel c = false)
      ∧ ∀ x rest i j b, s.resetLow = false → (s.carrier c).buffer = x :: rest → (s.carrier c).bitsSent = i * 8 + j →
          j < 8 → (x.header ++ x.payload)[i]? = some b → s.outputLevel c = b.getLsbD (7 - j)

/-! ### What every step keeps -/

/-- No step loses, doubles or invents a cell: if every cell is in exactly one of the free list, the contexts, the queues
and the lists, it is so after any step (R32). The picture memory keeps its canonical form, a form of the model's own
(log entry 5). -/
def Obligations.CellsAreKept : Prop :=
  ∀ s t : State, step s = .next t →
    (s.cellsKept → s.contextsFit → t.cellsKept ∧ t.contextsFit) ∧ (s.memory.wf = true → t.memory.wf = true)

/-- Every step keeps the records within what the manager's orders admit: S_min by Q and T, the committed total within
S_min, at most 24 programmes on a carrier, floors within caps, a reserve of 3 under scrambled programmes, carriers in
service defined, F below its divisor (R3 to R5, R11, R14, R38). -/
def Obligations.RecordsAreKept : Prop :=
  ∀ s t : State, s.recordsFit → step s = .next t → t.recordsFit

/-- Every step keeps every group record as the key schedule and the plan resolver promise: the extension count within
its limit and FROZEN exactly at it; every plan's period at least its lead plus 2 s; packets only of JOINING and JOINED
members; a key in use exactly while RUNNING, EXTENDED or FROZEN; a pending key with the next serial that differs from
the key in use; NOT_MEMBER exactly the ports off the roster; a plan agreed from the first agreement on, and one applied
exactly while a key is in use; a STARTING group with a start time exactly while its slot A is AIRED (R76 to R79, R84 to
R86, R92, R102, R105, R109). -/
def Obligations.GroupsAreKept : Prop :=
  ∀ s t : State, step s = .next t →
    ((∀ g, (s.group g).fits) → ∀ g, (t.group g).fits) ∧ ((∀ g, s.startFits g) → ∀ g, t.startFits g)

/-- Every step keeps the lists within their limits: at most 8 units in a programme queue, each its own programme's, of 1
to 1,048,576 bytes; at most 64 entries in a subscriber queue, each still naming a carrier; the attach order list exactly
the attached ports, each once, and they alone with a recorded offer; an empty context on a link that is not LOCKED; at
most two slices in a transmit buffer, one entry of a name in a carousel list, copies emitted only beside an emitting
list; nothing but a refusal waiting on a line (R20, R22, R30, R31, R98, R113, R124, R133, R140, R146). -/
def Obligations.ListsAreKept : Prop :=
  ∀ s t : State, s.listsFit → step s = .next t → t.listsFit

/-- Keys leave the part in the reply to FETCH KEY alone, and only to a port that is JOINING or JOINED in the group: a
line that begins to send a key does so for that order (R83, R87, R111). -/
def Obligations.KeysAreConfined : Prop :=
  ∀ (c : Instr) (s t : State) (q : PortId), exec c s = .next t → (s.line q).waitsRefusal →
    (s.line q).sendsKey = false → (t.line q).sendsKey = true →
    ∃ (p : PortNo) (g : GroupNo), q = .access p
      ∧ (c = .fetchKeyActive ⟨.access p, true⟩ g.val .named ∨ c = .fetchKeyPending ⟨.access p, true⟩ g.val)
      ∧ ((s.group g).roles[p.val] = .joining ∨ (s.group g).roles[p.val] = .joined)

/-- The reset state meets all that every step keeps. -/
def Obligations.ResetMeetsInvariants : Prop :=
  State.reset.cellsKept ∧ State.reset.recordsFit ∧ (∀ g, (State.reset.group g).fits ∧ State.reset.startFits g)
    ∧ State.reset.listsFit ∧ State.reset.memory.wf = true

/-! ### Layouts (R156 to R160) -/

/-- An order frame is read as the command it was written for, whatever bytes follow: for every well-formed command that
an order frame brings, with every operand its fields admit (R145, R156). The hunt for it discards bytes that hold no
start mark, and where there is none no frame is found; a length above 1,024 is a framing failure whose body is not read,
and so is a frame whose check does not match, both carrying the code as received (R145). -/
def Obligations.OrderFramesRoundTrip : Prop :=
  (∀ (i : Instr) (f : Frame) (code : Nat) (body rest : List Byte), i.wf = true →
    orderBody i = some (f, code, body) → f.fits = true →
    decodeFrame f.port (frameBytes code body ++ rest) = some (i, rest)
    ∧ ∀ junk, ¬ [171, 205] <:+: junk → nextFrame f.port (junk ++ frameBytes code body ++ rest) = some (i, rest))
  ∧ ∀ (p : PortId) (junk rest : List Byte), ¬ [171, 205] <:+: junk →
    nextFrame p junk = none
    ∧ (∀ (code : Byte) (len : Nat), 1024 < len → len < 65536 →
        nextFrame p (junk ++ [171, 205, code] ++ beBytes 2 len ++ rest) = some (.framingFailure p code.toNat, rest))
    ∧ ∀ (code : Byte) (body check : List Byte), body.length ≤ 1024 → check.length = 2 →
        beNat check ≠ (frameCheck (code :: (beBytes 2 body.length ++ body))).toNat →
        nextFrame p (junk ++ [171, 205, code] ++ beBytes 2 body.length ++ body ++ check ++ rest)
          = some (.framingFailure p code.toNat, rest)

/-- A unit header is read back from its 14 bytes. A SEARCHING link finds it behind bytes that hold no sync mark, idle
marks among them (log entry 41), and finds nothing where there is none; a LOCKED link finds it behind any run of idle
marks, and a missing sync mark at any other bytes, which are left to be searched again, the model's choice (log entry
43); behind the last byte of a body, a sync or an idle mark completes the unit and anything else is a runaway (R21, R27,
R28, R157). A reply frame is the start mark, the order code as received, the result, 0 for DONE or the refusal code 1 to
15, the length of the body, the body, empty for a refusal, and the check (R156). A key record is 25 bytes, its key the
12 bytes from byte 4 on, most significant first; a directory body received with its check leaves one register value
whatever it held (R159, R160). -/
def Obligations.LayoutsOfRecords : Prop :=
  (∀ h : UnitHeader, (encodeHeader h).length = 14 ∧ decodeHeader (encodeHeader h) = some h)
  ∧ (∀ (l : LinkNo) (h : UnitHeader) (junk rest : List Byte), ¬ [71, 182, 29, 232] <:+: junk →
      searchLink l (junk ++ encodeHeader h ++ rest) = some (.syncMarkFound l h, rest) ∧ searchLink l junk = none)
  ∧ (∀ (l : LinkNo) (h : UnitHeader) (n : Nat) (rest : List Byte),
      let idle := (List.replicate n [71, 182, 29, 0]).flatten
      nextHeader l (idle ++ encodeHeader h ++ rest) = some (.headerTaken l h, rest)
      ∧ ∀ mark : List Byte, mark.length = 4 →
          (bodyEnd l (mark ++ rest) =
            some (if mark = [71, 182, 29, 232] ∨ mark = [71, 182, 29, 0] then .unitCompletion l else .runawayUnit l))
          ∧ (mark ≠ [71, 182, 29, 232] → mark ≠ [71, 182, 29, 0] →
              nextHeader l (idle ++ mark ++ rest) = some (.missingSyncMark l, mark ++ rest)))
  ∧ (∀ r : Reply, r.response.body.length < 65536 →
      let n := r.response.body.length
      let codes : List RefusalCode :=
        [.busy, .check, .unknown, .notPermitted, .range, .state, .overBudget, .exceptionPending, .detached, .stale, .length,
          .queueFull, .noBatch, .batchSpent, .noCarrier]
      r.bytes.length = 8 + n ∧ r.bytes.take 2 = [171, 205] ∧ r.bytes[2]? = some (BitVec.ofNat 8 r.code)
      ∧ (∀ b, r.response = .done b → r.bytes[3]? = some 0 ∧ r.response.body = b.bytes)
      ∧ (∀ c, r.response = .refused c → n = 0
          ∧ ∃ i, codes[i]? = some c ∧ r.bytes[3]? = some (BitVec.ofNat 8 (i + 1)))
      ∧ beNat ((r.bytes.drop 4).take 2) = n ∧ (r.bytes.drop 6).take n = r.response.body
      ∧ beNat (r.bytes.drop (6 + n))
          = (crcRun framePoly (BitVec.allOnes 16) ((r.bytes.drop 2).take (4 + n))).toNat)
  ∧ (∀ r : KeyRecord, r.bytes.length = 25 ∧ r.bytes[0]? = some (BitVec.ofNat 8 r.group.val)
      ∧ r.bytes[1]? = some (match r.phase with | .a => (1 : Byte) | .b => 2)
      ∧ beNat ((r.bytes.drop 2).take 2) = r.serial.toNat ∧ beNat ((r.bytes.drop 4).take 12) = r.key.toNat
      ∧ (r.nextChangeover = none → (r.bytes.drop 16).take 8 = List.replicate 8 255)
      ∧ (∀ t, r.nextChangeover = some t → t < 18446744073709551616 → beNat ((r.bytes.drop 16).take 8) = t)
      ∧ r.bytes[24]? = some r.number)
  ∧ ∃ residue : BitVec 32, ∀ d : DirectoryBody, crcRun directoryPoly (BitVec.allOnes 32) d.bytes = residue
end

