-- ==== Sys2Proof/Laws/Decode.lean ====
section
/-! SUPPORT. What the hunt for a mark gives (R145, R157): the bytes from the first place where the mark begins, and
nothing before it that does. -/

namespace Sys2Proof

/-- The hunt discards bytes at the front and no others. -/
theorem hunt_suffix (mark : List Byte) : ∀ bytes : List Byte, hunt mark bytes <:+ bytes
  | [] => List.suffix_refl _
  | b :: rest => by
      unfold hunt
      split
      · exact List.suffix_refl _
      · exact (hunt_suffix mark rest).trans (List.suffix_cons b rest)

/-- What the hunt leaves begins the mark, or may when more bytes have arrived; or nothing is left. -/
theorem hunt_begins (mark : List Byte) : ∀ bytes : List Byte,
    hunt mark bytes = [] ∨ beginsMark mark (hunt mark bytes) = true
  | [] => .inl rfl
  | b :: rest => by
      unfold hunt
      split
      · next h => exact .inr h
      · exact hunt_begins mark rest

/-- A mark at the front stays where it is. -/
theorem hunt_mark (mark rest : List Byte) : hunt mark (mark ++ rest) = mark ++ rest := by
  cases h : mark ++ rest with
  | nil => rfl
  | cons b bytes =>
      have : beginsMark mark (b :: bytes) = true := by
        rw [← h]; simp [beginsMark]
      simp [hunt, this]

end Sys2Proof
end

