-- ==== Sys2Proof/Laws/State.lean ====
section
/-! SUPPORT. What reading a field of State gives after each update of a table: one lemma per field per update. -/

namespace Sys2Proof.Machine

/-! ### State.setCarrier -/

section
variable (s : State) (c : CarrierNo) (k : Carrier)

@[simp] theorem State.setCarrier_pending : (s.setCarrier c k).pending = s.pending := rfl
@[simp] theorem State.setCarrier_time : (s.setCarrier c k).time = s.time := rfl
@[simp] theorem State.setCarrier_stationNumber : (s.setCarrier c k).stationNumber = s.stationNumber := rfl
@[simp] theorem State.setCarrier_resetLow : (s.setCarrier c k).resetLow = s.resetLow := rfl
@[simp] theorem State.setCarrier_restart : (s.setCarrier c k).restart = s.restart := rfl
@[simp] theorem State.setCarrier_programmes : (s.setCarrier c k).programmes = s.programmes := rfl
@[simp] theorem State.setCarrier_groups : (s.setCarrier c k).groups = s.groups := rfl
@[simp] theorem State.setCarrier_links : (s.setCarrier c k).links = s.links := rfl
@[simp] theorem State.setCarrier_freeCells : (s.setCarrier c k).freeCells = s.freeCells := rfl
@[simp] theorem State.setCarrier_memory : (s.setCarrier c k).memory = s.memory := rfl
@[simp] theorem State.setCarrier_attachOrder : (s.setCarrier c k).attachOrder = s.attachOrder := rfl
@[simp] theorem State.setCarrier_manager : (s.setCarrier c k).manager = s.manager := rfl
@[simp] theorem State.setCarrier_access : (s.setCarrier c k).access = s.access := rfl
@[simp] theorem State.setCarrier_keySeed : (s.setCarrier c k).keySeed = s.keySeed := rfl
@[simp] theorem State.setCarrier_keyIndex : (s.setCarrier c k).keyIndex = s.keyIndex := rfl
@[simp] theorem State.setCarrier_freeIndex : (s.setCarrier c k).freeIndex = s.freeIndex := rfl
@[simp] theorem State.setCarrier_programme (p : ProgrammeNo) : (s.setCarrier c k).programme p = s.programme p := rfl
@[simp] theorem State.setCarrier_group (g : GroupNo) : (s.setCarrier c k).group g = s.group g := rfl
@[simp] theorem State.setCarrier_link (l : LinkNo) : (s.setCarrier c k).link l = s.link l := rfl
@[simp] theorem State.setCarrier_port (q : PortNo) : (s.setCarrier c k).port q = s.port q := rfl
@[simp] theorem State.setCarrier_self : (s.setCarrier c k).carrier c = k := by simp [State.setCarrier, State.carrier]
@[simp] theorem State.setCarrier_ne (c' : CarrierNo) (h : c' ≠ c) : (s.setCarrier c k).carrier c' = s.carrier c' := by
  have h' : c.val ≠ c'.val := fun e => h (Fin.ext e.symm)
  simp [State.setCarrier, State.carrier, h']
@[simp] theorem State.setCarrier_same : s.setCarrier c (s.carrier c) = s := by simp [State.setCarrier, State.carrier]
@[simp] theorem State.setCarrier_twice (k' : Carrier) : (s.setCarrier c k).setCarrier c k' = s.setCarrier c k' := by
  simp [State.setCarrier]

end

/-- What reading a record gives after one has been written. -/
theorem State.setCarrier_carrier (s : State) (c c' : CarrierNo) (k : Carrier) :
    (s.setCarrier c k).carrier c' = if c' = c then k else s.carrier c' := by
  split
  · next h => subst h; simp
  · next h => simp [h]

/-! ### State.setProgramme -/

section
variable (s : State) (p : ProgrammeNo) (k : Programme)

@[simp] theorem State.setProgramme_pending : (s.setProgramme p k).pending = s.pending := rfl
@[simp] theorem State.setProgramme_time : (s.setProgramme p k).time = s.time := rfl
@[simp] theorem State.setProgramme_stationNumber : (s.setProgramme p k).stationNumber = s.stationNumber := rfl
@[simp] theorem State.setProgramme_resetLow : (s.setProgramme p k).resetLow = s.resetLow := rfl
@[simp] theorem State.setProgramme_restart : (s.setProgramme p k).restart = s.restart := rfl
@[simp] theorem State.setProgramme_carriers : (s.setProgramme p k).carriers = s.carriers := rfl
@[simp] theorem State.setProgramme_groups : (s.setProgramme p k).groups = s.groups := rfl
@[simp] theorem State.setProgramme_links : (s.setProgramme p k).links = s.links := rfl
@[simp] theorem State.setProgramme_freeCells : (s.setProgramme p k).freeCells = s.freeCells := rfl
@[simp] theorem State.setProgramme_memory : (s.setProgramme p k).memory = s.memory := rfl
@[simp] theorem State.setProgramme_attachOrder : (s.setProgramme p k).attachOrder = s.attachOrder := rfl
@[simp] theorem State.setProgramme_manager : (s.setProgramme p k).manager = s.manager := rfl
@[simp] theorem State.setProgramme_access : (s.setProgramme p k).access = s.access := rfl
@[simp] theorem State.setProgramme_keySeed : (s.setProgramme p k).keySeed = s.keySeed := rfl
@[simp] theorem State.setProgramme_keyIndex : (s.setProgramme p k).keyIndex = s.keyIndex := rfl
@[simp] theorem State.setProgramme_freeIndex : (s.setProgramme p k).freeIndex = s.freeIndex := rfl
@[simp] theorem State.setProgramme_carrier (c : CarrierNo) : (s.setProgramme p k).carrier c = s.carrier c := rfl
@[simp] theorem State.setProgramme_group (g : GroupNo) : (s.setProgramme p k).group g = s.group g := rfl
@[simp] theorem State.setProgramme_link (l : LinkNo) : (s.setProgramme p k).link l = s.link l := rfl
@[simp] theorem State.setProgramme_port (q : PortNo) : (s.setProgramme p k).port q = s.port q := rfl
@[simp] theorem State.setProgramme_self : (s.setProgramme p k).programme p = k := by simp [State.setProgramme, State.programme]
@[simp] theorem State.setProgramme_ne (p' : ProgrammeNo) (h : p' ≠ p) : (s.setProgramme p k).programme p' = s.programme p' := by
  have h' : p.val ≠ p'.val := fun e => h (Fin.ext e.symm)
  simp [State.setProgramme, State.programme, h']
@[simp] theorem State.setProgramme_same : s.setProgramme p (s.programme p) = s := by simp [State.setProgramme, State.programme]
@[simp] theorem State.setProgramme_twice (k' : Programme) : (s.setProgramme p k).setProgramme p k' = s.setProgramme p k' := by
  simp [State.setProgramme]

end

/-- What reading a record gives after one has been written. -/
theorem State.setProgramme_programme (s : State) (p p' : ProgrammeNo) (k : Programme) :
    (s.setProgramme p k).programme p' = if p' = p then k else s.programme p' := by
  split
  · next h => subst h; simp
  · next h => simp [h]

/-! ### State.setGroup -/

section
variable (s : State) (g : GroupNo) (k : Group)

@[simp] theorem State.setGroup_pending : (s.setGroup g k).pending = s.pending := rfl
@[simp] theorem State.setGroup_time : (s.setGroup g k).time = s.time := rfl
@[simp] theorem State.setGroup_stationNumber : (s.setGroup g k).stationNumber = s.stationNumber := rfl
@[simp] theorem State.setGroup_resetLow : (s.setGroup g k).resetLow = s.resetLow := rfl
@[simp] theorem State.setGroup_restart : (s.setGroup g k).restart = s.restart := rfl
@[simp] theorem State.setGroup_carriers : (s.setGroup g k).carriers = s.carriers := rfl
@[simp] theorem State.setGroup_programmes : (s.setGroup g k).programmes = s.programmes := rfl
@[simp] theorem State.setGroup_links : (s.setGroup g k).links = s.links := rfl
@[simp] theorem State.setGroup_freeCells : (s.setGroup g k).freeCells = s.freeCells := rfl
@[simp] theorem State.setGroup_memory : (s.setGroup g k).memory = s.memory := rfl
@[simp] theorem State.setGroup_attachOrder : (s.setGroup g k).attachOrder = s.attachOrder := rfl
@[simp] theorem State.setGroup_manager : (s.setGroup g k).manager = s.manager := rfl
@[simp] theorem State.setGroup_access : (s.setGroup g k).access = s.access := rfl
@[simp] theorem State.setGroup_keySeed : (s.setGroup g k).keySeed = s.keySeed := rfl
@[simp] theorem State.setGroup_keyIndex : (s.setGroup g k).keyIndex = s.keyIndex := rfl
@[simp] theorem State.setGroup_freeIndex : (s.setGroup g k).freeIndex = s.freeIndex := rfl
@[simp] theorem State.setGroup_carrier (c : CarrierNo) : (s.setGroup g k).carrier c = s.carrier c := rfl
@[simp] theorem State.setGroup_programme (p : ProgrammeNo) : (s.setGroup g k).programme p = s.programme p := rfl
@[simp] theorem State.setGroup_link (l : LinkNo) : (s.setGroup g k).link l = s.link l := rfl
@[simp] theorem State.setGroup_port (q : PortNo) : (s.setGroup g k).port q = s.port q := rfl
@[simp] theorem State.setGroup_self : (s.setGroup g k).group g = k := by simp [State.setGroup, State.group]
@[simp] theorem State.setGroup_ne (g' : GroupNo) (h : g' ≠ g) : (s.setGroup g k).group g' = s.group g' := by
  have h' : g.val ≠ g'.val := fun e => h (Fin.ext e.symm)
  simp [State.setGroup, State.group, h']
@[simp] theorem State.setGroup_same : s.setGroup g (s.group g) = s := by simp [State.setGroup, State.group]
@[simp] theorem State.setGroup_twice (k' : Group) : (s.setGroup g k).setGroup g k' = s.setGroup g k' := by
  simp [State.setGroup]

end

/-- What reading a record gives after one has been written. -/
theorem State.setGroup_group (s : State) (g g' : GroupNo) (k : Group) :
    (s.setGroup g k).group g' = if g' = g then k else s.group g' := by
  split
  · next h => subst h; simp
  · next h => simp [h]

/-! ### State.setLink -/

section
variable (s : State) (l : LinkNo) (k : IngestLink)

@[simp] theorem State.setLink_pending : (s.setLink l k).pending = s.pending := rfl
@[simp] theorem State.setLink_time : (s.setLink l k).time = s.time := rfl
@[simp] theorem State.setLink_stationNumber : (s.setLink l k).stationNumber = s.stationNumber := rfl
@[simp] theorem State.setLink_resetLow : (s.setLink l k).resetLow = s.resetLow := rfl
@[simp] theorem State.setLink_restart : (s.setLink l k).restart = s.restart := rfl
@[simp] theorem State.setLink_carriers : (s.setLink l k).carriers = s.carriers := rfl
@[simp] theorem State.setLink_programmes : (s.setLink l k).programmes = s.programmes := rfl
@[simp] theorem State.setLink_groups : (s.setLink l k).groups = s.groups := rfl
@[simp] theorem State.setLink_freeCells : (s.setLink l k).freeCells = s.freeCells := rfl
@[simp] theorem State.setLink_memory : (s.setLink l k).memory = s.memory := rfl
@[simp] theorem State.setLink_attachOrder : (s.setLink l k).attachOrder = s.attachOrder := rfl
@[simp] theorem State.setLink_manager : (s.setLink l k).manager = s.manager := rfl
@[simp] theorem State.setLink_access : (s.setLink l k).access = s.access := rfl
@[simp] theorem State.setLink_keySeed : (s.setLink l k).keySeed = s.keySeed := rfl
@[simp] theorem State.setLink_keyIndex : (s.setLink l k).keyIndex = s.keyIndex := rfl
@[simp] theorem State.setLink_freeIndex : (s.setLink l k).freeIndex = s.freeIndex := rfl
@[simp] theorem State.setLink_carrier (c : CarrierNo) : (s.setLink l k).carrier c = s.carrier c := rfl
@[simp] theorem State.setLink_programme (p : ProgrammeNo) : (s.setLink l k).programme p = s.programme p := rfl
@[simp] theorem State.setLink_group (g : GroupNo) : (s.setLink l k).group g = s.group g := rfl
@[simp] theorem State.setLink_port (q : PortNo) : (s.setLink l k).port q = s.port q := rfl
@[simp] theorem State.setLink_self : (s.setLink l k).link l = k := by simp [State.setLink, State.link]
@[simp] theorem State.setLink_ne (l' : LinkNo) (h : l' ≠ l) : (s.setLink l k).link l' = s.link l' := by
  have h' : l.val ≠ l'.val := fun e => h (Fin.ext e.symm)
  simp [State.setLink, State.link, h']
@[simp] theorem State.setLink_same : s.setLink l (s.link l) = s := by simp [State.setLink, State.link]
@[simp] theorem State.setLink_twice (k' : IngestLink) : (s.setLink l k).setLink l k' = s.setLink l k' := by
  simp [State.setLink]

end

/-- What reading a record gives after one has been written. -/
theorem State.setLink_link (s : State) (l l' : LinkNo) (k : IngestLink) :
    (s.setLink l k).link l' = if l' = l then k else s.link l' := by
  split
  · next h => subst h; simp
  · next h => simp [h]

/-! ### State.setPort -/

section
variable (s : State) (q : PortNo) (k : AccessPort)

@[simp] theorem State.setPort_pending : (s.setPort q k).pending = s.pending := rfl
@[simp] theorem State.setPort_time : (s.setPort q k).time = s.time := rfl
@[simp] theorem State.setPort_stationNumber : (s.setPort q k).stationNumber = s.stationNumber := rfl
@[simp] theorem State.setPort_resetLow : (s.setPort q k).resetLow = s.resetLow := rfl
@[simp] theorem State.setPort_restart : (s.setPort q k).restart = s.restart := rfl
@[simp] theorem State.setPort_carriers : (s.setPort q k).carriers = s.carriers := rfl
@[simp] theorem State.setPort_programmes : (s.setPort q k).programmes = s.programmes := rfl
@[simp] theorem State.setPort_groups : (s.setPort q k).groups = s.groups := rfl
@[simp] theorem State.setPort_links : (s.setPort q k).links = s.links := rfl
@[simp] theorem State.setPort_freeCells : (s.setPort q k).freeCells = s.freeCells := rfl
@[simp] theorem State.setPort_memory : (s.setPort q k).memory = s.memory := rfl
@[simp] theorem State.setPort_attachOrder : (s.setPort q k).attachOrder = s.attachOrder := rfl
@[simp] theorem State.setPort_manager : (s.setPort q k).manager = s.manager := rfl
@[simp] theorem State.setPort_keySeed : (s.setPort q k).keySeed = s.keySeed := rfl
@[simp] theorem State.setPort_keyIndex : (s.setPort q k).keyIndex = s.keyIndex := rfl
@[simp] theorem State.setPort_freeIndex : (s.setPort q k).freeIndex = s.freeIndex := rfl
@[simp] theorem State.setPort_carrier (c : CarrierNo) : (s.setPort q k).carrier c = s.carrier c := rfl
@[simp] theorem State.setPort_programme (p : ProgrammeNo) : (s.setPort q k).programme p = s.programme p := rfl
@[simp] theorem State.setPort_group (g : GroupNo) : (s.setPort q k).group g = s.group g := rfl
@[simp] theorem State.setPort_link (l : LinkNo) : (s.setPort q k).link l = s.link l := rfl
@[simp] theorem State.setPort_self : (s.setPort q k).port q = k := by simp [State.setPort, State.port]
@[simp] theorem State.setPort_ne (q' : PortNo) (h : q' ≠ q) : (s.setPort q k).port q' = s.port q' := by
  have h' : q.val ≠ q'.val := fun e => h (Fin.ext e.symm)
  simp [State.setPort, State.port, h']
@[simp] theorem State.setPort_same : s.setPort q (s.port q) = s := by simp [State.setPort, State.port]
@[simp] theorem State.setPort_twice (k' : AccessPort) : (s.setPort q k).setPort q k' = s.setPort q k' := by
  simp [State.setPort]

end

/-- What reading a record gives after one has been written. -/
theorem State.setPort_port (s : State) (q q' : PortNo) (k : AccessPort) :
    (s.setPort q k).port q' = if q' = q then k else s.port q' := by
  split
  · next h => subst h; simp
  · next h => simp [h]

/-! ### State.freeUp -/

section
variable (s : State) (cells : List CellNo)

@[simp] theorem State.freeUp_pending : (s.freeUp cells).pending = s.pending := rfl
@[simp] theorem State.freeUp_time : (s.freeUp cells).time = s.time := rfl
@[simp] theorem State.freeUp_stationNumber : (s.freeUp cells).stationNumber = s.stationNumber := rfl
@[simp] theorem State.freeUp_resetLow : (s.freeUp cells).resetLow = s.resetLow := rfl
@[simp] theorem State.freeUp_restart : (s.freeUp cells).restart = s.restart := rfl
@[simp] theorem State.freeUp_carriers : (s.freeUp cells).carriers = s.carriers := rfl
@[simp] theorem State.freeUp_programmes : (s.freeUp cells).programmes = s.programmes := rfl
@[simp] theorem State.freeUp_groups : (s.freeUp cells).groups = s.groups := rfl
@[simp] theorem State.freeUp_links : (s.freeUp cells).links = s.links := rfl
@[simp] theorem State.freeUp_freeCells : (s.freeUp cells).freeCells = s.freeCells ++ cells := rfl
@[simp] theorem State.freeUp_memory : (s.freeUp cells).memory = s.memory := rfl
@[simp] theorem State.freeUp_attachOrder : (s.freeUp cells).attachOrder = s.attachOrder := rfl
@[simp] theorem State.freeUp_manager : (s.freeUp cells).manager = s.manager := rfl
@[simp] theorem State.freeUp_access : (s.freeUp cells).access = s.access := rfl
@[simp] theorem State.freeUp_keySeed : (s.freeUp cells).keySeed = s.keySeed := rfl
@[simp] theorem State.freeUp_keyIndex : (s.freeUp cells).keyIndex = s.keyIndex := rfl
@[simp] theorem State.freeUp_freeIndex : (s.freeUp cells).freeIndex = s.freeIndex := rfl
@[simp] theorem State.freeUp_carrier (c : CarrierNo) : (s.freeUp cells).carrier c = s.carrier c := rfl
@[simp] theorem State.freeUp_programme (p : ProgrammeNo) : (s.freeUp cells).programme p = s.programme p := rfl
@[simp] theorem State.freeUp_group (g : GroupNo) : (s.freeUp cells).group g = s.group g := rfl
@[simp] theorem State.freeUp_link (l : LinkNo) : (s.freeUp cells).link l = s.link l := rfl
@[simp] theorem State.freeUp_port (q : PortNo) : (s.freeUp cells).port q = s.port q := rfl

end

/-! ### State.setLine -/

section
variable (s : State) (q : PortId) (ln : OrderLine)

@[simp] theorem State.setLine_pending : (s.setLine q ln).pending = s.pending := by cases q <;> rfl
@[simp] theorem State.setLine_time : (s.setLine q ln).time = s.time := by cases q <;> rfl
@[simp] theorem State.setLine_stationNumber : (s.setLine q ln).stationNumber = s.stationNumber := by cases q <;> rfl
@[simp] theorem State.setLine_resetLow : (s.setLine q ln).resetLow = s.resetLow := by cases q <;> rfl
@[simp] theorem State.setLine_restart : (s.setLine q ln).restart = s.restart := by cases q <;> rfl
@[simp] theorem State.setLine_carriers : (s.setLine q ln).carriers = s.carriers := by cases q <;> rfl
@[simp] theorem State.setLine_programmes : (s.setLine q ln).programmes = s.programmes := by cases q <;> rfl
@[simp] theorem State.setLine_groups : (s.setLine q ln).groups = s.groups := by cases q <;> rfl
@[simp] theorem State.setLine_links : (s.setLine q ln).links = s.links := by cases q <;> rfl
@[simp] theorem State.setLine_freeCells : (s.setLine q ln).freeCells = s.freeCells := by cases q <;> rfl
@[simp] theorem State.setLine_memory : (s.setLine q ln).memory = s.memory := by cases q <;> rfl
@[simp] theorem State.setLine_attachOrder : (s.setLine q ln).attachOrder = s.attachOrder := by cases q <;> rfl
@[simp] theorem State.setLine_keySeed : (s.setLine q ln).keySeed = s.keySeed := by cases q <;> rfl
@[simp] theorem State.setLine_keyIndex : (s.setLine q ln).keyIndex = s.keyIndex := by cases q <;> rfl
@[simp] theorem State.setLine_freeIndex : (s.setLine q ln).freeIndex = s.freeIndex := by cases q <;> rfl
@[simp] theorem State.setLine_carrier (c : CarrierNo) : (s.setLine q ln).carrier c = s.carrier c := by cases q <;> rfl
@[simp] theorem State.setLine_programme (p : ProgrammeNo) : (s.setLine q ln).programme p = s.programme p := by cases q <;> rfl
@[simp] theorem State.setLine_group (g : GroupNo) : (s.setLine q ln).group g = s.group g := by cases q <;> rfl
@[simp] theorem State.setLine_link (l : LinkNo) : (s.setLine q ln).link l = s.link l := by cases q <;> rfl

end

/-! ### State.countRefusal -/

section
variable (s : State) (q : PortId)

@[simp] theorem State.countRefusal_pending : (s.countRefusal q).pending = s.pending := by cases q <;> rfl
@[simp] theorem State.countRefusal_time : (s.countRefusal q).time = s.time := by cases q <;> rfl
@[simp] theorem State.countRefusal_stationNumber : (s.countRefusal q).stationNumber = s.stationNumber := by cases q <;> rfl
@[simp] theorem State.countRefusal_resetLow : (s.countRefusal q).resetLow = s.resetLow := by cases q <;> rfl
@[simp] theorem State.countRefusal_restart : (s.countRefusal q).restart = s.restart := by cases q <;> rfl
@[simp] theorem State.countRefusal_carriers : (s.countRefusal q).carriers = s.carriers := by cases q <;> rfl
@[simp] theorem State.countRefusal_programmes : (s.countRefusal q).programmes = s.programmes := by cases q <;> rfl
@[simp] theorem State.countRefusal_groups : (s.countRefusal q).groups = s.groups := by cases q <;> rfl
@[simp] theorem State.countRefusal_links : (s.countRefusal q).links = s.links := by cases q <;> rfl
@[simp] theorem State.countRefusal_freeCells : (s.countRefusal q).freeCells = s.freeCells := by cases q <;> rfl
@[simp] theorem State.countRefusal_memory : (s.countRefusal q).memory = s.memory := by cases q <;> rfl
@[simp] theorem State.countRefusal_attachOrder : (s.countRefusal q).attachOrder = s.attachOrder := by cases q <;> rfl
@[simp] theorem State.countRefusal_keySeed : (s.countRefusal q).keySeed = s.keySeed := by cases q <;> rfl
@[simp] theorem State.countRefusal_keyIndex : (s.countRefusal q).keyIndex = s.keyIndex := by cases q <;> rfl
@[simp] theorem State.countRefusal_freeIndex : (s.countRefusal q).freeIndex = s.freeIndex := by cases q <;> rfl
@[simp] theorem State.countRefusal_carrier (c : CarrierNo) : (s.countRefusal q).carrier c = s.carrier c := by cases q <;> rfl
@[simp] theorem State.countRefusal_programme (p : ProgrammeNo) : (s.countRefusal q).programme p = s.programme p := by cases q <;> rfl
@[simp] theorem State.countRefusal_group (g : GroupNo) : (s.countRefusal q).group g = s.group g := by cases q <;> rfl
@[simp] theorem State.countRefusal_link (l : LinkNo) : (s.countRefusal q).link l = s.link l := by cases q <;> rfl

end

@[simp] theorem State.setLine_line (s : State) (p : PortId) (l : OrderLine) : (s.setLine p l).line p = l := by
  cases p <;> simp [State.setLine, State.line]

theorem State.setLine_line_ne (s : State) (p q : PortId) (l : OrderLine) (h : q ≠ p) :
    (s.setLine p l).line q = s.line q := by
  match p, q with
  | .manager, .manager => exact absurd rfl h
  | .manager, .access _ => rfl
  | .access _, .manager => rfl
  | .access a, .access b =>
      have hb : b ≠ a := fun e => h (by rw [e])
      simp [State.setLine, State.line, hb]

@[simp] theorem State.countRefusal_line (s : State) (p q : PortId) : (s.countRefusal p).line q = s.line q := by
  match p, q with
  | .manager, .manager => rfl
  | .manager, .access _ => rfl
  | .access _, .manager => rfl
  | .access a, .access b =>
      by_cases h : b = a
      · subst h; simp [State.countRefusal, State.line]
      · simp [State.countRefusal, State.line, h]

end Sys2Proof.Machine
end

