-- ==== Sys2Proof/Laws/Frames.lean ====
section
/-! SUPPORT. How a frame is taken (R145 to R147), said once for every order: what an accepted order, a refused one, a
frame on a busy port and a frame that is not heard leave behind. -/

namespace Sys2Proof.Machine

/-- A free port is not busy. -/
theorem State.Free.not_busy {s : State} {p : PortId} (h : s.Free p) : (s.line p).busy = false := by
  simp [OrderLine.busy, h.2.2.2.1, h.2.2.2.2]

/-- A frame on a free port is judged (R146). -/
theorem takeFrame_free {s : State} {p : PortId} (h : s.Free p) (code : Nat) (r : RefusalCode) (judge : State → State) :
    s.takeFrame p code r judge = judge s := by
  have hb := h.not_busy
  simp [State.takeFrame, State.hears, h.1, h.2.1, h.2.2.1, hb]

/-- A frame on a busy port is counted as refused, and its refusal waits if none does (R146). -/
theorem takeFrame_busy {s : State} {p : PortId} (hl : s.resetLow = false) (hr : s.restart = .idle)
    (hu : (s.line p).up = true) (hb : (s.line p).busy = true) (code : Nat) (r : RefusalCode) (judge : State → State) :
    s.takeFrame p code r judge = s.refuseBusy p code r := by
  simp [State.takeFrame, State.hears, hl, hr, hu, hb]

/-- A frame that is not heard, or comes while a restart runs, has no effect (R145, R154, R155). -/
theorem takeFrame_deaf {s : State} {p : PortId}
    (h : s.resetLow = true ∨ (s.line p).up = false ∨ s.restart ≠ .idle) (code : Nat) (r : RefusalCode)
    (judge : State → State) : s.takeFrame p code r judge = s := by
  rcases h with h | h | h <;> simp [State.takeFrame, State.hears, h]

/-- A frame on a port that takes frames did not fall with the loss of its link. -/
theorem Free.not_fell {s : State} {f : Frame} (h : s.Free f.port) (o : Order) : s.fellWithLoss f o = false := by
  simp [State.fellWithLoss, h.2.2.1]

/-- An order taken at the station time of the loss of its link, after it: one refusal is counted, and nothing else changes
(R132). -/
theorem takeOrder_fell {s : State} {f : Frame} {o : Order} (h : s.fellWithLoss f o = true)
    (effect : State → State × Response) : s.takeOrder f o effect = s.countRefusal f.port := by
  simp [State.takeOrder, h]

/-- An accepted frame passes every check (R147). -/
theorem judge_accepts {s : State} {f : Frame} {o : Order} (h : s.Accepts f o) : s.judge f o = none := by
  obtain ⟨-, ha, hd, he, hf⟩ := h
  unfold State.judge
  cases h1 : s.portDetached f.port <;> cases h2 : s.portException f.port <;> simp_all

/-- An accepted order: its effect is taken whole, then its reply is sent (R146). -/
theorem takeOrder_accepts {s : State} {f : Frame} {o : Order} (h : s.Accepts f o)
    (effect : State → State × Response) :
    s.takeOrder f o effect = ((effect s).1).answer f.port o (effect s).2 := by
  simp [State.takeOrder, Free.not_fell h.1, takeFrame_free h.1, judge_accepts h]

/-- The reply DONE. -/
@[simp] theorem answer_done (t : State) (f : Frame) (o : Order) (b : ReplyBody) :
    t.answer f.port o (.done b) = t.done f o b := rfl

/-- The refusal of an owning rule. -/
@[simp] theorem answer_refused (t : State) (f : Frame) (o : Order) (r : RefusalCode) :
    t.answer f.port o (.refused r) = t.rejected f o r := rfl

/-- An order that a check of R147 refuses. -/
theorem takeOrder_refused {s : State} {f : Frame} {o : Order} {r : RefusalCode} (h : s.Free f.port)
    (hj : s.judge f o = some r) (effect : State → State × Response) :
    s.takeOrder f o effect = s.refuse f.port o.code r := by
  simp [State.takeOrder, Free.not_fell h, takeFrame_free h, hj]

/-- Everything an order frame can come to: nothing heard, a refusal counted on a link just lost, a busy port, a refusal of
R147, or acceptance. -/
theorem takeOrder_cases (s : State) (f : Frame) (o : Order) (effect : State → State × Response) :
    s.takeOrder f o effect = s
      ∨ (s.fellWithLoss f o = true ∧ s.takeOrder f o effect = s.countRefusal f.port)
      ∨ s.takeOrder f o effect = s.refuseBusy f.port o.code .busy
      ∨ (∃ r, s.judge f o = some r ∧ s.takeOrder f o effect = s.refuse f.port o.code r)
      ∨ (s.judge f o = none ∧ s.takeOrder f o effect = ((effect s).1).answer f.port o (effect s).2) := by
  unfold State.takeOrder State.takeFrame
  split
  · next h => exact .inr (.inl ⟨h, rfl⟩)
  · split
    · exact .inl rfl
    · split
      · exact .inl rfl
      · split
        · exact .inr (.inr (.inl rfl))
        · cases hj : s.judge f o with
          | some r => exact .inr (.inr (.inr (.inl ⟨r, rfl, by simp [hj]⟩)))
          | none => exact .inr (.inr (.inr (.inr ⟨rfl, by simp [hj]⟩)))

/-- On an access port, an order's effect is that port's. -/
@[simp] theorem onAccess_access (p : PortNo) (b : Bool) (effect : PortNo → State → State × Response) (s : State) :
    onAccess ⟨.access p, b⟩ effect s = effect p s := rfl

end Sys2Proof.Machine
end

