-- ==== Sys2Proof/Laws/Lists.lean ====
section
/-! SUPPORT. The small operations over numbers, sets and lists: what each gives, said once. -/

namespace Sys2Proof.Machine

/-! ### Quotients rounded up -/

/-- A quotient rounded up is the least number that covers the dividend. -/
theorem ceilDiv_le_iff {a b n : Nat} (hb : 0 < b) : ceilDiv a b ≤ n ↔ a ≤ n * b := by
  unfold ceilDiv
  rw [Nat.div_le_iff_le_mul_add_pred hb, Nat.mul_comm b n]
  omega

theorem le_ceilDiv_mul {a b : Nat} (hb : 0 < b) : a ≤ ceilDiv a b * b := (ceilDiv_le_iff hb).1 (Nat.le_refl _)

theorem ceilDiv_mono {a a' b : Nat} (hb : 0 < b) (h : a ≤ a') : ceilDiv a b ≤ ceilDiv a' b :=
  (ceilDiv_le_iff hb).2 (Nat.le_trans h (le_ceilDiv_mul hb))

theorem ceilDiv_pos {a b : Nat} (hb : 0 < b) (ha : 0 < a) : 0 < ceilDiv a b := by
  rcases Nat.eq_zero_or_pos (ceilDiv a b) with h | h
  · have := (ceilDiv_le_iff (n := 0) hb).1 (Nat.le_of_eq h); omega
  · exact h

/-- The first whole unit at or after `t`. -/
theorem le_ceilTo {unit : Nat} (h : 0 < unit) (t : Nat) : t ≤ ceilTo unit t := le_ceilDiv_mul h

theorem bump_le (most n : Nat) : bump most n ≤ most := by unfold bump; omega

/-! ### Sets -/

@[simp] theorem hasItem_zero {n : Nat} (i : Fin n) : hasItem 0#n i = false := by simp [hasItem]

@[simp] theorem hasItem_addItem {n : Nat} (m : BitVec n) (i j : Fin n) :
    hasItem (addItem m i) j = (hasItem m j || decide (j = i)) := by
  simp [hasItem, addItem, bitAt, Fin.ext_iff, eq_comm]

@[simp] theorem hasItem_dropItem {n : Nat} (m : BitVec n) (i j : Fin n) :
    hasItem (dropItem m i) j = (hasItem m j && !decide (j = i)) := by
  simp [hasItem, dropItem, bitAt, Fin.ext_iff, eq_comm]

/-- Two sets with the same items are equal. -/
theorem set_ext {n : Nat} {m k : BitVec n} (h : ∀ i : Fin n, hasItem m i = hasItem k i) : m = k :=
  BitVec.eq_of_getLsbD_eq (fun i hi => h ⟨i, hi⟩)

theorem hasItem_fold {n : Nat} (f : Fin n → Bool) (j : Fin n) : ∀ (l : List (Fin n)) (m : BitVec n),
    hasItem (l.foldl (fun m i => if f i then addItem m i else m) m) j = (hasItem m j || (decide (j ∈ l) && f j))
  | [], m => by simp
  | i :: l, m => by
      rw [List.foldl_cons, hasItem_fold f j l]
      by_cases hji : j = i
      · subst hji; cases f j <;> simp
      · cases f i <;> simp [hji]

/-- The set of the items that meet `f` holds exactly those. -/
@[simp] theorem hasItem_setWhere {n : Nat} (f : Fin n → Bool) (j : Fin n) : hasItem (setWhere f) j = f j := by
  simp [setWhere, hasItem_fold]

/-! ### Folds -/

/-- What every step of a fold leaves alone, the fold leaves alone. -/
theorem foldl_keeps {α β γ : Type} (π : β → γ) (f : β → α → β) (h : ∀ b a, π (f b a) = π b) :
    ∀ (l : List α) (b : β), π (l.foldl f b) = π b
  | [], _ => rfl
  | a :: l, b => by rw [List.foldl_cons, foldl_keeps π f h l, h]

/-- What every step of a fold preserves, the fold preserves. -/
theorem foldl_preserves {α β : Type} (P : β → Prop) (f : β → α → β) (h : ∀ b a, P b → P (f b a)) :
    ∀ (l : List α) (b : β), P b → P (l.foldl f b)
  | [], _, hb => hb
  | a :: l, b, hb => foldl_preserves P f h l _ (h b a hb)

/-! ### Ordering lists -/

theorem insertBy_perm {α : Type} (le : α → α → Bool) (x : α) : ∀ l : List α, (insertBy le x l).Perm (x :: l)
  | [] => .refl _
  | y :: ys => by
      unfold insertBy
      split
      · exact .refl _
      · exact ((insertBy_perm le x ys).cons y).trans (.swap x y ys)

/-- Ordering a list keeps its entries. -/
theorem sortBy_perm {α : Type} (le : α → α → Bool) : ∀ l : List α, (sortBy le l).Perm l
  | [] => .refl _
  | x :: xs => (insertBy_perm le x (sortBy le xs)).trans ((sortBy_perm le xs).cons x)

theorem insertBy_sorted {α : Type} (le : α → α → Bool) (total : ∀ a b, le a b = true ∨ le b a = true)
    (trans : ∀ a b c, le a b = true → le b c = true → le a c = true) (x : α) :
    ∀ l : List α, l.Pairwise (fun a b => le a b = true) → (insertBy le x l).Pairwise (fun a b => le a b = true)
  | [], _ => by simp [insertBy]
  | y :: ys, h => by
      unfold insertBy
      rw [List.pairwise_cons] at h
      split
      · next hxy =>
          rw [List.pairwise_cons]
          refine ⟨fun z hz => ?_, List.pairwise_cons.2 h⟩
          rcases List.mem_cons.1 hz with rfl | hz
          · exact hxy
          · exact trans _ _ _ hxy (h.1 z hz)
      · next hxy =>
          rw [List.pairwise_cons]
          refine ⟨fun z hz => ?_, insertBy_sorted le total trans x ys h.2⟩
          rcases List.mem_cons.1 ((insertBy_perm le x ys).mem_iff.1 hz) with rfl | hz
          · exact (total z y).resolve_left (by simpa using hxy)
          · exact h.1 z hz

/-- Ordering a list by a total order puts it in order. -/
theorem sortBy_sorted {α : Type} (le : α → α → Bool) (total : ∀ a b, le a b = true ∨ le b a = true)
    (trans : ∀ a b c, le a b = true → le b c = true → le a c = true) :
    ∀ l : List α, (sortBy le l).Pairwise (fun a b => le a b = true)
  | [] => .nil
  | x :: xs => insertBy_sorted le total trans x _ (sortBy_sorted le total trans xs)

/-! ### Takes -/

/-- A take is a first part of the ordered entries (R118). -/
theorem takeWithin_prefix : ∀ (room : Nat) (es : List CarouselEntry), takeWithin room es <+: es
  | _, [] => List.prefix_rfl
  | room, e :: es => by
      unfold takeWithin
      split
      · exact (List.prefix_cons_inj e).2 (takeWithin_prefix _ es)
      · exact List.nil_prefix

/-- A take stays within the reserve (R118). -/
theorem takeWithin_sum : ∀ (room : Nat) (es : List CarouselEntry), ((takeWithin room es).map (·.slices)).sum ≤ room
  | _, [] => by simp [takeWithin]
  | room, e :: es => by
      unfold takeWithin
      split
      · have := takeWithin_sum (room - e.slices) es
        simp; omega
      · simp

/-- The entries a scan takes number the smaller of the allowance and of the entries that name the carrier (R129). -/
theorem scanQueue_length (p : PortNo) (c : CarrierNo) : ∀ (n : Nat) (es : List SubscriberEntry),
    (scanQueue p c n es).1.length = min n (es.filter (fun e => hasItem e.remaining c)).length
  | n, [] => by cases n <;> simp [scanQueue]
  | 0, e :: es => by simp [scanQueue]
  | n + 1, e :: es => by
      unfold scanQueue
      split
      · next h =>
          have := scanQueue_length p c n es
          simp [h, this]
      · next h =>
          have := scanQueue_length p c (n + 1) es
          simp [h, this]

/-- A scan keeps entries that still name a carrier (R124, R129). -/
theorem scanQueue_remaining (p : PortNo) (c : CarrierNo) : ∀ (n : Nat) (es : List SubscriberEntry),
    (∀ e ∈ es, e.remaining ≠ 0) → ∀ e ∈ (scanQueue p c n es).2, e.remaining ≠ 0
  | n, [], _ => by cases n <;> simp [scanQueue]
  | 0, e :: es, h => by simpa [scanQueue] using h
  | n + 1, e :: es, h => by
      have ht : ∀ x ∈ es, x.remaining ≠ 0 := fun x hx => h x (List.mem_cons_of_mem _ hx)
      unfold scanQueue
      split
      · intro x hx
        dsimp only at hx
        split at hx
        · exact scanQueue_remaining p c n es ht x hx
        · next hr =>
            rcases List.mem_cons.1 hx with rfl | hx
            · exact hr
            · exact scanQueue_remaining p c n es ht x hx
      · intro x hx
        rcases List.mem_cons.1 hx with rfl | hx
        · exact h _ (by simp)
        · exact scanQueue_remaining p c (n + 1) es ht x hx

theorem scanQueue_left_length (p : PortNo) (c : CarrierNo) : ∀ (n : Nat) (es : List SubscriberEntry),
    (scanQueue p c n es).2.length ≤ es.length
  | n, [] => by cases n <;> simp [scanQueue]
  | 0, e :: es => by simp [scanQueue]
  | n + 1, e :: es => by
      unfold scanQueue
      split
      · have := scanQueue_left_length p c n es
        dsimp only
        split <;> simp <;> omega
      · have := scanQueue_left_length p c (n + 1) es
        simpa using this

/-! ### Demotions (R47) -/

/-- The demotions are a first part of the demotable candidates, in order. -/
theorem demoteWhile_prefix (pool : Nat) : ∀ (sum : Nat) (xs : List Candidate), demoteWhile pool sum xs <+: xs
  | _, [] => List.prefix_rfl
  | sum, x :: xs => by
      unfold demoteWhile
      split
      · exact List.nil_prefix
      · exact (List.prefix_cons_inj x).2 (demoteWhile_prefix pool _ xs)

/-- Candidates within the pool are not demoted. -/
theorem demoteWhile_nil (pool sum : Nat) (xs : List Candidate) (h : sum ≤ pool) : demoteWhile pool sum xs = [] := by
  cases xs <;> simp [demoteWhile, h]

end Sys2Proof.Machine
end

