-- ==== Sys2Proof/Laws/Memory.lean ====
section
/-! SUPPORT. The picture memory: what a write stores, and that every operation keeps the canonical form. -/

namespace Sys2Proof.Machine

theorem Memory.wfFrom_mono {lo hi : Nat} (h : lo ≤ hi) : ∀ {m : Memory}, Memory.wfFrom hi m = true → Memory.wfFrom lo m = true
  | [], _ => rfl
  | (a, b) :: m, hm => by
      simp only [Memory.wfFrom, Bool.and_eq_true, decide_eq_true_eq] at hm ⊢
      exact ⟨⟨Nat.le_trans h hm.1.1, hm.1.2⟩, hm.2⟩

theorem Memory.write_wfFrom : ∀ {m : Memory} {lo x : Nat} {v : Byte}, Memory.wfFrom lo m = true → lo ≤ x →
    Memory.wfFrom lo (m.write x v) = true
  | [], lo, x, v, _, hx => by
      unfold Memory.write
      split
      · rfl
      · next h => simp [Memory.wfFrom, hx, h]
  | (a, b) :: m, lo, x, v, hm, hx => by
      simp only [Memory.wfFrom, Bool.and_eq_true, decide_eq_true_eq] at hm
      unfold Memory.write
      split
      · next hlt =>
          split
          · simp [Memory.wfFrom, hm]
          · next h =>
              simp only [Memory.wfFrom, Bool.and_eq_true, decide_eq_true_eq]
              exact ⟨⟨hx, by simp [h]⟩, ⟨hlt, hm.1.2⟩, hm.2⟩
      · split
        · next heq =>
            subst heq
            split
            · exact Memory.wfFrom_mono (by omega) hm.2
            · next h => simp [Memory.wfFrom, hx, h, hm.2]
        · next hge hne =>
            simp only [Memory.wfFrom, Bool.and_eq_true, decide_eq_true_eq]
            exact ⟨hm.1, Memory.write_wfFrom hm.2 (by omega)⟩

/-- A write keeps the canonical form. -/
theorem Memory.write_wf {m : Memory} (x : Nat) (v : Byte) (h : m.wf = true) : (m.write x v).wf = true :=
  Memory.write_wfFrom h (Nat.zero_le x)

theorem Memory.read_below : ∀ {m : Memory} {lo x : Nat}, Memory.wfFrom lo m = true → x < lo →
    m.read x = Config.unwrittenByte
  | [], _, _, _, _ => rfl
  | (a, b) :: m, lo, x, hm, hx => by
      simp only [Memory.wfFrom, Bool.and_eq_true, decide_eq_true_eq] at hm
      have : a ≠ x := by omega
      simp only [Memory.read, this, if_false]
      exact Memory.read_below hm.2 (by omega)

theorem Memory.read_write_from : ∀ {m : Memory} {lo x y : Nat} {v : Byte}, Memory.wfFrom lo m = true →
    (m.write x v).read y = if y = x then v else m.read y
  | [], lo, x, y, v, _ => by
      unfold Memory.write
      split
      · next h => subst h; split <;> rfl
      · by_cases hy : y = x
        · simp [Memory.read, hy]
        · simp [Memory.read, hy, Ne.symm hy]
  | (a, b) :: m, lo, x, y, v, hm => by
      simp only [Memory.wfFrom, Bool.and_eq_true, decide_eq_true_eq] at hm
      unfold Memory.write
      split
      · next hlt =>
          split
          · next h =>
              by_cases hy : y = x
              · subst hy
                have : a ≠ y := by omega
                simp only [if_true, Memory.read, this, if_false, h]
                exact Memory.read_below hm.2 (by omega)
              · simp [hy]
          · by_cases hy : y = x
            · simp [Memory.read, hy]
            · simp [Memory.read, hy, Ne.symm hy]
      · split
        · next heq =>
            subst heq
            split
            · next h =>
                by_cases hy : y = x
                · subst hy
                  simp only [if_true, h]
                  exact Memory.read_below hm.2 (by omega)
                · simp [Memory.read, hy, Ne.symm hy]
            · by_cases hy : y = x
              · simp [Memory.read, hy]
              · simp [Memory.read, hy, Ne.symm hy]
        · next hge hne =>
            by_cases ha : a = y
            · have : y ≠ x := fun e => hne (by omega)
              simp [Memory.read, ha, this]
            · simp only [Memory.read, ha, if_false]
              exact Memory.read_write_from hm.2

/-- A write stores its byte at its address and leaves every other address alone. -/
theorem Memory.read_write {m : Memory} (h : m.wf = true) (x y : Nat) (v : Byte) :
    (m.write x v).read y = if y = x then v else m.read y := Memory.read_write_from h

/-- A row of writes keeps the canonical form. -/
theorem Memory.writeBytes_wf : ∀ (bs : List Byte) {m : Memory} (a : Nat), m.wf = true → (m.writeBytes a bs).wf = true
  | [], _, _, h => h
  | b :: bs, _, a, h => Memory.writeBytes_wf bs (a + 1) (Memory.write_wf a b h)

/-- What an address reads as after a row of writes: the byte written there, or what it read as before. -/
theorem Memory.read_writeBytes : ∀ (bs : List Byte) {m : Memory} (a y : Nat), m.wf = true →
    (m.writeBytes a bs).read y = if a ≤ y then (bs[y - a]?).getD (m.read y) else m.read y
  | [], m, a, y, _ => by simp [Memory.writeBytes]
  | b :: bs, m, a, y, h => by
      rw [Memory.writeBytes, Memory.read_writeBytes bs (a + 1) y (Memory.write_wf a b h), Memory.read_write h]
      rcases Nat.lt_trichotomy y a with hy | hy | hy
      · have h1 : ¬ a + 1 ≤ y := by omega
        have h2 : ¬ a ≤ y := by omega
        have h3 : y ≠ a := by omega
        simp [h1, h2, h3]
      · subst hy
        simp
      · have h1 : a + 1 ≤ y := by omega
        have h2 : a ≤ y := by omega
        have h3 : y ≠ a := by omega
        have h4 : y - a = (y - (a + 1)) + 1 := by omega
        simp [h1, h2, h3, h4]

/-- Writing a body into its cells keeps the canonical form. -/
theorem writeBody_wf : ∀ (cells : List CellNo) {m : Memory} (body : List Byte), m.wf = true →
    (writeBody m cells body).wf = true
  | [], _, _, h => h
  | _ :: cs, _, _, h => writeBody_wf cs _ (Memory.writeBytes_wf _ _ h)

/-- A byte outside a body's cells reads as before. -/
theorem writeBody_read_outside : ∀ (cells : List CellNo) {m : Memory} (body : List Byte) (y : Nat), m.wf = true →
    (∀ c ∈ cells, y < cellBase c ∨ cellBase c + Config.cellBytes ≤ y) → (writeBody m cells body).read y = m.read y
  | [], _, _, _, _, _ => rfl
  | c :: cs, m, body, y, h, hc => by
      rw [writeBody, writeBody_read_outside cs _ y (Memory.writeBytes_wf _ _ h)
        (fun c' hc' => hc c' (List.mem_cons_of_mem _ hc')), Memory.read_writeBytes _ _ _ h]
      split
      · next hle =>
          have hlen : (body.take Config.cellBytes).length ≤ Config.cellBytes := by simp
          have h2 := hc c (by simp)
          have : (body.take Config.cellBytes)[y - cellBase c]? = none := by
            apply List.getElem?_eq_none
            omega
          simp [this]
      · rfl

/-- A shrink completion keeps the canonical form. -/
theorem Memory.shrink_wf {m : Memory} (e : ProgrammeEntry) (h : m.wf = true) : (m.shrink e).wf = true :=
  writeBody_wf _ _ h

/-- The picture memory at reset has the canonical form. -/
theorem State.reset_memory_wf : State.reset.memory.wf = true := rfl

end Sys2Proof.Machine
end

