-- ==== Sys2Proof/Laws/Operations.lean ====
section
/-! SUPPORT. The shape of each shared operation, said once: which fields of the state it can change. A proof obtains the
new fields from the shape, and every other field is then the old one by definition. -/

namespace Sys2Proof.Machine

/-! ### Shapes and folds -/

/-- A fold keeps a relation that every step keeps and that is reflexive and transitive. -/
theorem foldl_rel {α β : Type} (R : β → β → Prop) (refl : ∀ b, R b b) (trans : ∀ a b c, R a b → R b c → R a c)
    (f : β → α → β) (h : ∀ b a, R b (f b a)) : ∀ (l : List α) (b : β), R b (l.foldl f b)
  | [], b => refl b
  | x :: xs, b => trans _ _ _ (h b x) (foldl_rel R refl trans f h xs (f b x))

/-- `t` is `s` but for the access ports. -/
def AccessOnly (s t : State) : Prop := ∃ a, t = { s with access := a }

/-- `t` is `s` but for the carriers. -/
def CarriersOnly (s t : State) : Prop := ∃ cs, t = { s with carriers := cs }

/-- `t` is `s` but for the groups. -/
def GroupsOnly (s t : State) : Prop := ∃ gs, t = { s with groups := gs }

/-- `t` is `s` but for what the key schedule and the plan resolver write: groups, carousel lists, access ports, and the
alert flags of the manager port. -/
def KeySideOnly (s t : State) : Prop :=
  ∃ gs cs a m, t = { s with groups := gs, carriers := cs, access := a, manager := m }

/-- `t` is `s` but for what an allocation event writes. -/
def AllocationOnly (s t : State) : Prop :=
  ∃ ps gs cs a m fs, t = { s with programmes := ps, groups := gs, carriers := cs, access := a, manager := m, freeCells := fs }

/-- `t` is `s` but for what the output side writes: programmes, carriers, picture memory, the free list. -/
def OutputOnly (s t : State) : Prop :=
  ∃ ps cs mem fs, t = { s with programmes := ps, carriers := cs, memory := mem, freeCells := fs }

/-- `t` is `s` but for what a boundary writes: all that an allocation event and the output side write. -/
def BoundaryOnly (s t : State) : Prop :=
  ∃ ps gs cs a m mem fs,
    t = { s with
      programmes := ps, groups := gs, carriers := cs, access := a, manager := m, memory := mem, freeCells := fs }

theorem AccessOnly.of {s t : State} (h : t = { s with access := t.access }) : AccessOnly s t := ⟨_, h⟩
theorem CarriersOnly.of {s t : State} (h : t = { s with carriers := t.carriers }) : CarriersOnly s t := ⟨_, h⟩
theorem GroupsOnly.of {s t : State} (h : t = { s with groups := t.groups }) : GroupsOnly s t := ⟨_, h⟩
theorem KeySideOnly.of {s t : State}
    (h : t = { s with groups := t.groups, carriers := t.carriers, access := t.access, manager := t.manager }) :
    KeySideOnly s t := ⟨_, _, _, _, h⟩
theorem AllocationOnly.of {s t : State}
    (h : t = { s with
      programmes := t.programmes, groups := t.groups, carriers := t.carriers, access := t.access, manager := t.manager,
      freeCells := t.freeCells }) :
    AllocationOnly s t := ⟨_, _, _, _, _, _, h⟩
theorem OutputOnly.of {s t : State}
    (h : t = { s with
      programmes := t.programmes, carriers := t.carriers, memory := t.memory, freeCells := t.freeCells }) :
    OutputOnly s t := ⟨_, _, _, _, h⟩

theorem AccessOnly.refl (s : State) : AccessOnly s s := ⟨_, rfl⟩
theorem AccessOnly.trans (s t u : State) : AccessOnly s t → AccessOnly t u → AccessOnly s u := by
  rintro ⟨_, rfl⟩ ⟨_, rfl⟩; exact ⟨_, rfl⟩
theorem CarriersOnly.refl (s : State) : CarriersOnly s s := ⟨_, rfl⟩
theorem CarriersOnly.trans (s t u : State) : CarriersOnly s t → CarriersOnly t u → CarriersOnly s u := by
  rintro ⟨_, rfl⟩ ⟨_, rfl⟩; exact ⟨_, rfl⟩
theorem GroupsOnly.refl (s : State) : GroupsOnly s s := ⟨_, rfl⟩
theorem GroupsOnly.trans (s t u : State) : GroupsOnly s t → GroupsOnly t u → GroupsOnly s u := by
  rintro ⟨_, rfl⟩ ⟨_, rfl⟩; exact ⟨_, rfl⟩
theorem KeySideOnly.refl (s : State) : KeySideOnly s s := ⟨_, _, _, _, rfl⟩
theorem KeySideOnly.trans (s t u : State) : KeySideOnly s t → KeySideOnly t u → KeySideOnly s u := by
  rintro ⟨_, _, _, _, rfl⟩ ⟨_, _, _, _, rfl⟩; exact ⟨_, _, _, _, rfl⟩
theorem AllocationOnly.refl (s : State) : AllocationOnly s s := ⟨_, _, _, _, _, _, rfl⟩
theorem AllocationOnly.trans (s t u : State) : AllocationOnly s t → AllocationOnly t u → AllocationOnly s u := by
  rintro ⟨_, _, _, _, _, _, rfl⟩ ⟨_, _, _, _, _, _, rfl⟩; exact ⟨_, _, _, _, _, _, rfl⟩
theorem OutputOnly.refl (s : State) : OutputOnly s s := ⟨_, _, _, _, rfl⟩
theorem OutputOnly.trans (s t u : State) : OutputOnly s t → OutputOnly t u → OutputOnly s u := by
  rintro ⟨_, _, _, _, rfl⟩ ⟨_, _, _, _, rfl⟩; exact ⟨_, _, _, _, rfl⟩

theorem BoundaryOnly.of {s t : State}
    (h : t = { s with
      programmes := t.programmes, groups := t.groups, carriers := t.carriers, access := t.access, manager := t.manager,
      memory := t.memory, freeCells := t.freeCells }) :
    BoundaryOnly s t := ⟨_, _, _, _, _, _, _, h⟩
theorem BoundaryOnly.refl (s : State) : BoundaryOnly s s := ⟨_, _, _, _, _, _, _, rfl⟩
theorem BoundaryOnly.trans (s t u : State) : BoundaryOnly s t → BoundaryOnly t u → BoundaryOnly s u := by
  rintro ⟨_, _, _, _, _, _, _, rfl⟩ ⟨_, _, _, _, _, _, _, rfl⟩; exact ⟨_, _, _, _, _, _, _, rfl⟩
theorem AllocationOnly.boundary {s t : State} : AllocationOnly s t → BoundaryOnly s t := by
  rintro ⟨_, _, _, _, _, _, rfl⟩; exact ⟨_, _, _, _, _, _, _, rfl⟩
theorem OutputOnly.boundary {s t : State} : OutputOnly s t → BoundaryOnly s t := by
  rintro ⟨_, _, _, _, rfl⟩; exact ⟨_, _, _, _, _, _, _, rfl⟩

theorem AccessOnly.keySide {s t : State} : AccessOnly s t → KeySideOnly s t := by
  rintro ⟨_, rfl⟩; exact ⟨_, _, _, _, rfl⟩
theorem CarriersOnly.keySide {s t : State} : CarriersOnly s t → KeySideOnly s t := by
  rintro ⟨_, rfl⟩; exact ⟨_, _, _, _, rfl⟩
theorem GroupsOnly.keySide {s t : State} : GroupsOnly s t → KeySideOnly s t := by
  rintro ⟨_, rfl⟩; exact ⟨_, _, _, _, rfl⟩
theorem KeySideOnly.allocation {s t : State} : KeySideOnly s t → AllocationOnly s t := by
  rintro ⟨_, _, _, _, rfl⟩; exact ⟨_, _, _, _, _, _, rfl⟩

/-! ### Flags and causes -/

theorem raiseKeyWaiting_shape (s : State) (g : GroupNo) : AccessOnly s (s.raiseKeyWaiting g) :=
  foldl_rel AccessOnly AccessOnly.refl AccessOnly.trans _ (fun s p => by split <;> exact ⟨_, rfl⟩) _ s

theorem clearKeyWaiting_shape (s : State) (g : GroupNo) : AccessOnly s (s.clearKeyWaiting g) :=
  foldl_rel AccessOnly AccessOnly.refl AccessOnly.trans _ (fun _ _ => ⟨_, rfl⟩) _ s

theorem raiseLate_shape (s : State) (g : GroupNo) : AccessOnly s (s.raiseLate g) :=
  foldl_rel AccessOnly AccessOnly.refl AccessOnly.trans _
    (fun s p => by dsimp only; split <;> split <;> exact ⟨_, rfl⟩) _ s

theorem raiseExcluded_shape (s : State) (g : GroupNo) (before : Vector Role 4) (fault : Bool) :
    AccessOnly s (s.raiseExcluded g before fault) :=
  foldl_rel AccessOnly AccessOnly.refl AccessOnly.trans _ (fun s p => by split <;> exact ⟨_, rfl⟩) _ s

theorem raisePlanWaiting_shape (s : State) (g : GroupNo) : AccessOnly s (s.raisePlanWaiting g) :=
  foldl_rel AccessOnly AccessOnly.refl AccessOnly.trans _ (fun s p => by split <;> exact ⟨_, rfl⟩) _ s

/-! ### The carousel -/

theorem placeEverywhere_shape (s : State) (e : CarouselEntry) : CarriersOnly s (s.placeEverywhere e) :=
  foldl_rel CarriersOnly CarriersOnly.refl CarriersOnly.trans _ (fun s c => by split <;> exact ⟨_, rfl⟩) _ s

theorem gainGroups_shape (s : State) (c : CarrierNo) (b : Time) : CarriersOnly s (s.gainGroups c b) :=
  foldl_rel CarriersOnly CarriersOnly.refl CarriersOnly.trans _ (fun s g => by split <;> exact ⟨_, rfl⟩) _ s

/-! ### Slots, roles, plans -/

/-- A recomputation changes a group's start time at most. -/
theorem recompute_eq (s : State) (g : GroupNo) :
    s.recompute g = s ∨ ∃ t, s.recompute g = s.setGroup g { s.group g with startTime := t } := by
  unfold State.recompute
  dsimp only
  split
  · split
    · split
      · exact .inl rfl
      · exact .inr ⟨_, rfl⟩
    · exact .inr ⟨_, rfl⟩
  · exact .inl rfl

theorem recompute_shape (s : State) (g : GroupNo) : GroupsOnly s (s.recompute g) := by
  obtain h | ⟨_, h⟩ := recompute_eq s g <;> rw [h] <;> exact ⟨_, rfl⟩

theorem recomputeAll_shape (s : State) : GroupsOnly s s.recomputeAll :=
  foldl_rel GroupsOnly GroupsOnly.refl GroupsOnly.trans _ recompute_shape _ s

theorem reportAiring_shape (s : State) (g : GroupNo) (ph : Phase) (p : PortNo) (c : CarrierNo) :
    GroupsOnly s (s.reportAiring g ph p c) :=
  GroupsOnly.trans _ _ _ ⟨_, rfl⟩ (recompute_shape _ g)

theorem deleteMemberPackets_shape (s : State) (g : GroupNo) (p : PortNo) : KeySideOnly s (s.deleteMemberPackets g p) :=
  KeySideOnly.of rfl

/-- What is done or not done to a state keeps a shape that doing it keeps. -/
theorem KeySideOnly.ite {s : State} (b : Prop) [Decidable b] (f : State → State) (h : KeySideOnly s (f s)) :
    KeySideOnly s (if b then f s else s) := by
  split
  · exact h
  · exact KeySideOnly.refl s

theorem setRole_shape (s : State) (g : GroupNo) (p : PortNo) (r : Role) : KeySideOnly s (s.setRole g p r) := by
  unfold State.setRole
  dsimp only
  refine KeySideOnly.trans _ _ _ ?_ (recompute_shape _ g).keySide
  refine KeySideOnly.trans _ _ _ ?_ (KeySideOnly.ite _ (fun t => t.setPlanWaiting p g false) (KeySideOnly.of rfl))
  refine KeySideOnly.trans _ _ _ ?_ (KeySideOnly.ite _ (fun t => t.setKeyWaiting p g true) (KeySideOnly.of rfl))
  refine KeySideOnly.trans _ _ _ ?_
    (KeySideOnly.ite _ (fun t => (t.deleteMemberPackets g p).setKeyWaiting p g false) (KeySideOnly.of rfl))
  exact KeySideOnly.of rfl

theorem storePacket_shape (s : State) (g : GroupNo) (ph : Phase) (k : KeySlot) (p : PortNo) (body : List Byte) :
    KeySideOnly s (s.storePacket g ph k p body) := by
  unfold State.storePacket
  dsimp only
  refine KeySideOnly.trans _ _ _ ?_ (recompute_shape _ g).keySide
  exact KeySideOnly.trans _ _ _ (KeySideOnly.of rfl) (placeEverywhere_shape _ _).keySide

theorem resolve_shape (s : State) (g : GroupNo) : KeySideOnly s (s.resolve g) := by
  unfold State.resolve
  dsimp only
  split
  · exact KeySideOnly.refl s
  · split
    · exact KeySideOnly.refl s
    · have alert : ∀ (t : State) (b : Prop) [Decidable b] (k : Group),
          KeySideOnly t (if b then (t.setGroup g k).setGroupAlert g true else t.setGroup g k) := by
        intro t b _ k
        split <;> exact KeySideOnly.of rfl
      refine KeySideOnly.trans _ _ _ ?_ (alert _ _ _)
      refine KeySideOnly.trans _ _ _ ?_ (raisePlanWaiting_shape _ g).keySide
      refine KeySideOnly.trans _ _ _ ?_ (raiseExcluded_shape _ _ _ _).keySide
      exact foldl_rel KeySideOnly KeySideOnly.refl KeySideOnly.trans _ (fun s p => setRole_shape s g p _) _ s

theorem resolveFor_shape (s : State) (p : PortNo) : KeySideOnly s (s.resolveFor p) :=
  foldl_rel KeySideOnly KeySideOnly.refl KeySideOnly.trans _
    (fun s g => by split; exacts [resolve_shape s g, KeySideOnly.refl s]) _ s

theorem leaveGroups_shape (s : State) (p : PortNo) : KeySideOnly s (s.leaveGroups p) :=
  foldl_rel KeySideOnly KeySideOnly.refl KeySideOnly.trans _
    (fun s g => by split; exacts [setRole_shape s g p _, KeySideOnly.refl s]) _ s

/-- A draw takes values of the generator, and the key it gives is not the key in use (R79). -/
theorem drawKey_spec (s : State) (inUse : Option Key) :
    ∃ k i, s.drawKey inUse = (k, { s with keyIndex := i }) ∧ inUse ≠ some k := by
  unfold State.drawKey
  dsimp only
  split
  · rename_i h
    refine ⟨_, _, rfl, ?_⟩
    rw [h]
    intro h'
    have h1 := Option.some.inj h'
    generalize Config.keyDraw s.keySeed s.keyIndex = a at h1
    generalize hx : (Config.keyDraw s.keySeed (s.keyIndex + 1)).toNat % (2 ^ 96 - 1) = x at h1
    have hlt : x < 2 ^ 96 - 1 := hx ▸ Nat.mod_lt _ (by norm_num)
    have h2 : (1 : BitVec 96) + BitVec.ofNat 96 x = 0 := by
      have h3 : a + (1 + BitVec.ofNat 96 x) = a + 0 := by rw [← BitVec.add_assoc, ← h1]; simp
      exact (BitVec.add_right_inj a).1 h3
    have h4 := congrArg BitVec.toNat h2
    rw [BitVec.toNat_add, BitVec.toNat_ofNat, show (1 : BitVec 96).toNat = 1 from rfl,
      show (0 : BitVec 96).toNat = 0 from rfl] at h4
    norm_num at h4 hlt
    omega
  · exact ⟨_, _, rfl, by assumption⟩

/-- A draw into the pending slot writes groups, access ports and the draw count alone (R86, R94). -/
theorem drawPending_shape (s : State) (g : GroupNo) (serial : Serial) :
    ∃ gs a i, s.drawPending g serial = { s with groups := gs, access := a, keyIndex := i } := by
  obtain ⟨k, i, h, -⟩ := drawKey_spec s ((s.group g).activeSlot.map (·.2.key))
  unfold State.drawPending
  rw [h]
  dsimp only
  generalize hu : State.setGroup _ g _ = u
  obtain ⟨a, hr⟩ := raiseKeyWaiting_shape (u.recompute g) g
  obtain ⟨gs, hg⟩ := recompute_shape u g
  rw [hr, hg, ← hu]
  exact ⟨_, _, _, rfl⟩

/-- The new changeover time of RESTART GROUP comes from the plan applied, not from the plan agreed (R94, R109). -/
theorem restartGroup_nextChangeover (s : State) (g : GroupNo) :
    ((s.restartGroup g).group g).nextChangeover =
      some (ceilTo Config.second
        (s.time + (((s.group g).applied.map (·.lead)).getD 0) * Config.second + Config.extension)) := by
  unfold State.restartGroup
  dsimp only
  rw [State.setGroup_self]
  obtain ⟨_, _, _, h⟩ := drawPending_shape (s.removeSlotEntries g (s.group g).pendingPhase) g _
  rw [h]
  rfl

/-! ### Takes and allocation -/

theorem takeFrom_shape (s : State) (c : CarrierNo) (p : PortNo) : AccessOnly s (s.takeFrom c p).2 := ⟨_, rfl⟩

theorem subscriberTake_shape (s : State) (c : CarrierNo) : AccessOnly s (s.subscriberTake c).2 := by
  unfold State.subscriberTake
  refine foldl_rel (fun x y : List SubscriberCopy × State => AccessOnly x.2 y.2) (fun x => AccessOnly.refl x.2)
    (fun x y z => AccessOnly.trans x.2 y.2 z.2) _ ?_ _ ([], s)
  exact fun x p => takeFrom_shape x.2 c p

theorem takeEntry_shape (c : CarrierNo) (b : Time) (acc : List AccessCopy × State) (e : CarouselEntry) :
    KeySideOnly acc.2 (takeEntry c b acc e).2 :=
  KeySideOnly.trans _ _ _ (CarriersOnly.keySide ⟨_, rfl⟩) (reportAiring_shape _ _ _ _ _).keySide

theorem accessTake_shape (s : State) (c : CarrierNo) (b : Time) : KeySideOnly s (s.accessTake c b).2 :=
  foldl_rel (fun x y : List AccessCopy × State => KeySideOnly x.2 y.2) (fun x => KeySideOnly.refl x.2)
    (fun x y z => KeySideOnly.trans x.2 y.2 z.2) _ (takeEntry_shape c b) _ ([], s)

theorem stage3_shape (c : CarrierNo) (v : Event) (p : ProgrammeNo) :
    AllocationOnly v.state (Event.stage3 c v p).state := by
  unfold Event.stage3
  dsimp only
  split
  · split
    · exact AllocationOnly.of rfl
    · split
      · exact AllocationOnly.of rfl
      · exact AllocationOnly.refl _
  · exact AllocationOnly.refl _

theorem demote_shape (c : CarrierNo) (v : Event) (x : Candidate) :
    AllocationOnly v.state (Event.demote c v x).state := by
  unfold Event.demote
  split
  · exact AllocationOnly.of rfl
  · exact AllocationOnly.of rfl
  · split <;> exact AllocationOnly.of rfl

theorem select_shape (v : Event) (c : CarrierNo) (pool : Nat) : AllocationOnly v.state (v.select c pool).1.state := by
  unfold Event.select
  dsimp only
  refine AllocationOnly.trans _ _ _
    (foldl_rel (fun x y : Event => AllocationOnly x.state y.state) (fun x => AllocationOnly.refl x.state)
      (fun x y z => AllocationOnly.trans x.state y.state z.state) _ (stage3_shape c) _ v)
    (AllocationOnly.trans _ _ _
      (foldl_rel (fun x y : Event => AllocationOnly x.state y.state) (fun x => AllocationOnly.refl x.state)
        (fun x y z => AllocationOnly.trans x.state y.state z.state) _ (demote_shape c) _ _)
      (foldl_rel AllocationOnly AllocationOnly.refl AllocationOnly.trans _ ?_ _ _))
  intro s x
  unfold clearHeld
  split
  · exact AllocationOnly.of rfl
  · exact AllocationOnly.refl _

/-- An allocation event writes no time, no memory, no link, no queue of commands and no part of the generator (R37). -/
theorem allocate_shape (s : State) (c : CarrierNo) (b : Time) : AllocationOnly s (s.allocate c b) := by
  have finish : ∀ (t : State) (b : Prop) [Decidable b] (k : Carrier),
      AllocationOnly t (if b then (t.setCarrier c k).setCarrierAlert c true else t.setCarrier c k) := by
    intro t b _ k
    split <;> exact AllocationOnly.of rfl
  unfold State.allocate
  have hA := (accessTake_shape s c b).allocation
  generalize s.accessTake c b = A at hA ⊢
  obtain ⟨access, s₁⟩ := A
  refine AllocationOnly.trans _ _ _ hA ?_
  have hB := (subscriberTake_shape s₁ c).keySide.allocation
  dsimp only
  generalize s₁.subscriberTake c = B at hB ⊢
  obtain ⟨subs, s₂⟩ := B
  refine AllocationOnly.trans _ _ _ hB ?_
  have hV := select_shape ⟨s₂, s.directoryRecord c, false⟩ c
    ((s.carrier c).budget - 1 - accessSlices access - subs.length)
  dsimp only at hV ⊢
  generalize Event.select ⟨s₂, s.directoryRecord c, false⟩ c
    ((s.carrier c).budget - 1 - accessSlices access - subs.length) = V at hV ⊢
  obtain ⟨v, survivors⟩ := V
  refine AllocationOnly.trans _ _ _ hV ?_
  dsimp only
  generalize divide _ _ survivors = D
  obtain ⟨filler, rotate, granted⟩ := D
  exact AllocationOnly.trans _ _ _
    (foldl_rel AllocationOnly AllocationOnly.refl AllocationOnly.trans State.leaveQueue
      (fun _ _ => AllocationOnly.of rfl) granted v.state) (finish _ _ _)

/-! ### Shrinking and emission -/

theorem shrinkNext_shape (s : State) (c : CarrierNo) : OutputOnly s (s.shrinkNext c) := by
  unfold State.shrinkNext
  split
  · exact OutputOnly.refl s
  · split
    · exact OutputOnly.refl s
    · exact OutputOnly.of rfl

theorem shrinkTimes_shape : ∀ (n : Nat) (s : State) (c : CarrierNo), OutputOnly s (State.shrinkTimes n s c)
  | 0, s, _ => OutputOnly.refl s
  | n + 1, s, c => OutputOnly.trans _ _ _ (shrinkNext_shape s c) (shrinkTimes_shape n _ c)

theorem emitSlice_shape (s : State) (c : CarrierNo) : OutputOnly s (s.emitSlice c) := by
  unfold State.emitSlice
  split
  · exact OutputOnly.refl s
  · exact OutputOnly.refl s
  · exact OutputOnly.of rfl
  · split <;> exact OutputOnly.of rfl
  · exact OutputOnly.of rfl
  · unfold State.emitProgramme
    dsimp only
    split <;> exact OutputOnly.of rfl
  · exact OutputOnly.of rfl

theorem makeRoom_shape (s : State) (c : CarrierNo) : OutputOnly s (s.makeRoom c) := by
  unfold State.makeRoom
  dsimp only
  split <;> exact OutputOnly.of rfl

theorem emitTimes_shape : ∀ (n : Nat) (s : State) (c : CarrierNo), OutputOnly s (State.emitTimes n s c)
  | 0, s, _ => OutputOnly.refl s
  | n + 1, s, c => by
      unfold State.emitTimes
      split
      · exact OutputOnly.trans _ _ _ (OutputOnly.trans _ _ _ (makeRoom_shape s c) (emitSlice_shape _ c))
          (emitTimes_shape n _ c)
      · exact OutputOnly.refl s

/-- The end of an interval is an affair of the output side (R63, R64, R133). -/
theorem endInterval_shape (s : State) (c : CarrierNo) : OutputOnly s (s.endInterval c) :=
  OutputOnly.trans _ _ _ (emitTimes_shape _ s c) (OutputOnly.of rfl)

theorem beginInterval_shape (s : State) (c : CarrierNo) (final : Bool) : OutputOnly s (s.beginInterval c final) := by
  unfold State.beginInterval
  split
  · exact OutputOnly.refl s
  · exact OutputOnly.of rfl

theorem nextInterval_shape (s : State) (c : CarrierNo) (final : Bool) : OutputOnly s (s.nextInterval c final) := by
  unfold State.nextInterval
  dsimp only
  refine OutputOnly.trans _ _ _ ?_ (beginInterval_shape _ c final)
  refine OutputOnly.trans _ ((s.finishShrinks c).endInterval c) _ ?_ (OutputOnly.of rfl)
  exact OutputOnly.trans _ _ _ (shrinkTimes_shape _ s c) (endInterval_shape _ c)

/-! ### Boundaries -/

theorem carrierOff_shape (s : State) (c : CarrierNo) : AllocationOnly s (s.carrierOff c) := by
  unfold State.carrierOff
  generalize (s.programmesOf c).filter (fun p => (s.programme p).serving) = ps
  have h := foldl_rel AllocationOnly AllocationOnly.refl AllocationOnly.trans State.stopProgramme
    (fun _ _ => AllocationOnly.of rfl) ps s
  generalize ps.foldl State.stopProgramme s = t at h ⊢
  refine AllocationOnly.trans _ _ _ h ?_
  dsimp only
  refine AllocationOnly.trans _ _ _ ?_ (recomputeAll_shape _).keySide.allocation
  exact AllocationOnly.of rfl

theorem advance_shape (s : State) (c : CarrierNo) (b : Time) : AllocationOnly s (s.advance c b) :=
  AllocationOnly.of rfl

theorem firstInterval_shape (s : State) (c : CarrierNo) : AllocationOnly s (s.firstInterval c) := AllocationOnly.of rfl

theorem firstBoundary_shape (s : State) (c : CarrierNo) (b : Time) : AllocationOnly s (s.firstBoundary c b) := by
  unfold State.firstBoundary
  dsimp only
  refine AllocationOnly.trans _ _ _ ?_ (advance_shape _ c b)
  refine AllocationOnly.trans _ _ _ ?_ (allocate_shape _ c b)
  refine AllocationOnly.trans _ _ _ ?_ (recomputeAll_shape _).keySide.allocation
  refine AllocationOnly.trans _ _ _ ?_ (gainGroups_shape _ c b).keySide.allocation
  exact AllocationOnly.trans _ _ _ (AllocationOnly.of rfl) (firstInterval_shape _ c)

theorem airBoundary_shape (s : State) (c : CarrierNo) (b : Time) : BoundaryOnly s (s.airBoundary c b) :=
  BoundaryOnly.trans _ _ _ (nextInterval_shape s c false).boundary
    (BoundaryOnly.trans _ _ _ (allocate_shape _ c b).boundary (advance_shape _ c b).boundary)

theorem drainBoundary_shape (s : State) (c : CarrierNo) (b : Time) : BoundaryOnly s (s.drainBoundary c b) := by
  unfold State.drainBoundary
  split
  · exact BoundaryOnly.trans _ _ _ (nextInterval_shape s c true).boundary (advance_shape _ c b).boundary
  · exact BoundaryOnly.trans _ _ _ (endInterval_shape s c).boundary (carrierOff_shape _ c).boundary

/-- A boundary leaves the waiting commands, station time, the links, the ports' offers and the generator alone (R7). -/
theorem boundary_shape (s : State) (c : CarrierNo) : BoundaryOnly s (s.boundary c) := by
  unfold State.boundary State.takeBoundary
  split
  · split
    · split
      · exact BoundaryOnly.refl s
      · exact (firstBoundary_shape s c _).boundary
      · exact airBoundary_shape s c _
      · exact drainBoundary_shape s c _
    · exact BoundaryOnly.refl s
  · exact BoundaryOnly.refl s

end Sys2Proof.Machine
end

