-- ==== Sys2Proof/Tests/Slice0.lean ====
section
/-! SUPPORT. Tests: ill-formed commands, frames and headers written out byte by byte, the worked examples of the spec, and
for every statement with hypotheses a state and operands that meet them. Frame checks were computed by hand from R156's
polynomial, outside Lean. -/

open Sys2Proof Sys2Proof.Machine

namespace Sys2Proof.Tests

/-! ### Well-formedness: one ill-formed term for each check -/

def man : Frame := ⟨.manager, true⟩
def acc : Frame := ⟨.access 0, true⟩

theorem test_wf_carrier_byte : (Instr.defineCarrier man 256 0 0 0).wf = false := by decide
theorem test_wf_rate_four_bytes : (Instr.defineCarrier man 0 4294967296 0 0).wf = false := by decide +kernel
theorem test_wf_interval_four_bytes : (Instr.defineCarrier man 0 0 4294967296 0).wf = false := by decide +kernel
theorem test_wf_reserve_two_bytes : (Instr.defineCarrier man 0 0 0 65536).wf = false := by decide +kernel
theorem test_wf_target_taken : (Instr.setCarrierOn man 0 (.other 1)).wf = false := by decide
theorem test_wf_target_byte : (Instr.setCarrierOn man 0 (.other 256)).wf = false := by decide
theorem test_wf_programme_target_taken : (Instr.setProgrammeLive man 0 (.other 2)).wf = false := by decide
theorem test_wf_cap_two_bytes : (Instr.defineProgramme man 0 0 0 0 0 65536).wf = false := by decide +kernel
theorem test_wf_preference_entry : (Instr.defineGroup man 0 0 [256] 0 0 0).wf = false := by decide
theorem test_wf_preference_count : (Instr.defineGroup man 0 0 (List.replicate 256 6) 0 0 0).wf = false := by decide +kernel
theorem test_wf_policy_byte : (Instr.defineGroup man 0 0 [6] 100 1 256).wf = false := by decide
theorem test_wf_allowance_two_bytes : (Instr.setAllowance man 0 0 65536).wf = false := by decide
theorem test_wf_lead_byte : (Instr.attach acc ⟨1, 256⟩).wf = false := by decide
theorem test_wf_plan_number_byte : (Instr.planAck acc 0 256 ⟨1, 1⟩).wf = false := by decide
theorem test_wf_selector_taken : (Instr.fetchKeyActive acc 0 (.other 0)).wf = false := by decide
theorem test_wf_packet_length : (Instr.submitAccess acc 0 0 (List.replicate 1020 0)).wf = false := by decide +kernel
theorem test_wf_count_two_bytes : (Instr.openBatch acc 1 65536).wf = false := by decide
theorem test_wf_body_length : (Instr.submitSubscriber acc (List.replicate 1021 0) 0 0).wf = false := by decide +kernel
theorem test_wf_kind_taken : (Instr.acknowledgeBatchEnd acc (.other 3) 0).wf = false := by decide
theorem test_wf_unknown_code_known : (Instr.unknownOrderCode .manager 24).wf = false := by decide
theorem test_wf_code_byte : (Instr.framingFailure .manager 256).wf = false := by decide
theorem test_wf_stretch_empty : (Instr.cellClaim 0 []).wf = false := by decide
theorem test_wf_stretch_long : (Instr.cellClaim 0 (List.replicate 2049 0)).wf = false := by decide +kernel

/-! ### Frames and headers, byte by byte (R156, R157) -/

theorem test_frame_read_time :
    decodeFrame (.access 3) [171, 205, 21, 0, 0, 99, 16] = some (.readTime ⟨.access 3, true⟩, []) := by decide +kernel
theorem test_frame_set_carrier_on :
    decodeFrame .manager [171, 205, 2, 0, 2, 2, 0, 94, 197] = some (.setCarrierOn man 2 .named, []) := by decide +kernel
theorem test_frame_set_carrier_off :
    decodeFrame .manager [171, 205, 2, 0, 2, 2, 1, 218, 140, 7] = some (.setCarrierOff man 2, [7]) := by decide +kernel
theorem test_frame_define_carrier :
    decodeFrame .manager [171, 205, 1, 0, 11, 1, 2, 113, 0, 0, 0, 0, 97, 168, 0, 8, 88, 120]
      = some (.defineCarrier man 1 40960000 25000 8, []) := by decide +kernel
theorem test_frame_set_programme_unused :
    decodeFrame .manager [171, 205, 5, 0, 2, 9, 2, 117, 134] = some (.setProgrammeUnused man 9, []) := by decide +kernel
theorem test_frame_define_group :
    decodeFrame .manager [171, 205, 7, 0, 10, 3, 5, 2, 10, 20, 0, 200, 0, 4, 1, 236, 201]
      = some (.defineGroup man 3 5 [10, 20] 200 4 1, []) := by decide +kernel
theorem test_frame_attach :
    decodeFrame (.access 0) [171, 205, 13, 0, 2, 10, 8, 233, 215] = some (.attach acc ⟨10, 8⟩, []) := by decide +kernel
theorem test_frame_fetch_pending :
    decodeFrame (.access 0) [171, 205, 16, 0, 2, 3, 1, 33, 253] = some (.fetchKeyPending acc 3, []) := by decide +kernel
theorem test_frame_submit_access :
    decodeFrame (.access 0) [171, 205, 17, 0, 7, 3, 0, 9, 0, 2, 65, 66, 26, 7]
      = some (.submitAccess acc 3 9 [65, 66], []) := by decide +kernel
theorem test_frame_submit_subscriber :
    decodeFrame (.access 0) [171, 205, 20, 0, 6, 0, 2, 65, 66, 9, 1, 195, 235]
      = some (.submitSubscriber acc [65, 66] 9 1, []) := by decide +kernel
theorem test_frame_acknowledge_group_alert :
    decodeFrame .manager [171, 205, 24, 0, 2, 3, 7, 178, 83] = some (.acknowledgeGroupAlert man 7, []) := by decide +kernel
theorem test_frame_check_mismatch :
    decodeFrame .manager [171, 205, 21, 0, 0, 99, 17] = some (.framingFailure .manager 21, []) := by decide +kernel

/-- R22: a header with slot code 22 on link 1 carries a unit of programme 14. -/
theorem test_header :
    decodeHeader [71, 182, 29, 232, 22, 1, 0, 5, 0, 0, 8, 0, 0, 0] = some ⟨22, 1, 5, 2048, 0⟩
      ∧ (toSlot 22).map (programmeOf 1) = some 14 := by decide +kernel

/-! ### Worked examples of the spec -/

/-- R5: Q = 38,500,000 and T = 40,000 give an S_min of 751; the bounds give 40 and 3,200. -/
theorem test_guaranteed_budget :
    guaranteedBudget 38500000 40000 = 751 ∧ guaranteedBudget 4096000 20000 = 40
      ∧ guaranteedBudget 81920000 80000 = 3200 := by decide
/-- R6: the first boundary of an order accepted at 5,000,250 µs, and at 5,001,000 µs. -/
theorem test_first_boundary : nextMillisecond 5000250 = 5001000 ∧ nextMillisecond 5001000 = 5002000 := by decide
/-- R25: one cell for 1 to 2,048 bytes, 512 for 1,048,576. -/
theorem test_cells : cellsFor 1 = 1 ∧ cellsFor 2048 = 1 ∧ cellsFor 2049 = 2 ∧ cellsFor 1048576 = 512 := by decide
/-- R94: a restart at 5,300,000,000 µs with a lead of 8 s, and at 5,300,400,000 µs. -/
theorem test_restart_time :
    ceilTo Config.second (5300000000 + 8 * Config.second + Config.extension) = 5309000000
      ∧ ceilTo Config.second (5300400000 + 8 * Config.second + Config.extension) = 5310000000 := by decide

/-- R145: a byte that begins no start mark is discarded, a start mark cut short by the end of the bytes is kept. -/
theorem test_hunt_frame :
    readLine (.access 3) [9, 171, 171, 205, 21, 0, 0, 99, 16, 205, 171] = ([.readTime ⟨.access 3, true⟩], [171]) := by
  decide +kernel
/-- R157: a SEARCHING link looks for the sync mark at every byte position, and an idle mark is none. -/
theorem test_hunt_sync :
    searchLink 2 [182, 71, 182, 29, 0, 71, 182, 29, 232, 22, 1, 0, 5, 0, 0, 8, 0, 0, 0, 7]
      = some (.syncMarkFound 2 ⟨22, 1, 5, 2048, 0⟩, [7]) := by decide +kernel

/-! ### States for the witnesses -/

def upLine : OrderLine := ⟨true, true, none, none, none, none⟩

/-- After power-on, with every line UP and every access port attached. -/
def ready : State :=
  { State.reset with
    manager := { ManagerPort.reset with line := upLine }
    access := Vector.replicate 4 { AccessPort.reset with line := upLine, state := .ready, offer := some ⟨255, 1⟩ }
    attachOrder := [0, 1, 2, 3] }

def def0 : CarrierDef := ⟨4096000, 20000, 8, 40⟩
def oneList : EmissionList := ⟨[], [], [], [], 39⟩

/-- Carrier 0 in a state of service, its boundary due at once. -/
def onCarrier (st : CarrierState) (building : Option EmissionList) (emitting : Option (List Item)) : State :=
  ready.setCarrier 0
    { Carrier.reset with
      definition := some def0
      state := st
      nextBoundary := some 0
      building := building
      emitting := emitting }

def unit0 (kind : UnitKind) : UnitRecord := ⟨0, kind, 500, 1, [7]⟩

/-- Programme 0 in a state, of group 0 or clear, with a queue. -/
def onProgramme (s : State) (st : ProgrammeState) (group : Option GroupNo) (queue : List UnitRecord) : State :=
  s.setProgramme 0
    { Programme.reset with state := st, definition := some ⟨0, group, 1, 0, 10⟩, expected := some 9, queue := queue }

def slotOf (serial : Serial) (key : Key) : KeySlot := ⟨serial, key, Vector.replicate 4 none⟩
def plan0 : Plan := ⟨.s10, 3⟩

/-- Group 0 in a state, with slot A ACTIVE or not, port 0 of a role, its times due. -/
def onGroup (s : State) (st : GroupState) (role : Role) (slotB : Option KeySlot) (active : Option Phase) : State :=
  s.setGroup 0
    { Group.reset with
      state := st
      definition := some ⟨1, [.s10, .s20], 100, 2, .hold⟩
      roles := (Vector.replicate 4 Role.notMember).set 0 role
      plan := ⟨4, .agreed, none, some plan0⟩
      applied := active.map (fun _ => plan0)
      slotA := some (slotOf 0 5)
      slotB := slotB
      active := active
      nextChangeover := some 0
      drawTime := some 0
      startTime := some 0 }

/-- Link 0 LOCKED with a context. -/
def onLink (s : State) (context : Reassembly) : State := s.setLink 0 ⟨true, .locked, context⟩

def partly (received : Nat) : PartialUnit := ⟨0, .anchor, 9, 3000, 1, received, [3]⟩

/-! ### Accepted orders -/

theorem test_ready_accepts_manager : ∀ o : Order, o.forManager = true → ready.Accepts man o := by
  intro o h
  cases o <;> first | exact absurd h (by decide) | decide

theorem test_ready_accepts_access : ∀ o : Order, o.forAccess = true → ready.Accepts acc o := by
  intro o h
  cases o <;> first | exact absurd h (by decide) | decide

/-! ### Witnesses, statement by statement -/

/-- R133: at 4,096,000 bits a second, 500 microseconds carry a slice of 2,048 bits; what is left of a bit stays. -/
theorem test_drain :
    ({ Carrier.reset with definition := some def0, buffer := [fillerSlice], bitsSent := 2043, bitPart := 904000 } :
      Carrier).drain
      = { Carrier.reset with definition := some def0, buffer := [], bitsSent := 0, bitPart := 0 } := by decide +kernel

theorem test_witness_IdleStep :
    (ready.pending = [] ∧ ready.dueEvents = [] ∧ ready.resetLow = false ∧ ready.time < 18446744073709551615)
      ∧ (onCarrier .armed none none).pending = [] ∧ (onCarrier .armed none none).dueEvents = [.boundary 0] := by
  decide

/-- R19, R145: links whose lines carry a signal come up. R155: a restart has completed at 9,999 µs at the latest. -/
theorem test_witness_IdleStep_due :
    ({ ready with links := Vector.replicate 6 ⟨true, .down, .empty⟩ } : State).dueEvents
        = [.signalDetected 0, .signalDetected 1, .signalDetected 2, .signalDetected 3, .signalDetected 4,
          .signalDetected 5]
      ∧ (ready.setLine (.access 2) { upLine with up := false }).dueEvents = [.orderLinkUp (.access 2)]
      ∧ ({ ready with restart := .running true, time := 9999 } : State).restartDue = true := by
  refine ⟨by decide, by decide, ?_⟩
  simp [State.restartDue, Config.restartLimit]

theorem test_witness_FramesJudged :
    orderIn (.readTime ⟨.manager, false⟩) = some (⟨.manager, false⟩, .readTime) ∧ ready.Free .manager
      ∧ ¬ ready.Accepts ⟨.manager, false⟩ .readTime := by decide

theorem test_witness_BusyAndDeafPorts :
    frameOf (.framingFailure .manager 3) = some (.manager, 3, .check) ∧ (State.reset.line .manager).up = false
      ∧ (ready.refuse .manager 9 .check).resetLow = false ∧ (ready.refuse .manager 9 .check).restart = .idle
      ∧ ((ready.refuse .manager 9 .check).line .manager).up = true
      ∧ ((ready.refuse .manager 9 .check).line .manager).busy = true := by decide

/-- Port 0 has lost its link at this station time, with orders of the same time still to be taken. -/
def fallen : State := ready.accessLinkDown 0

theorem test_witness_BusyAndDeafPorts_fell :
    fallen.resetLow = false ∧ fallen.restart = .idle ∧ (fallen.line (.access 0)).up = false
      ∧ (fallen.line (.access 0)).lostAt = some fallen.time ∧ fallen.portDetached (.access 0) = true
      ∧ frameOf (.openBatch acc 0 0) = some (.access 0, Order.openBatch.code, .busy)
      ∧ orderIn (.openBatch acc 0 0) = some (acc, .openBatch)
      ∧ Order.openBatch.allowedOn (.access 0) = true ∧ Order.openBatch.whileDetached = false
      ∧ ({ fallen with time := 1 }.line (.access 0)).lostAt ≠ some 1 := by
  refine ⟨?_, ?_, ?_, ?_, ?_, ?_, ?_, ?_, ?_, ?_⟩ <;> decide +kernel

/-- R132: the order is refused DETACHED after the loss; the refusal is counted and not sent. -/
theorem test_order_fell_with_link :
    fallen.fellWithLoss acc .openBatch = true ∧ fallen.fellWithLoss acc .attach = false
      ∧ ((fallen.takeOrder acc .openBatch (fun s => (s, .done .empty))).port 0).condition.refused = 1
      ∧ ((fallen.takeOrder acc .openBatch (fun s => (s, .done .empty))).port 0).line.sending = none := by
  decide +kernel

theorem test_witness_RefusalChangesNothing :
    orderIn (.readCarrier man 4) = some (man, .readCarrier) ∧ ready.Accepts man .readCarrier
      ∧ exec (.readCarrier man 4) ready = .next (ready.rejected man .readCarrier .range)
      ∧ ((ready.rejected man .readCarrier .range).line .manager).sending
        = some ⟨Order.readCarrier.code, .refused .range⟩ :=
  ⟨rfl, test_ready_accepts_manager _ rfl, rfl, rfl⟩

theorem test_witness_LinesOfPorts :
    ready.restart = .idle ∧ ready.restartPart.restart = .running true ∧ (State.reset.port 3).state = .detached := by
  decide

theorem test_witness_PortLeaves :
    ready.Accepts acc .detach ∧ (ready.port 0).state ≠ .detached
      ∧ (onGroup ready .running .joined none (some .a)).rosterNames 0 0 = true
      ∧ ((onGroup ready .running .joined none (some .a)).group 0).roles[0].active = true
      ∧ ready.rosterNames 31 0 = false := by decide

theorem test_witness_ReadTimeAndStationNumber :
    ready.Free (.access 3) ∧ exec (.replySent .manager) ready = .next (ready.replySent .manager)
      ∧ (∀ straps, Instr.replySent .manager ≠ .powerOn straps)
      ∧ exec (.powerOn 15) ready = .next (ready.powerOn 15) :=
  ⟨by decide, rfl, fun _ h => (by cases h), rfl⟩

theorem test_witness_ReadCondition :
    ready.Free .manager ∧ ready.Free (.access 3) ∧ (ready.setGroupAlert 31 true).Free .manager
      ∧ (ready.setGroupAlert 31 true).manager.flags ≠ [] ∧ (ready.setBatchEnd 3 true).Free (.access 3)
      ∧ ((ready.setBatchEnd 3 true).port 3).flags ≠ [] := by decide

theorem test_witness_PowerOnAndReset : (0 : Nat) ≠ 1 := by decide

theorem test_witness_ReadSummary : ready.Accepts man .readSummary ∧ ready.Accepts acc .readSummary :=
  ⟨test_ready_accepts_manager _ rfl, test_ready_accepts_access _ rfl⟩

theorem test_witness_Acknowledge :
    ready.Accepts acc .acknowledge ∧ ready.Accepts man .acknowledge ∧ (32 ≤ 32 ∧ 4 ≤ 4) :=
  ⟨test_ready_accepts_access _ rfl, test_ready_accepts_manager _ rfl, by decide⟩

theorem test_witness_RestartPart :
    ready.Accepts man .restartPart ∧ ready.restartPart.restart = .running true
      ∧ ready.restartPart.managerLinkDown.restart = .running false ∧ ready.restart = .idle := by decide

theorem test_witness_DefineCarrier : ready.Accepts man .defineCarrier ∧ 4 ≤ 4 := by decide

theorem test_witness_SetCarrierOn :
    ready.Accepts man .setCarrier ∧ (4 ≤ 4 ∨ Selector.named ≠ .named)
      ∧ (4 ≤ 0 ∨ Selector.other 2 ≠ .named) := by decide

theorem test_witness_SetCarrierOff :
    (onCarrier .off none none).Accepts man .setCarrier ∧ ((onCarrier .off none none).carrier 0).state = .off
      ∧ (onCarrier .armed none none).Accepts man .setCarrier
      ∧ ((onCarrier .armed none none).carrier 0).state = .armed
      ∧ (onCarrier .onAir none none).Accepts man .setCarrier
      ∧ ((onCarrier .onAir none none).carrier 0).state = .onAir := by decide

theorem test_witness_SetAllowance :
    ready.Accepts man .setAllowance ∧ (4 ≤ 0 ∨ 4 ≤ 0 ∨ 64 ≤ 64) ∧ 63 < 64 ∧ (ready.carrier 0).definition = none
      ∧ (onCarrier .off none none).Accepts man .setAllowance
      ∧ ((onCarrier .off none none).carrier 0).definition = some def0 := by decide

theorem test_witness_DefineProgramme :
    ready.Accepts man .defineProgramme ∧ (48 ≤ 48 ∨ 4 ≤ 0 ∨ (32 ≤ 0 ∧ 0 ≠ 255))
      ∧ (48 ≤ 47 ∨ 4 ≤ 3 ∨ (32 ≤ 32 ∧ 32 ≠ 255)) ∧ (255 = 255 ∧ (none : Option GroupNo) = none)
      ∧ ∃ n : GroupNo, 31 = n.val ∧ some (31 : GroupNo) = some n :=
  ⟨test_ready_accepts_manager _ rfl, by decide, by decide, by decide, 31, rfl, rfl⟩

/-- Carrier 0 ON_AIR, group 0 RUNNING with a stored packet of port 0, programme 0 IDLE and of the group. -/
def gaining : State :=
  onProgramme
    ((onCarrier .onAir none none).setGroup 0
      { (onGroup ready .running .joined none (some .a)).group 0 with
        slotA := some ⟨0, 5, (Vector.replicate 4 none).set 0 (some ⟨[1, 2], 0⟩)⟩ })
    .idle (some 0) []

theorem test_witness_SetProgrammeLive :
    gaining.Accepts man .setProgramme ∧ (gaining.programme 0).state = .idle ∧ (gaining.programme 1).state ≠ .idle
      ∧ (48 ≤ 48 ∨ Selector.named ≠ .named) ∧ (gaining.programme 0).definition = some ⟨0, some 0, 1, 0, 10⟩
      ∧ (gaining.carrier 0).state = .onAir ∧ gaining.carriesGroup 0 0 = false
      ∧ ((onProgramme ready .idle none []).programme 0).definition.bind (·.group) = none
      ∧ (∀ c : CarrierNo, c = 0 ∨ some (0 : CarrierNo) ≠ some c)
      ∧ ((gaining.group 0).slot .a).bind (fun k => k.packets[0]) = some ⟨[1, 2], 0⟩ := by decide

theorem test_witness_SetProgrammeIdleUnused :
    (onProgramme ready .live none [unit0 .anchor]).Accepts man .setProgramme
      ∧ ((onProgramme ready .live none [unit0 .anchor]).programme 0).state = .live
      ∧ ((onProgramme ready .live none [unit0 .anchor]).programme 1).state = .unused ∧ 48 ≤ 48 := by decide

theorem test_witness_RecordsRead :
    ready.Accepts man .readCarrier ∧ ready.Accepts man .readProgramme ∧ 4 ≤ 4 ∧ 48 ≤ 48 := by decide

theorem test_witness_DefineFreeGroup :
    ready.Accepts man .defineGroup ∧ (32 ≤ 32) ∧ [10, 20] = [Period.s10, .s20].map Period.seconds
      ∧ [Period.s10, .s20] ≠ [] ∧ [Period.s10, .s20].Nodup ∧ (5 : PortSet) ≠ 0
      ∧ (5 : BitVec 8) = (5 : PortSet).setWidth 8 ∧ 100 ≤ 100 ∧ 100 % 10 = 0 ∧ 1 ≤ 60 ∧ 60 ≤ 60
      ∧ 1 = LatePolicy.blank.code ∧ (ready.group 31).state = .free := by decide

/-- Group 0 STARTING, its slot A AIRED: the packet of its one member stored, no carrier to air it on. -/
def starting : State :=
  ready.setGroup 0
    { (onGroup ready .starting .joined none none).group 0 with
      slotA := some ⟨0, 5, (Vector.replicate 4 none).set 0 (some ⟨[1], 0⟩)⟩ }

theorem test_witness_RedefineGroup :
    (onGroup ready .extended .joined none (some .a)).Accepts man .defineGroup
      ∧ ((onGroup ready .extended .joined none (some .a)).group 0).state ≠ .free
      ∧ [Period.s10].Nodup ∧ (1 : PortSet) ≠ 0 ∧ 1000 ≤ 1000 ∧ 1000 % 10 = 0
      ∧ (let s := onGroup ready .starting .joined none none
         (s.group 0).state = .starting ∧ (s.group 0).startTime ≠ none ∧ s.slotState 0 .a ≠ .aired)
      ∧ (starting.group 0).state = .starting ∧ (starting.group 0).startTime ≠ none
      ∧ starting.slotState 0 .a = .aired := by decide

theorem test_witness_ReleaseGroup :
    ready.Accepts man .releaseGroup ∧ 32 ≤ 32 ∧ (ready.group 0).state = .free
      ∧ (onGroup ready .running .joined none (some .a)).Accepts man .releaseGroup
      ∧ ((onGroup ready .running .joined none (some .a)).group 0).state ≠ .free
      ∧ (∀ p, ((onGroup ready .running .joined none (some .a)).programme p).state ≠ .unused →
          ((onGroup ready .running .joined none (some .a)).programme p).definition.bind (·.group) ≠ some 0) := by
  decide

/-- Group 0 EXTENDED with both slots holding keys. -/
def extended : State := onGroup ready .extended .joined (some (slotOf 1 6)) (some .a)

theorem test_witness_RestartGroup :
    ready.Accepts man .restartGroup ∧ 32 ≤ 32 ∧ (ready.group 0).state ≠ .extended ∧ (ready.group 0).state ≠ .frozen
      ∧ extended.Accepts man .restartGroup ∧ (extended.group 0).state = .extended
      ∧ (extended.group 0).active = some .a ∧ (extended.group 0).slot .a = some (slotOf 0 5)
      ∧ (extended.group 0).slot Phase.a.other = some (slotOf 1 6)
      ∧ (extended.group 0).applied = some plan0 := by decide

/-- R109: a plan agreed while the group is deferred, with a lead time of 8 s, gives RESTART GROUP no lead time before a
swap applies it; the plan applied has 3 s. At 0 µs the next changeover becomes 4,000,000 µs. -/
theorem test_restart_before_swap :
    let s := extended.setGroup 0 { extended.group 0 with plan := ⟨5, .agreed, none, some ⟨.s20, 8⟩⟩ }
    ((s.restartGroup 0).group 0).nextChangeover = some 4000000 := by
  intro s
  rw [restartGroup_nextChangeover]
  decide

theorem test_witness_ReadGroup : ready.Accepts man .readGroup ∧ 32 ≤ 32 := by decide

/-- R77: a slot is EMPTY, ISSUED with a JOINED member's packet wanting, AIRED with all of them aired where they must be,
COVERED while a relevant carrier has yet to air one. -/
theorem test_slot_states :
    ready.slotState 0 .a = .empty ∧ extended.slotState 0 .a = .active ∧ extended.slotState 0 .b = .issued
      ∧ starting.slotState 0 .a = .aired
      ∧ (onProgramme ((onCarrier .onAir none none).setGroup 0 (starting.group 0)) .live (some 0) []).slotState 0 .a
        = .covered := by decide

theorem test_witness_FetchKey :
    extended.Accepts acc .fetchKey ∧ (32 ≤ 32 ∨ Selector.named ≠ .named)
      ∧ ((extended.group 0).roles[0] = .joining ∨ (extended.group 0).roles[0] = .joined)
      ∧ (extended.group 0).active = some .a ∧ (extended.group 0).slot .b = some (slotOf 1 6)
      ∧ ¬ ((extended.group 1).roles[0] = .joining ∨ (extended.group 1).roles[0] = .joined)
      ∧ ((onGroup ready .starting .joined none none).group 0).active.bind
          ((onGroup ready .starting .joined none none).group 0).slot = none
      ∧ ((onGroup ready .running .joined none (some .a)).group 0).slot .b = none := by decide

theorem test_witness_SubmitAccess :
    extended.Accepts acc .submitAccess ∧ 32 ≤ 32
      ∧ ((extended.group 0).roles[0] = .joining ∨ (extended.group 0).roles[0] = .joined)
      ∧ (extended.group 0).slot .a = some (slotOf 0 5) ∧ (extended.group 0).active = some .a
      ∧ (extended.group 0).slot .b = some (slotOf 1 6) ∧ (extended.group 0).active = some Phase.b.other
      ∧ (slotOf 0 5).serial ≠ 2 ∧ (slotOf 1 6).serial ≠ 2 ∧ (slotOf 0 5).serial ≠ 1
      ∧ (1 ≤ 744 ∧ 744 ≤ 744) ∧ ¬ (1 ≤ 745 ∧ 745 ≤ 744) := by decide

theorem test_witness_DrawAndStart :
    ((onGroup ready .running .joined none (some .a)).group 0).state = .running
      ∧ ((onGroup ready .running .joined none (some .a)).group 0).drawTime = some 0
      ∧ 0 ≤ (onGroup ready .running .joined none (some .a)).time
      ∧ ((onGroup ready .running .joined none (some .a)).group 0).active = some .a
      ∧ ((onGroup ready .running .joined none (some .a)).group 0).slot .a = some (slotOf 0 5)
      ∧ ((onGroup ready .starting .joined none none).group 0).state = .starting
      ∧ ((onGroup ready .starting .joined none none).group 0).startTime = some 0
      ∧ ((onGroup ready .starting .joined none none).group 0).plan.agreed = some plan0
      ∧ (ready.group 0).state ≠ .running ∧ (ready.group 0).state ≠ .starting := by decide

/-- Group 0 RUNNING, the packet of its one member stored in the pending slot; no carrier to air it on. -/
def airedGroup : State :=
  onGroup ready .running .joined (some ⟨1, 6, (Vector.replicate 4 none).set 0 (some ⟨[1], 0⟩)⟩) (some .a)

theorem test_witness_Changeover :
    (airedGroup.group 0).state = .running ∧ (airedGroup.group 0).nextChangeover = some 0 ∧ 0 ≤ airedGroup.time
      ∧ (airedGroup.group 0).active = some .a ∧ airedGroup.slotState 0 Phase.a.other = .aired
      ∧ (airedGroup.group 0).plan.agreed = some plan0
      ∧ (extended.group 0).state = .extended ∧ extended.slotState 0 Phase.a.other ≠ .aired
      ∧ (extended.group 0).definition = some ⟨1, [.s10, .s20], 100, 2, .hold⟩
      ∧ (ready.group 0).state = .free := by decide

theorem test_witness_Attach : ready.Accepts acc .attach ∧ ready.rosterNames 0 0 = false := by decide

/-- Group 0 PLANNING, its plan 4 proposed to port 0. -/
def proposing : State :=
  ready.setGroup 0
    { Group.reset with
      state := .planning
      definition := some ⟨1, [.s10, .s20], 100, 2, .hold⟩
      roles := (Vector.replicate 4 Role.notMember).set 0 .joining
      plan := ⟨4, .proposed, some plan0, none⟩ }

theorem test_witness_PlanAck :
    proposing.Accepts acc .planAck ∧ (32 ≤ 32 ∨ 256 ≤ 0) ∧ (32 ≤ 31 ∨ 256 ≤ 256) ∧ 4 < 256
      ∧ (255 : LengthMask) ≠ 0 ∧ 1 ≤ 30 ∧ (proposing.group 0).roles[0] = .joining
      ∧ 4 = (proposing.group 0).plan.number.toNat ∧ 5 ≠ (proposing.group 0).plan.number.toNat
      ∧ (proposing.port 0).offer = some ⟨255, 1⟩ ∧ (proposing.port 0).offer ≠ some ⟨255, 30⟩
      ∧ (proposing.group 1).roles[0] ≠ .joining ∧ (proposing.group 0).plan.status = .proposed
      ∧ (∀ q : PortNo, q ≠ 0 → (proposing.group 0).roles[q.val] ≠ .joining) := by decide

theorem test_witness_ProbeGroup :
    ready.Accepts acc .probeGroup ∧ 32 ≤ 32 ∧ (ready.group 0).state = .free := by decide

theorem test_witness_group_fits : (ready.group 0).fits := by
  refine ⟨⟨rfl, rfl⟩, ⟨?_, ?_, ?_, by decide⟩, ?_, ⟨by decide, ?_, fun _ => ⟨rfl, rfl⟩, ?_, ?_⟩, ?_⟩
  · intro p h; cases h
  · intro p h; cases h
  · intro p h; cases h
  · intro ph k h; cases ph <;> cases h
  · intro ph h; cases h
  · intro h; cases h
  · intro ph k q h; cases h
  · intro p
    refine ⟨?_, fun _ => by revert p; decide⟩
    rintro _ ⟨d, h, _⟩; cases h

theorem test_witness_CompatibleSet :
    proposing.compatibleSet ⟨1, [.s10, .s20], 100, 2, .hold⟩ = [0] ∧ (0 : PortNo) ∈ proposing.attachOrder
      ∧ hasItem (3 : PortSet) (1 : PortNo) = true
      ∧ (proposing.setPort 1 { proposing.port 1 with offer := some ⟨1, 1⟩ }).compatibleSet
          ⟨3, [.s10, .s20], 100, 2, .hold⟩ = [0]
      ∧ (proposing.setPort 1 { proposing.port 1 with offer := some ⟨1, 1⟩ }).attachOrder = [0] ++ 1 :: [2, 3]
      ∧ proposing.chosenPlan ⟨1, [.s10, .s20], 100, 2, .hold⟩ [0] = some ⟨.s10, 1⟩
      ∧ [Period.s10, .s20] = [] ++ Period.s10 :: [.s20] := by decide

theorem test_witness_Resolution :
    (proposing.group 0).definition = some ⟨1, [.s10, .s20], 100, 2, .hold⟩ ∧ (proposing.group 0).state ≠ .free
      ∧ (proposing.group 0).state ≠ .starting
      ∧ (starting.group 0).definition = some ⟨1, [.s10, .s20], 100, 2, .hold⟩ ∧ (starting.group 0).state ≠ .free
      ∧ (starting.group 0).startTime ≠ none ∧ starting.slotState 0 .a = .aired := by decide

theorem test_witness_Batches :
    ready.Accepts acc .openBatch ∧ ready.Accepts acc .submitSubscriber ∧ 16 ≤ (16 : BitVec 8).toNat
      ∧ (16 ≤ (15 : BitVec 8).toNat ∨ 1 < 2)
      ∧ (∀ c : CarrierNo, hasItem (1 : CarrierSet) c =
          (hasItem (3 : CarrierSet) c
            && decide (((onCarrier .armed none none).carrier c).state = .armed
              ∨ ((onCarrier .armed none none).carrier c).state = .onAir))) := by decide

theorem test_witness_SubscriberTake :
    ∀ e ∈ ((ready.setPort 0 { ready.port 0 with queue := [⟨[1], 3, false⟩] }).port 0).queue, e.remaining ≠ 0 := by
  decide

theorem test_witness_LinkStates :
    ((onLink ready (.skipping 9)).link 0).state = .locked
      ∧ ((onLink ready (.skipping 9)).link 0).context = .skipping 9
      ∧ ((onLink ready (.receiving (partly 3000))).link 0).context = .receiving (partly 3000)
      ∧ (partly 3000).received = (partly 3000).size ∧ (ready.link 0).state ≠ .locked := by decide

theorem test_witness_HeadersTaken :
    ¬ ((ready.link 0).state = .locked) ∧ (ready.link 0).state ≠ .searching
      ∧ ((onLink ready .empty).link 0).state = .locked ∧ ((onLink ready .empty).link 0).context = .empty
      ∧ ((ready.setLink 0 ⟨true, .searching, .empty⟩).link 0).state = .searching
      ∧ (8 : Byte).toNat ∉ slotCodes.toList ∧ (7 : Byte).toNat = slotCodes[(0 : Fin 8).val]
      ∧ (1 : Byte).toNat = UnitKind.anchor.code ∧ 1 ≤ (1048576 : BitVec 32).toNat
      ∧ (1048576 : BitVec 32).toNat ≤ 1048576 ∧ (0 : ProgrammeNo).val = (0 : LinkNo).val * 8 + (0 : Fin 8).val := by
  decide

/-- Programme 0 is LIVE on an ARMED carrier, and in `ready` it is not. -/
theorem test_witness_admission :
    (onProgramme (onCarrier .armed none none) .live none []).isAdmitted 0 ∧ ¬ ready.isAdmitted 0 :=
  ⟨⟨.inl rfl, ⟨0, none, 1, 0, 10⟩, rfl, .inl rfl⟩, fun h => by
    have h' : ((ready.programme 0).state = .live ∨ (ready.programme 0).state = .resync) := h.1
    exact absurd h' (by decide)⟩

theorem test_witness_CellClaim :
    ((onLink ready (.receiving (partly 2048))).link 0).state = .locked
      ∧ ((onLink ready (.receiving (partly 2048))).link 0).context = .receiving (partly 2048)
      ∧ (partly 2048).received < (partly 2048).size ∧ (partly 2048).received % 2048 = 0 ∧ [(1 : Byte)] ≠ []
      ∧ ({ ready with freeCells := [5] }).freeCells = 5 :: [] ∧ ({ ready with freeCells := [] }).freeCells = []
      ∧ ready.memory.wf = true ∧ (partly 3000).size ≤ (partly 3000).received := by decide

def bridges : List UnitRecord := List.replicate 7 (unit0 .anchor) ++ [unit0 .bridge]

theorem test_witness_UnitCompletion :
    ((onLink ready (.receiving (partly 3000))).link 0).state = .locked
      ∧ ((onLink ready (.receiving (partly 3000))).link 0).context = .receiving (partly 3000)
      ∧ (partly 3000).received = (partly 3000).size ∧ ((onLink ready (.skipping 0)).link 0).context = .skipping 0
      ∧ bridges.length = 8 ∧ bridges = List.replicate 7 (unit0 .anchor) ++ unit0 .bridge :: []
      ∧ (∀ x ∈ List.replicate 7 (unit0 .anchor), x.kind ≠ .bridge)
      ∧ (∀ x ∈ List.replicate 8 (unit0 .anchor), x.kind ≠ .bridge) := by decide

theorem test_witness_Boundary :
    ((onCarrier .armed none none).carrier 0).nextBoundary = some 0 ∧ 0 ≤ (onCarrier .armed none none).time
      ∧ ((onCarrier .armed none none).carrier 0).definition = some def0
      ∧ ((onCarrier .armed none none).carrier 0).state = .armed
      ∧ ((onCarrier .onAir (some oneList) none).carrier 0).state = .onAir
      ∧ ((onCarrier .draining (some oneList) none).carrier 0).state = .draining
      ∧ ((onCarrier .draining (some oneList) none).carrier 0).building = some oneList
      ∧ ((onCarrier .draining none none).carrier 0).building = none
      ∧ (ready.carrier 0).nextBoundary = none := by decide

theorem test_witness_CarouselTake_start : starting.startFits 0 ∧ (starting.group 0).state = .starting := by
  unfold State.startFits; decide

theorem test_witness_CarouselTake :
    ∃ s : State, s.carouselTake 0 8 5 = [⟨0, .a, 0, 1, 5⟩]
      ∧ ((s.group 0).slot .a).bind (fun k => k.packets[0]) = some ⟨[1, 2], 0⟩ :=
  ⟨gaining.setCarrier 0 { gaining.carrier 0 with carousel := [⟨0, .a, 0, 1, 5⟩, ⟨0, .b, 0, 1, 6⟩] }, by decide⟩

/-- Programme 0 in RESYNC on carrier 0, a bridge ahead of an anchor in its queue. -/
def walking (group : Option GroupNo) : State :=
  onProgramme (onCarrier .onAir none none) .resync group [unit0 .bridge, unit0 .anchor]

theorem test_witness_BlankingAndWalk :
    (0 : ProgrammeNo) ∈ (walking none).servedBy 0 ∧ (1 : ProgrammeNo) ∉ (walking none).servedBy 0
      ∧ ((walking none).programme 0).state = .resync
      ∧ ((walking none).programme 0).queue = [unit0 .bridge] ++ [unit0 .anchor]
      ∧ ((walking none).programme 0).definition.bind (·.group) = none
      ∧ ((onGroup (walking (some 0)) .starting .joined none none).programme 0).definition.bind (·.group) = some 0
      ∧ ((onGroup (walking (some 0)) .starting .joined none none).group 0).state = .starting
      ∧ (0 : ProgrammeNo) ∈ (onGroup (walking (some 0)) .starting .joined none none).servedBy 0
      ∧ ((onProgramme (onCarrier .onAir none none) .live none []).programme 0).state = .live := by decide

def cand (kind : UnitKind) (grant : Nat) : Candidate := ⟨0, kind, 1, 0, 3, 1, 1, 3, grant⟩

theorem test_witness_Demotions :
    demotions 0 [cand .anchor 1, cand .bridge 1] = [cand .bridge 1, cand .anchor 1]
      ∧ demotions 1 [cand .anchor 1, cand .bridge 1] = [cand .bridge 1] ++ []
      ∧ ([cand .anchor 1, cand .bridge 1].map (·.grant)).sum ≤ 2
      ∧ ((walking none).programme 0).queue = unit0 .bridge :: [unit0 .anchor]
      ∧ ((walking none).programme 0).held < 2
      ∧ (2 : Nat) ≤ ({ Programme.reset with held := 2 } : Programme).held := by decide

theorem test_witness_EmissionOrder :
    itemsLeft ((onCarrier .onAir none none).itemsOf 0 oneList false) = 40
      ∧ ((onCarrier .onAir (some oneList) none).carrier 0).building = some oneList := by decide

/-- Carrier 0 with a building list of one SHRINKING entry, an interval after the event that made it. -/
def shrinkingEntry : ProgrammeEntry := ⟨none, ⟨0, .anchor, 5000, 1, [1, 2, 3]⟩, 6, 56, .shrinking⟩
def shrinking : State :=
  { (onCarrier .onAir (some { oneList with entries := [shrinkingEntry] }) none).setCarrier 0
      { (onCarrier .onAir (some { oneList with entries := [shrinkingEntry] }) none).carrier 0 with
        nextBoundary := some 20000 } with
    time := 1 }

/-- R64: at the last microsecond before the boundary a completion outstanding is due. -/
theorem test_witness_IdleStep_shrink :
    (shrinking.carrier 0).building = some { oneList with entries := [shrinkingEntry] }
      ∧ (∃ e ∈ [shrinkingEntry], e.state = .shrinking) ∧ 20000 < 19999 + def0.interval
      ∧ ({ shrinking with time := 19999 } : State).shrinkDue 0 = true := by
  refine ⟨by decide, by decide, by decide, ?_⟩
  have h : ({ shrinking with time := 19999 } : State).afterEvent 0 = true
      ∧ 0 < ({ shrinking with time := 19999 } : State).shrinksLeft 0
      ∧ ({ shrinking with time := 19999 } : State).isDue ((({ shrinking with time := 19999 } : State).carrier 0).nextBoundary.map (· - 1)) = true := by
    decide
  simp only [State.shrinkDue, h.1, h.2.1, h.2.2, decide_true, Bool.or_true, Bool.and_self]

/-- Shrinks and slices outstanding at a boundary: both runs have a first event, and both come to their end. -/
theorem test_witness_Boundary_outstanding :
    (shrinking.carrier 0).nextBoundary = some 20000 ∧ 20000 ≤ ({ shrinking with time := 20000 } : State).time
      ∧ (shrinking.carrier 0).building = some { oneList with entries := [shrinkingEntry] }
      ∧ (∃ e ∈ [shrinkingEntry], e.state = .shrinking) ∧ (shrinking.carrier 0).definition = some def0 ∧ 0 < def0.interval
      ∧ ((onCarrier .onAir none (some [.filler 2])).carrier 0).emitting = some (.filler 2 :: [])
      ∧ ((onCarrier .onAir none (some [.filler 2])).carrier 0).buffer.length ≤ 2
      ∧ (((onCarrier .onAir none (some [.filler 2])).endInterval 0).carrier 0).counters.filler = 2 := by decide

/-- A queue whose first entry is scanned and let go, the second left behind in its place (R129). -/
theorem test_witness_SubscriberTake_split :
    let s := (ready.setPort 0 { ready.port 0 with queue := [⟨[1], 2, false⟩, ⟨[2], 3, true⟩, ⟨[3], 1, false⟩] }).setCarrier 0
      { Carrier.reset with allowances := Vector.replicate 4 1 }
    ((s.takeFrom 0 0).2.port 0).queue = [⟨[1], 2, false⟩, ⟨[2], 2, true⟩, ⟨[3], 1, false⟩]
      ∧ (s.takeFrom 0 0).1 = [⟨0, [2], true⟩] := by decide

theorem test_witness_ShrinkCompletion :
    (shrinking.carrier 0).nextBoundary = some 20000 ∧ (shrinking.carrier 0).definition = some def0
      ∧ 20000 < shrinking.time + def0.interval
      ∧ (shrinking.carrier 0).building = some { oneList with entries := [shrinkingEntry] }
      ∧ shrinkingEntry.state = .shrinking ∧ shrinking.memory.wf = true ∧ shrinkingEntry.unit.cells.Nodup
      ∧ (shrinkingEntry.grant * 248 + 2047) / 2048 ≤ shrinkingEntry.unit.cells.length
      ∧ ((onCarrier .onAir (some oneList) none).carrier 0).building = some oneList := by decide

theorem test_witness_SliceEmission :
    ((onCarrier .onAir none (some [.filler 2])).carrier 0).buffer.length < 2
      ∧ ((onCarrier .onAir none (some [.filler 2])).carrier 0).emitting = some (.filler 2 :: [])
      ∧ ((onCarrier .onAir none (some [.programme shrinkingEntry none 5])).carrier 0).emitting
        = some (.programme shrinkingEntry none 5 :: [])
      ∧ ((onCarrier .onAir none (some [.access ⟨0, .a, 0, 0, 1, [1]⟩ 1])).carrier 0).emitting
        = some (.access ⟨0, .a, 0, 0, 1, [1]⟩ 1 :: [])
      ∧ ((onCarrier .onAir none (some [.subscriber ⟨0, [1], true⟩])).carrier 0).emitting
        = some (.subscriber ⟨0, [1], true⟩ :: [])
      ∧ ((onCarrier .onAir none (some [.directory ⟨0, 0, 1, false, []⟩])).carrier 0).emitting
        = some (.directory ⟨0, 0, 1, false, []⟩ :: [])
      ∧ ((onCarrier .onAir none (some [])).carrier 0).emitting = some [] := by decide

/-- Carrier 0 with slices in its buffer, 13 bits of the first sent. -/
def sendingSlice : State :=
  ready.setCarrier 0 { Carrier.reset with definition := some def0, buffer := [fillerSlice], bitsSent := 13 }

theorem test_witness_SlicePayloads :
    fillerSlice.part < 4 ∧ fillerSlice.source < 64 ∧ fillerSlice.parts < 4 ∧ fillerSlice.step < 256
      ∧ fillerSlice.group < 256 ∧ fillerSlice.fill < 256 ∧ (List.replicate 24 (0 : Nat)).length ≤ 24
      ∧ (1 ≤ 1 ∧ 247 < 248) ∧ ((0 : ProgrammeNo) ≠ 47 ∨ (0 : BitVec 4) ≠ 0) ∧ sendingSlice.resetLow = false
      ∧ (ready.carrier 0).buffer = [] ∧ (sendingSlice.carrier 0).buffer = fillerSlice :: []
      ∧ (sendingSlice.carrier 0).bitsSent = 1 * 8 + 5
      ∧ ∃ b, (fillerSlice.header ++ fillerSlice.payload)[1]? = some b := by
  refine ⟨by decide, by decide, by decide, by decide, by decide, by decide, by decide, by decide, by decide, rfl, rfl,
    rfl, rfl, ⟨_, rfl⟩⟩

/-- R133, R158: the header of a filler slice begins 101 00 0 00, and its fill is 0. -/
theorem test_output_level :
    ({ Carrier.reset with buffer := [fillerSlice], bitsSent := 0 } : Carrier).lineBit = true
      ∧ ({ Carrier.reset with buffer := [fillerSlice], bitsSent := 1 } : Carrier).lineBit = false
      ∧ ({ Carrier.reset with buffer := [fillerSlice], bitsSent := 2 } : Carrier).lineBit = true
      ∧ Carrier.reset.lineBit = false := by decide +kernel

theorem test_witness_KeysAreConfined :
    exec (.fetchKeyActive acc 0 .named) extended
        = .next (extended.done acc .fetchKey (.key ⟨0, .a, 0, 5, some 0, 4⟩))
      ∧ (extended.line (.access 0)).sendsKey = false
      ∧ ((extended.done acc .fetchKey (.key ⟨0, .a, 0, 5, some 0, 4⟩)).line (.access 0)).sendsKey = true :=
  ⟨rfl, rfl, rfl⟩

theorem test_witness_KeysAreConfined_waiting : (extended.line (.access 0)).waitsRefusal := by
  intro r h; cases h

theorem test_witness_OrderFramesRoundTrip :
    (Instr.attach acc ⟨10, 30⟩).wf = true ∧ orderBody (.attach acc ⟨10, 30⟩) = some (acc, 13, [10, 30])
      ∧ acc.fits = true ∧ ¬ ([171, 205] : List Byte) <:+: [205, 171] ∧ (1024 < 1025 ∧ 65535 < 65536)
      ∧ (beNat [99, 17] ≠ (frameCheck (21 :: (beBytes 2 0 ++ []))).toNat) := by decide +kernel

/-- R145, R156: a framing failure's reply carries the code as received, result 2, length 0 and the check. -/
theorem test_reply_refused :
    (⟨77, .refused .check⟩ : Reply).bytes = [171, 205, 77, 2, 0, 0] ++ beBytes 2 (frameCheck [77, 2, 0, 0]).toNat
      ∧ (⟨77, .refused .noCarrier⟩ : Reply).bytes.length = 8
      ∧ (⟨21, .done (.time 258 9)⟩ : Reply).bytes.take 15 = [171, 205, 21, 0, 0, 9, 0, 0, 0, 0, 0, 0, 1, 2, 9] := by
  decide +kernel

theorem test_witness_LayoutsOfRecords :
    (⟨77, .refused .check⟩ : Reply).response.body.length < 65536
      ∧ ¬ ([71, 182, 29, 232] : List Byte) <:+: [71, 182, 29, 0, 71, 182] ∧ ([1, 2, 3, 4] : List Byte).length = 4
      ∧ ([1, 2, 3, 4] : List Byte) ≠ [71, 182, 29, 232] ∧ ([1, 2, 3, 4] : List Byte) ≠ [71, 182, 29, 0]
      ∧ (0 : Nat) < 18446744073709551616 := by decide

/-! ### Witnesses of what every step keeps: a state in service -/

/-- Carrier 0 ON_AIR with a programme, nothing in its queue. -/
def serving : State := onProgramme (onCarrier .onAir none none) .live none []

theorem test_witness_recordsFit : serving.recordsFit := by
  refine ⟨⟨?_, ?_, ?_⟩, ?_, ?_⟩
  · intro c d h
    have hc : ∀ c : CarrierNo, (serving.carrier c).definition = none ∨ c = 0 := by decide
    rcases hc c with h' | rfl
    · rw [h'] at h; cases h
    · cases h; decide
  · decide
  · intro p d h
    have hp : ∀ p : ProgrammeNo, (serving.programme p).definition = none ∨ p = 0 := by decide
    rcases hp p with h' | rfl
    · rw [h'] at h; cases h
    · cases h; exact ⟨by decide, def0, rfl, fun h => by cases h⟩
  · unfold State.serviceDefined; decide
  · unfold State.fractionsFit; decide

theorem test_witness_RecordsAreKept : serving.recordsFit ∧ step serving = .next serving.idle :=
  ⟨test_witness_recordsFit, rfl⟩

theorem test_witness_IntervalsAreFilled : serving.recordsFit ∧ (serving.carrier 0).definition = some def0 :=
  ⟨test_witness_recordsFit, rfl⟩

theorem test_witness_queues : serving.queuesFit ∧ serving.sizesFit := by
  unfold State.queuesFit State.sizesFit; decide

theorem test_witness_GrantsOfAList :
    [cand .anchor 1].Pairwise (fun x y => x.programme < y.programme)
      ∧ (∀ x ∈ [cand .anchor 3], x.cap ≤ x.grant) ∧ (∀ x ∈ [cand .anchor 1], x.grant < x.cap)
      ∧ serving.recordsFit ∧ serving.queuesFit ∧ serving.sizesFit
      ∧ ∃ list, ((serving.allocate 0 0).carrier 0).building = some list :=
  ⟨by decide, by decide, by decide, test_witness_recordsFit, test_witness_queues.1, test_witness_queues.2,
    Option.isSome_iff_exists.1 (by decide +kernel)⟩

theorem test_witness_contextsFit : serving.contextsFit := by
  intro l
  have h : ∀ l : LinkNo, (serving.link l).context = .empty := by decide
  exact ⟨fun _ => h l, fun u hu => by rw [h l] at hu; cases hu⟩

theorem test_witness_ListsAreKept : serving.listsFit ∧ step serving = .next serving.idle := by
  refine ⟨⟨test_witness_queues.1, test_witness_queues.2, test_witness_contextsFit, ?_, ?_, ?_, ?_⟩, rfl⟩
  · unfold AccessPort.queueFits; decide
  · unfold State.attachedOnce; decide
  · unfold Carrier.outputFits; decide
  · intro q r h
    have hw : ∀ p : PortNo, (serving.line (.access p)).waiting = none := by decide
    cases q with
    | manager => cases h
    | access p => rw [hw p] at h; cases h

theorem test_witness_GroupsAreKept :
    (∀ g, (serving.group g).fits) ∧ (∀ g, serving.startFits g) ∧ step serving = .next serving.idle := by
  refine ⟨fun g => ?_, by unfold State.startFits; decide, rfl⟩
  have h : serving.group g = ready.group 0 := by revert g; decide
  rw [h]; exact test_witness_group_fits

theorem test_witness_CellsAreKept :
    serving.cellsKept ∧ serving.contextsFit ∧ serving.memory.wf = true ∧ step serving = .next serving.idle := by
  refine ⟨⟨?_, ?_⟩, test_witness_contextsFit, rfl, rfl⟩
  · have h : serving.links.toList.flatMap (fun l => l.context.cells)
        ++ (serving.programmes.toList.flatMap (fun p => unitCells p.queue)
          ++ serving.carriers.toList.flatMap Carrier.cells) = [] := by decide
    have : serving.heldCells = serving.freeCells := by
      unfold State.heldCells; rw [List.append_assoc, List.append_assoc, h, List.append_nil]
    rw [this]; exact .refl _
  · unfold State.listsInService; decide

end Sys2Proof.Tests
end

/-! SUPPORT. What the orders and events leave of the records that admission reads (R3, R4, R11, R14, R38): a relation that
every operation but the manager's own orders keeps, and the two finer relations that the stages of an allocation event and
the output side keep on their carrier. -/

namespace Sys2Proof.Machine

/-! ### Records kept -/

/-- What admission reads of a carrier stays: definition and allowances are the same, a carrier out of service does not come
into service, and the fraction accumulator is the old one or below its divisor. -/
structure Carrier.Kept (k k' : Carrier) : Prop where
  definition : k'.definition = k.definition
  allowances : k'.allowances = k.allowances
  service : k'.state ≠ .off → k.state ≠ .off
  fraction : k'.fraction = k.fraction ∨ k'.fraction < Config.budgetDivisor

/-- What admission reads of a programme stays: the definition, and none becomes UNUSED. -/
structure Programme.Kept (k k' : Programme) : Prop where
  definition : k'.definition = k.definition
  unused : k'.state = .unused → k.state = .unused

/-- The station number, and what admission reads of a state, stay. -/
structure RecordsKept (s t : State) : Prop where
  station : t.stationNumber = s.stationNumber
  carrier : ∀ c, (s.carrier c).Kept (t.carrier c)
  programme : ∀ p, (s.programme p).Kept (t.programme p)

theorem Carrier.Kept.refl (k : Carrier) : k.Kept k := ⟨rfl, rfl, id, .inl rfl⟩

theorem Carrier.Kept.trans {k l m : Carrier} (h : k.Kept l) (h' : l.Kept m) : k.Kept m where
  definition := h'.definition.trans h.definition
  allowances := h'.allowances.trans h.allowances
  service := fun hm => h.service (h'.service hm)
  fraction := h'.fraction.elim (fun e => e ▸ h.fraction) .inr

theorem Programme.Kept.refl (k : Programme) : k.Kept k := ⟨rfl, id⟩

theorem Programme.Kept.trans {k l m : Programme} (h : k.Kept l) (h' : l.Kept m) : k.Kept m :=
  ⟨h'.definition.trans h.definition, fun hm => h.unused (h'.unused hm)⟩

theorem RecordsKept.refl (s : State) : RecordsKept s s := ⟨rfl, fun _ => .refl _, fun _ => .refl _⟩

theorem RecordsKept.trans (s t u : State) (h : RecordsKept s t) (h' : RecordsKept t u) : RecordsKept s u :=
  ⟨h'.station.trans h.station, fun c => (h.carrier c).trans (h'.carrier c),
    fun p => (h.programme p).trans (h'.programme p)⟩

/-- A state with the same station number, carriers and programmes keeps the records. -/
theorem RecordsKept.of_eq {s t : State} (hs : t.stationNumber = s.stationNumber) (hc : t.carriers = s.carriers)
    (hp : t.programmes = s.programmes) : RecordsKept s t where
  station := hs
  carrier c := by rw [show t.carrier c = s.carrier c by simp only [State.carrier, hc]]; exact .refl _
  programme p := by rw [show t.programme p = s.programme p by simp only [State.programme, hp]]; exact .refl _

theorem RecordsKept.setCarrier {s : State} {c : CarrierNo} {k : Carrier} (h : (s.carrier c).Kept k) :
    RecordsKept s (s.setCarrier c k) where
  station := rfl
  carrier d := by
    rw [State.setCarrier_carrier]
    split
    · next hd => exact hd ▸ h
    · exact .refl _
  programme _ := .refl _

theorem RecordsKept.setProgramme {s : State} {p : ProgrammeNo} {k : Programme} (h : (s.programme p).Kept k) :
    RecordsKept s (s.setProgramme p k) where
  station := rfl
  carrier _ := .refl _
  programme q := by
    rw [State.setProgramme_programme]
    split
    · next hq => exact hq ▸ h
    · exact .refl _

theorem AccessOnly.recordsKept {s t : State} : AccessOnly s t → RecordsKept s t := by
  rintro ⟨_, rfl⟩; exact .of_eq rfl rfl rfl

theorem GroupsOnly.recordsKept {s t : State} : GroupsOnly s t → RecordsKept s t := by
  rintro ⟨_, rfl⟩; exact .of_eq rfl rfl rfl

/-- A fold keeps the records that each of its steps keeps. -/
theorem RecordsKept.foldl {α : Type} {f : State → α → State} (h : ∀ s a, RecordsKept s (f s a)) (l : List α) (s : State) :
    RecordsKept s (l.foldl f s) := foldl_rel RecordsKept .refl .trans f h l s

/-- What is done or not done keeps the records that doing it keeps. -/
theorem RecordsKept.ite {s t : State} (b : Prop) [Decidable b] (f : State → State) (h : RecordsKept s t)
    (hf : ∀ u, RecordsKept u (f u)) : RecordsKept s (if b then f t else t) := by
  split
  · exact .trans _ _ _ h (hf t)
  · exact h

/-! ### A carrier at work: allocation stages and the output side -/

/-- From `s` to `t` carrier `c` alone has changed, in its carousel list and its counters; no programme has changed what
admission reads of it. -/
structure StageKept (c : CarrierNo) (s t : State) : Prop where
  station : t.stationNumber = s.stationNumber
  others : ∀ d, d ≠ c → t.carrier d = s.carrier d
  carrier : t.carrier c =
    { s.carrier c with carousel := (t.carrier c).carousel, counters := (t.carrier c).counters }
  programme : ∀ p, (s.programme p).Kept (t.programme p)

/-- From `s` to `t` carrier `c` alone has changed, in its lists, its buffer and its counters; no programme has changed what
admission reads of it, and no port has changed. -/
structure OutputKept (c : CarrierNo) (s t : State) : Prop where
  station : t.stationNumber = s.stationNumber
  others : ∀ d, d ≠ c → t.carrier d = s.carrier d
  carrier : t.carrier c =
    { s.carrier c with
      building := (t.carrier c).building, emitting := (t.carrier c).emitting, emitted := (t.carrier c).emitted,
      buffer := (t.carrier c).buffer, bitsSent := (t.carrier c).bitsSent, counters := (t.carrier c).counters }
  programme : ∀ p, (s.programme p).Kept (t.programme p)
  access : t.access = s.access

section
variable {c : CarrierNo}

theorem StageKept.refl (s : State) : StageKept c s s := ⟨rfl, fun _ _ => rfl, rfl, fun _ => .refl _⟩

theorem StageKept.trans (s t u : State) (h : StageKept c s t) (h' : StageKept c t u) : StageKept c s u where
  station := h'.station.trans h.station
  others d hd := (h'.others d hd).trans (h.others d hd)
  carrier := by rw [h'.carrier, h.carrier]
  programme p := (h.programme p).trans (h'.programme p)

theorem StageKept.recordsKept {s t : State} (h : StageKept c s t) : RecordsKept s t where
  station := h.station
  carrier d := by
    by_cases hd : d = c
    · subst hd; rw [h.carrier]; exact ⟨rfl, rfl, id, .inl rfl⟩
    · rw [h.others d hd]; exact .refl _
  programme := h.programme

theorem StageKept.of_eq {s t : State} (hs : t.stationNumber = s.stationNumber) (hc : t.carriers = s.carriers)
    (hp : t.programmes = s.programmes) : StageKept c s t where
  station := hs
  others d _ := by simp only [State.carrier, hc]
  carrier := by simp only [State.carrier, hc]
  programme := (RecordsKept.of_eq hs hc hp).programme

theorem StageKept.setCarrier (s : State) (list : List CarouselEntry) (n : Counters) :
    StageKept c s (s.setCarrier c { s.carrier c with carousel := list, counters := n }) where
  station := rfl
  others d hd := by simp [hd]
  carrier := by simp
  programme _ := .refl _

theorem StageKept.setProgramme {s : State} {p : ProgrammeNo} {k : Programme} (h : (s.programme p).Kept k) :
    StageKept c s (s.setProgramme p k) where
  station := rfl
  others _ _ := rfl
  carrier := rfl
  programme := (RecordsKept.setProgramme h).programme

theorem OutputKept.refl (s : State) : OutputKept c s s := ⟨rfl, fun _ _ => rfl, rfl, fun _ => .refl _, rfl⟩

theorem OutputKept.trans (s t u : State) (h : OutputKept c s t) (h' : OutputKept c t u) : OutputKept c s u where
  station := h'.station.trans h.station
  others d hd := (h'.others d hd).trans (h.others d hd)
  carrier := by rw [h'.carrier, h.carrier]
  programme p := (h.programme p).trans (h'.programme p)
  access := h'.access.trans h.access

theorem OutputKept.recordsKept {s t : State} (h : OutputKept c s t) : RecordsKept s t where
  station := h.station
  carrier d := by
    by_cases hd : d = c
    · subst hd; rw [h.carrier]; exact ⟨rfl, rfl, id, .inl rfl⟩
    · rw [h.others d hd]; exact .refl _
  programme := h.programme

theorem OutputKept.of_eq {s t : State} (hs : t.stationNumber = s.stationNumber) (hc : t.carriers = s.carriers)
    (hp : t.programmes = s.programmes) (ha : t.access = s.access) : OutputKept c s t where
  station := hs
  others d _ := by simp only [State.carrier, hc]
  carrier := by simp only [State.carrier, hc]
  programme := (RecordsKept.of_eq hs hc hp).programme
  access := ha

theorem OutputKept.setCarrier {s : State} {k : Carrier}
    (h : k = { s.carrier c with
      building := k.building, emitting := k.emitting, emitted := k.emitted, buffer := k.buffer, bitsSent := k.bitsSent,
      counters := k.counters }) : OutputKept c s (s.setCarrier c k) where
  station := rfl
  others d hd := by simp [hd]
  carrier := by simpa using h
  programme _ := .refl _
  access := rfl

theorem OutputKept.setProgramme {s : State} {p : ProgrammeNo} {k : Programme} (h : (s.programme p).Kept k) :
    OutputKept c s (s.setProgramme p k) where
  station := rfl
  others _ _ := rfl
  carrier := rfl
  programme := (RecordsKept.setProgramme h).programme
  access := rfl

end

/-! ### Carousel lists, roles, resolutions -/

theorem setGroup_recordsKept (s : State) (g : GroupNo) (k : Group) : RecordsKept s (s.setGroup g k) := .of_eq rfl rfl rfl

theorem setPort_recordsKept (s : State) (p : PortNo) (k : AccessPort) : RecordsKept s (s.setPort p k) := .of_eq rfl rfl rfl

theorem setGroupAlert_recordsKept (s : State) (g : GroupNo) (v : Bool) : RecordsKept s (s.setGroupAlert g v) :=
  .of_eq rfl rfl rfl

theorem keepEntries_carrier (s : State) (keep : CarouselEntry → Bool) (c : CarrierNo) :
    (s.keepEntries keep).carrier c = { s.carrier c with carousel := (s.carrier c).carousel.filter keep } := by
  simp [State.keepEntries, State.carrier]

theorem keepEntries_recordsKept (s : State) (keep : CarouselEntry → Bool) : RecordsKept s (s.keepEntries keep) where
  station := rfl
  carrier c := by rw [keepEntries_carrier]; exact ⟨rfl, rfl, id, .inl rfl⟩
  programme _ := .refl _

theorem Carrier.place_kept (k : Carrier) (e : CarouselEntry) : k.Kept (k.place e) := ⟨rfl, rfl, id, .inl rfl⟩

theorem placeEverywhere_recordsKept (s : State) (e : CarouselEntry) : RecordsKept s (s.placeEverywhere e) := by
  refine .foldl (fun t c => ?_) _ s
  split
  · exact .setCarrier (Carrier.place_kept _ e)
  · exact .refl t

theorem storePacket_recordsKept (s : State) (g : GroupNo) (ph : Phase) (k : KeySlot) (p : PortNo) (body : List Byte) :
    RecordsKept s (s.storePacket g ph k p body) := by
  unfold State.storePacket
  refine .trans _ _ _ ?_ (recompute_shape _ g).recordsKept
  refine .trans _ _ _ ?_ (placeEverywhere_recordsKept _ _)
  exact setGroup_recordsKept s g _

theorem deleteMemberPackets_recordsKept (s : State) (g : GroupNo) (p : PortNo) :
    RecordsKept s (s.deleteMemberPackets g p) :=
  .trans _ _ _ (setGroup_recordsKept s g _) (keepEntries_recordsKept _ _)

theorem setRole_recordsKept (s : State) (g : GroupNo) (p : PortNo) (r : Role) : RecordsKept s (s.setRole g p r) := by
  unfold State.setRole
  refine .trans _ _ _ ?_ (recompute_shape _ g).recordsKept
  refine .ite _ (fun t => t.setPlanWaiting p g false) ?_ (fun _ => setPort_recordsKept _ _ _)
  refine .ite _ (fun t => t.setKeyWaiting p g true) ?_ (fun _ => setPort_recordsKept _ _ _)
  refine .ite _ (fun t => (t.deleteMemberPackets g p).setKeyWaiting p g false) (setGroup_recordsKept s g _) (fun u => ?_)
  exact .trans _ _ _ (deleteMemberPackets_recordsKept u g p) (setPort_recordsKept _ _ _)

theorem resolve_recordsKept (s : State) (g : GroupNo) : RecordsKept s (s.resolve g) := by
  unfold State.resolve
  dsimp only
  split
  · exact .refl s
  · split
    · exact .refl s
    · refine .ite _ (fun t => t.setGroupAlert g true) ?_ (fun _ => setGroupAlert_recordsKept _ _ _)
      refine .trans _ _ _ ?_ (setGroup_recordsKept _ g _)
      refine .trans _ _ _ ?_ (raisePlanWaiting_shape _ g).recordsKept
      refine .trans _ _ _ ?_ (raiseExcluded_shape _ _ _ _).recordsKept
      exact .foldl (fun t p => setRole_recordsKept t g p _) _ s

theorem resolveFor_recordsKept (s : State) (p : PortNo) : RecordsKept s (s.resolveFor p) :=
  .foldl (fun t g => .ite _ (fun u => u.resolve g) (.refl t) (fun u => resolve_recordsKept u g)) _ s

theorem leaveGroups_recordsKept (s : State) (p : PortNo) : RecordsKept s (s.leaveGroups p) :=
  .foldl (fun t g => .ite _ (fun u => u.setRole g p .absent) (.refl t) (fun u => setRole_recordsKept u g p _)) _ s

theorem detachPort_recordsKept (s : State) (p : PortNo) : RecordsKept s (s.detachPort p) := by
  unfold State.detachPort
  refine .trans _ _ _ ?_ (resolveFor_recordsKept _ p)
  refine .trans _ _ _ ?_ (setPort_recordsKept _ p _)
  refine .trans _ _ _ ?_ (leaveGroups_recordsKept _ p)
  exact .of_eq rfl rfl rfl

/-! ### Keys and groups -/

theorem drawPending_recordsKept (s : State) (g : GroupNo) (serial : Serial) :
    RecordsKept s (s.drawPending g serial) := by
  obtain ⟨_, _, _, h⟩ := drawPending_shape s g serial
  rw [h]; exact .of_eq rfl rfl rfl

theorem drawEvent_recordsKept (s : State) (g : GroupNo) : RecordsKept s (s.drawEvent g) := by
  unfold State.drawEvent
  dsimp only
  split
  · exact .trans _ _ _ (drawPending_recordsKept s g _) (setGroup_recordsKept _ g _)
  · exact .refl s

theorem startEvent_recordsKept (s : State) (g : GroupNo) : RecordsKept s (s.startEvent g) := by
  unfold State.startEvent
  dsimp only
  split
  · exact .trans _ _ _ (setGroup_recordsKept s g _) (clearKeyWaiting_shape _ g).recordsKept
  · exact .refl s

theorem swapSlots_recordsKept (s : State) (g : GroupNo) : RecordsKept s (s.swapSlots g) :=
  .trans _ _ _ (.trans _ _ _ (setGroup_recordsKept s g _) (keepEntries_recordsKept _ _))
    (clearKeyWaiting_shape _ g).recordsKept

theorem deferChangeover_recordsKept (s : State) (g : GroupNo) : RecordsKept s (s.deferChangeover g) := by
  unfold State.deferChangeover
  dsimp only
  refine .ite _ (fun t => t.addGroupFrozen g) ?_ (fun _ => .of_eq rfl rfl rfl)
  refine .trans _ _ _ ?_ (setGroupAlert_recordsKept _ g true)
  exact .trans _ _ _ (setGroup_recordsKept s g _) (raiseLate_shape _ g).recordsKept

theorem changeover_recordsKept (s : State) (g : GroupNo) : RecordsKept s (s.changeover g) := by
  unfold State.changeover
  dsimp only
  split
  · split
    · exact swapSlots_recordsKept s g
    · exact deferChangeover_recordsKept s g
  · exact .refl s

theorem firstAgreement_recordsKept (s : State) (g : GroupNo) : RecordsKept s (s.firstAgreement g) := by
  obtain ⟨_, _, h, -⟩ := drawKey_spec s none
  unfold State.firstAgreement
  rw [h]
  refine .trans _ _ _ ?_ (raiseKeyWaiting_shape _ g).recordsKept
  refine .trans _ _ _ ?_ (recompute_shape _ g).recordsKept
  exact .of_eq rfl rfl rfl

theorem agree_recordsKept (s : State) (g : GroupNo) : RecordsKept s (s.agree g) :=
  .ite _ (fun u => u.firstAgreement g) (setGroup_recordsKept s g _) (fun u => firstAgreement_recordsKept u g)

theorem join_recordsKept (s : State) (g : GroupNo) (p : PortNo) : RecordsKept s (s.join g p) := by
  refine .ite _ (fun t => t.agree g) ?_ (fun u => agree_recordsKept u g)
  exact .trans _ _ _ (setRole_recordsKept s g p _) (setPort_recordsKept _ _ _)

theorem changeRoster_recordsKept (s : State) (g : GroupNo) (roster : PortSet) :
    RecordsKept s (s.changeRoster g roster) :=
  .foldl (fun t p => by
    dsimp only
    split <;> split
    · exact setRole_recordsKept t g p _
    · exact .refl t
    · exact .refl t
    · exact setRole_recordsKept t g p _) _ s

theorem changeLimit_recordsKept (s : State) (g : GroupNo) (limit : Nat) : RecordsKept s (s.changeLimit g limit) := by
  unfold State.changeLimit
  dsimp only
  split
  · split <;> exact .of_eq rfl rfl rfl
  · exact .of_eq rfl rfl rfl
  · exact .of_eq rfl rfl rfl

theorem redefine_recordsKept (s : State) (g : GroupNo) (d : GroupDef) : RecordsKept s (s.redefine g d) :=
  .trans _ _ _ (.trans _ _ _ (setGroup_recordsKept s g _) (changeRoster_recordsKept _ g _))
    (changeLimit_recordsKept _ g _)

theorem release_recordsKept (s : State) (g : GroupNo) : RecordsKept s (s.release g) := by
  unfold State.release
  dsimp only
  refine .trans _ _ _ ?_ (.foldl (fun t p => ?_) _ _)
  · exact .trans _ _ _ (setGroup_recordsKept s g _) (keepEntries_recordsKept _ _)
  · exact .trans _ _ _ (setPort_recordsKept t p _) (setPort_recordsKept _ p _)

theorem restartGroup_recordsKept (s : State) (g : GroupNo) : RecordsKept s (s.restartGroup g) :=
  .trans _ _ _ (.trans _ _ _ (keepEntries_recordsKept s _) (drawPending_recordsKept _ g _)) (setGroup_recordsKept _ g _)

end Sys2Proof.Machine

/-! SUPPORT. The allocation event, the output side and the boundaries: what each leaves of the carriers and of the
programme records (R37 to R59, R62 to R66, R133, R7, R9). -/

namespace Sys2Proof.Machine

/-! ### Allocation stages -/

section
variable {c : CarrierNo}

theorem StageKept.foldl {α : Type} {f : State → α → State} (h : ∀ s a, StageKept c s (f s a)) (l : List α) (s : State) :
    StageKept c s (l.foldl f s) := foldl_rel (StageKept c) .refl .trans f h l s

theorem GroupsOnly.stageKept {s t : State} : GroupsOnly s t → StageKept c s t := by
  rintro ⟨_, rfl⟩; exact .of_eq rfl rfl rfl

theorem AccessOnly.stageKept {s t : State} : AccessOnly s t → StageKept c s t := by
  rintro ⟨_, rfl⟩; exact .of_eq rfl rfl rfl

theorem Programme.kept_resync (k : Programme) (d : Option (BitVec 16)) (n : Nat) (cc : BitVec 4) (q : List UnitRecord) :
    k.Kept ⟨.resync, k.definition, d, n, cc, q⟩ := ⟨rfl, nofun⟩

theorem freeUp_stageKept (s : State) (cells : List CellNo) : StageKept c s (s.freeUp cells) := .of_eq rfl rfl rfl

theorem emptyQueue_stageKept (s : State) (p : ProgrammeNo) : StageKept c s (s.emptyQueue p) := by
  refine .trans _ _ _ ?_ (freeUp_stageKept _ _)
  exact .setProgramme ⟨rfl, id⟩

theorem dropHead_stageKept (s : State) (p : ProgrammeNo) : StageKept c s (s.dropHead p) := by
  refine .trans _ _ _ ?_ (freeUp_stageKept _ _)
  exact .setProgramme ⟨rfl, id⟩

theorem countResync_stageKept (s : State) (n : Nat) : StageKept c s (s.countResync c n) := .setCarrier s _ _

theorem modCounters_stageKept (s : State) (f : Counters → Counters) : StageKept c s (s.modCounters c f) :=
  .setCarrier s _ _

theorem gainGroup_stageKept (s : State) (g : GroupNo) (due : Time) : StageKept c s (s.gainGroup c g due) := by
  have place : ∀ (l : List CarouselEntry) (k : Carrier),
      l.foldl Carrier.place k = { k with carousel := (l.foldl Carrier.place k).carousel } := by
    intro l k
    exact foldl_rel (fun k l : Carrier => l = { k with carousel := l.carousel }) (fun _ => rfl)
      (fun _ _ _ h h' => by rw [h', h]) _ (fun _ _ => rfl) l k
  unfold State.gainGroup
  rw [place]
  exact .setCarrier s _ _

theorem gainGroups_stageKept (s : State) (b : Time) : StageKept c s (s.gainGroups c b) := by
  refine .foldl (fun t g => ?_) _ s
  split
  · exact gainGroup_stageKept t g b
  · exact .refl t

theorem takeEntry_stageKept (b : Time) (acc : List AccessCopy × State) (e : CarouselEntry) :
    StageKept c acc.2 (takeEntry c b acc e).2 := by
  unfold takeEntry
  refine .trans _ _ _ ?_ (reportAiring_shape _ _ _ _ _).stageKept
  exact .setCarrier _ _ _

theorem accessTake_stageKept (s : State) (b : Time) : StageKept c s (s.accessTake c b).2 :=
  foldl_rel (fun x y : List AccessCopy × State => StageKept c x.2 y.2) (fun _ => .refl _) (fun _ _ _ => .trans _ _ _) _
    (takeEntry_stageKept b) _ ([], s)

theorem blank_stageKept (v : Event) (p : ProgrammeNo) : StageKept c v.state (v.blank c p).state := by
  unfold Event.blank
  refine .trans _ _ _ ?_ (.setProgramme (Programme.kept_resync _ _ _ _ _))
  exact .trans _ _ _ (emptyQueue_stageKept _ p) (countResync_stageKept _ _)

theorem walk_stageKept (v : Event) (p : ProgrammeNo) : StageKept c v.state (v.walk c p).state := by
  unfold Event.walk
  refine .trans _ _ _ ?_ (countResync_stageKept _ _)
  refine .trans _ _ _ ?_ (freeUp_stageKept _ _)
  refine .setProgramme ⟨rfl, fun h => ?_⟩
  dsimp only at h
  split at h <;> cases h

theorem stage3_stageKept (v : Event) (p : ProgrammeNo) : StageKept c v.state (Event.stage3 c v p).state := by
  unfold Event.stage3
  dsimp only
  split
  · split
    · exact blank_stageKept v p
    · split
      · exact walk_stageKept v p
      · exact .refl _
  · exact .refl _

theorem demote_stageKept (v : Event) (x : Candidate) : StageKept c v.state (Event.demote c v x).state := by
  have drop : ∀ (p : ProgrammeNo) (f : Counters → Counters),
      StageKept c v.state ((v.state.dropHead p).modCounters c f) :=
    fun p f => .trans _ _ _ (dropHead_stageKept _ p) (modCounters_stageKept _ f)
  unfold Event.demote Event.dropBridge Event.dropForward Event.holdAnchor Event.discardAnchor
  split
  · dsimp only
    exact drop x.programme _
  · exact .trans _ _ _ (drop x.programme _) (.setProgramme (Programme.kept_resync _ _ _ _ _))
  · split
    · refine .trans _ _ _ ?_ (.setProgramme ⟨rfl, id⟩)
      exact modCounters_stageKept _ _
    · exact .trans _ _ _ (drop x.programme _) (.setProgramme (Programme.kept_resync _ _ _ _ _))

theorem clearHeld_stageKept (s : State) (x : Candidate) : StageKept c s (clearHeld s x) := by
  unfold clearHeld
  split
  · exact .setProgramme ⟨rfl, id⟩
  · exact .refl s

theorem leaveQueue_stageKept (s : State) (x : Candidate) : StageKept c s (s.leaveQueue x) := .setProgramme ⟨rfl, id⟩

theorem Event.foldl_stageKept {α : Type} {f : Event → α → Event} (h : ∀ v a, StageKept c v.state (f v a).state)
    (l : List α) (v : Event) : StageKept c v.state (l.foldl f v).state :=
  foldl_rel (fun v w : Event => StageKept c v.state w.state) (fun _ => .refl _) (fun _ _ _ => .trans _ _ _) f h l v

theorem select_stageKept (v : Event) (pool : Nat) : StageKept c v.state (v.select c pool).1.state := by
  unfold Event.select
  dsimp only
  refine .trans _ _ _ ?_ (.foldl clearHeld_stageKept _ _)
  exact .trans _ _ _ (Event.foldl_stageKept stage3_stageKept _ v) (Event.foldl_stageKept demote_stageKept _ _)

/-- What an allocation event leaves of the state but for the alert flags: the stages, then the event's own record on its
carrier, F taken below its divisor (R38, R57, R59). -/
theorem allocate_spec (s : State) (c : CarrierNo) (b : Time) :
    ∃ u rotate degraded list, StageKept c s u
      ∧ (s.allocate c b).stationNumber = u.stationNumber
      ∧ (s.allocate c b).programmes = u.programmes
      ∧ (s.allocate c b).carriers = (u.setCarrier c
          { u.carrier c with
            fraction := (s.carrier c).newFraction, rotate := rotate, degraded := degraded,
            building := some list }).carriers := by
  unfold State.allocate
  have hA := accessTake_stageKept (c := c) s b
  generalize s.accessTake c b = A at hA ⊢
  obtain ⟨access, s₁⟩ := A
  have hB := (subscriberTake_shape s₁ c).stageKept (c := c)
  dsimp only at hA ⊢
  generalize s₁.subscriberTake c = B at hB ⊢
  obtain ⟨subs, s₂⟩ := B
  have hV := select_stageKept (c := c) ⟨s₂, s.directoryRecord c, false⟩
    ((s.carrier c).budget - 1 - accessSlices access - subs.length)
  dsimp only at hB hV ⊢
  generalize Event.select ⟨s₂, s.directoryRecord c, false⟩ c
    ((s.carrier c).budget - 1 - accessSlices access - subs.length) = V at hV ⊢
  obtain ⟨v, survivors⟩ := V
  dsimp only at hV ⊢
  generalize divide _ _ survivors = D
  obtain ⟨filler, rotate, granted⟩ := D
  have hQ := StageKept.foldl (c := c) leaveQueue_stageKept granted v.state
  refine ⟨granted.foldl State.leaveQueue v.state, rotate, v.degraded,
    ⟨v.directory, access, subs, granted.filterMap v.state.entryOf, filler⟩,
    .trans _ _ _ hA (.trans _ _ _ hB (.trans _ _ _ hV hQ)), ?_, ?_, ?_⟩
  · dsimp only
    split <;> rfl
  · dsimp only
    split <;> rfl
  · dsimp only
    split <;> rfl

/-- An allocation event changes no other carrier (R37). -/
theorem allocate_carrier_ne (s : State) {c d : CarrierNo} (b : Time) (hd : d ≠ c) :
    (s.allocate c b).carrier d = s.carrier d := by
  obtain ⟨u, r, dg, list, hu, -, -, hc⟩ := allocate_spec s c b
  rw [← hu.others d hd, ← State.setCarrier_ne u c _ d hd]
  exact congrArg (·[d.val]) hc

/-- What an allocation event writes on its carrier: the list it builds, F, the rotate pointer, the degraded flag, the
carousel's due times and the counters (R38, R55, R57, R59, R119). -/
theorem allocate_carrier (s : State) (c : CarrierNo) (b : Time) :
    ∃ carousel counters rotate degraded list,
      (s.allocate c b).carrier c =
        { s.carrier c with
          carousel := carousel, counters := counters, fraction := (s.carrier c).newFraction, rotate := rotate,
          degraded := degraded, building := some list } := by
  obtain ⟨u, r, dg, list, hu, -, -, hc⟩ := allocate_spec s c b
  have h : (s.allocate c b).carrier c = _ := (congrArg (·[c.val]) hc).trans (State.setCarrier_self u c _)
  rw [hu.carrier] at h
  exact ⟨_, _, _, _, _, h⟩

theorem allocate_recordsKept (s : State) (c : CarrierNo) (b : Time) : RecordsKept s (s.allocate c b) where
  station := by
    obtain ⟨u, _, _, _, hu, hn, -⟩ := allocate_spec s c b
    exact hn.trans hu.station
  carrier d := by
    by_cases hd : d = c
    · subst hd
      obtain ⟨_, _, _, _, _, h⟩ := allocate_carrier s d b
      rw [h]
      exact ⟨rfl, rfl, id, .inr (Nat.mod_lt _ (by decide))⟩
    · rw [allocate_carrier_ne s b hd]; exact .refl _
  programme p := by
    obtain ⟨u, _, _, _, hu, -, hp, -⟩ := allocate_spec s c b
    rw [show (s.allocate c b).programme p = u.programme p from congrArg (·[p.val]) hp]
    exact hu.programme p

/-! ### The output side -/

theorem OutputKept.foldl {α : Type} {f : State → α → State} (h : ∀ s a, OutputKept c s (f s a)) (l : List α) (s : State) :
    OutputKept c s (l.foldl f s) := foldl_rel (OutputKept c) .refl .trans f h l s

theorem freeUp_outputKept (s : State) (cells : List CellNo) : OutputKept c s (s.freeUp cells) :=
  .of_eq rfl rfl rfl rfl

theorem setMemory_outputKept (s : State) (m : Memory) : OutputKept c s { s with memory := m } :=
  .of_eq rfl rfl rfl rfl

theorem shrinkNext_outputKept (s : State) : OutputKept c s (s.shrinkNext c) := by
  unfold State.shrinkNext
  split
  · exact .refl s
  · split
    · exact .refl s
    · unfold State.shrinkEntry
      refine .trans _ _ _ ?_ (freeUp_outputKept _ _)
      refine .trans _ _ _ ?_ (.setCarrier rfl)
      exact setMemory_outputKept s _

theorem shrinkTimes_outputKept : ∀ (n : Nat) (s : State), OutputKept c s (State.shrinkTimes n s c)
  | 0, s => .refl s
  | n + 1, s => .trans _ _ _ (shrinkNext_outputKept s) (shrinkTimes_outputKept n _)

theorem finishShrinks_outputKept (s : State) : OutputKept c s (s.finishShrinks c) := shrinkTimes_outputKept _ s

theorem pushSlice_outputKept (s : State) (slice : Slice) (rest : List Item) :
    OutputKept c s (s.pushSlice c slice rest) := .setCarrier rfl

theorem pushLast_outputKept (s : State) (slice : Slice) (rest : List Item) (copy : EmittedCopy) :
    OutputKept c s (s.pushLast c slice rest copy) := .setCarrier rfl

theorem emitProgramme_outputKept (s : State) (e : ProgrammeEntry) (capture : Option (Phase × Key)) (sent : Nat)
    (rest : List Item) : OutputKept c s (s.emitProgramme c e capture sent rest) := by
  unfold State.emitProgramme
  dsimp only
  split
  · refine .trans _ _ _ ?_ (pushSlice_outputKept _ _ _)
    exact .setProgramme ⟨rfl, id⟩
  · refine .trans _ _ _ ?_ (freeUp_outputKept _ _)
    refine .trans _ _ _ ?_ (pushSlice_outputKept _ _ _)
    exact .setProgramme ⟨rfl, id⟩

theorem emitSlice_outputKept (s : State) : OutputKept c s (s.emitSlice c) := by
  unfold State.emitSlice
  split
  · exact .refl s
  · exact .refl s
  · exact pushSlice_outputKept s _ _
  · split
    · exact pushSlice_outputKept s _ _
    · exact pushLast_outputKept s _ _ _
  · exact pushLast_outputKept s _ _ _
  · exact emitProgramme_outputKept s _ _ _ _
  · exact .trans _ _ _ (pushSlice_outputKept s _ _) (.setCarrier rfl)

theorem makeRoom_outputKept (s : State) : OutputKept c s (s.makeRoom c) := by
  unfold State.makeRoom
  dsimp only
  split
  · exact .refl s
  · exact .setCarrier rfl

theorem emitTimes_outputKept : ∀ (n : Nat) (s : State), OutputKept c s (State.emitTimes n s c)
  | 0, s => .refl s
  | n + 1, s => by
      unfold State.emitTimes
      split
      · exact .trans _ _ _ (.trans _ _ _ (makeRoom_outputKept s) (emitSlice_outputKept _)) (emitTimes_outputKept n _)
      · exact .refl s

theorem endInterval_outputKept (s : State) : OutputKept c s (s.endInterval c) :=
  .trans _ _ _ (emitTimes_outputKept _ s) (.setCarrier rfl)

theorem beginInterval_outputKept (s : State) (final : Bool) : OutputKept c s (s.beginInterval c final) := by
  unfold State.beginInterval
  split
  · exact .refl s
  · exact .trans _ _ _ (.setCarrier rfl) (freeUp_outputKept _ _)

end

/-! ### Boundaries, and a carrier becoming OFF -/

theorem nextInterval_recordsKept (s : State) (c : CarrierNo) (final : Bool) :
    RecordsKept s (s.nextInterval c final) := by
  unfold State.nextInterval
  refine .trans _ _ _ ?_ (beginInterval_outputKept _ final).recordsKept
  refine .trans _ _ _ ?_ (.setCarrier ⟨rfl, rfl, id, .inl rfl⟩)
  exact .trans _ _ _ (finishShrinks_outputKept s).recordsKept (endInterval_outputKept _).recordsKept

theorem advance_recordsKept (s : State) (c : CarrierNo) (b : Time) : RecordsKept s (s.advance c b) :=
  .setCarrier ⟨rfl, rfl, id, .inl rfl⟩

theorem stopProgramme_recordsKept (s : State) (p : ProgrammeNo) : RecordsKept s (s.stopProgramme p) :=
  .trans _ _ _ (emptyQueue_stageKept (c := 0) s p).recordsKept (.setProgramme (Programme.kept_resync _ _ _ _ _))

theorem clearAired_recordsKept (s : State) (c : CarrierNo) : RecordsKept s (s.clearAired c) := .of_eq rfl rfl rfl

theorem trimQueues_recordsKept (s : State) (c : CarrierNo) : RecordsKept s (s.trimQueues c) := .of_eq rfl rfl rfl

theorem carrierOff_recordsKept (s : State) (c : CarrierNo) : RecordsKept s (s.carrierOff c) := by
  unfold State.carrierOff
  refine .trans _ _ _ ?_ (recomputeAll_shape _).recordsKept
  refine .trans _ _ _ (.trans _ _ _ ?_ (trimQueues_recordsKept _ c)) (clearAired_recordsKept _ c)
  refine .trans _ _ _ ?_ (.setCarrier ⟨rfl, rfl, fun h => absurd rfl h, .inl rfl⟩)
  exact .foldl stopProgramme_recordsKept _ s

theorem firstBoundary_recordsKept (s : State) (c : CarrierNo) (b : Time) (h : (s.carrier c).state = .armed) :
    RecordsKept s (s.firstBoundary c b) := by
  unfold State.firstBoundary
  refine .trans _ _ _ ?_ (advance_recordsKept _ c b)
  refine .trans _ _ _ ?_ (allocate_recordsKept _ c b)
  refine .trans _ _ _ ?_ (recomputeAll_shape _).recordsKept
  refine .trans _ _ _ ?_ (gainGroups_stageKept _ b).recordsKept
  refine .trans _ _ _ ?_ (.setCarrier ⟨rfl, rfl, id, .inl rfl⟩)
  exact .setCarrier ⟨rfl, rfl, fun _ => by rw [h]; decide, .inl rfl⟩

theorem boundary_recordsKept (s : State) (c : CarrierNo) : RecordsKept s (s.boundary c) := by
  unfold State.boundary
  split
  · next b _ =>
      split
      · unfold State.takeBoundary
        split
        · exact .refl s
        · next h => exact firstBoundary_recordsKept s c b h
        · exact .trans _ _ _ (.trans _ _ _ (nextInterval_recordsKept s c false) (allocate_recordsKept _ c b))
            (advance_recordsKept _ c b)
        · unfold State.drainBoundary
          split
          · exact .trans _ _ _ (nextInterval_recordsKept s c true) (advance_recordsKept _ c b)
          · exact .trans _ _ _ (endInterval_outputKept s).recordsKept (carrierOff_recordsKept _ c)
      · exact .refl s
  · exact .refl s

end Sys2Proof.Machine

/-! SUPPORT. The manager's orders on carriers and programmes, each as one equation in the words of the statements: what it
checks, what it writes, what it answers (R4 to R18). -/

namespace Sys2Proof.Machine

/-! ### Operands -/

/-- A record number in range stands for the record. -/
@[simp] theorem toIndex_val {n : Nat} (i : Fin n) : toIndex n i.val = some i := by simp [toIndex]

theorem toIndex_none {n v : Nat} (h : n ≤ v) : toIndex n v = none := by simp [toIndex, Nat.not_lt.2 h]

@[simp] theorem toCarrier_val (c : CarrierNo) : toCarrier c.val = some c := toIndex_val c
@[simp] theorem toPort_val (p : PortNo) : toPort p.val = some p := toIndex_val p
@[simp] theorem toProgramme_val (p : ProgrammeNo) : toProgramme p.val = some p := toIndex_val p
theorem toCarrier_none {v : Nat} (h : 4 ≤ v) : toCarrier v = none := toIndex_none h
theorem toPort_none {v : Nat} (h : 4 ≤ v) : toPort v = none := toIndex_none h
theorem toProgramme_none {v : Nat} (h : 48 ≤ v) : toProgramme v = none := toIndex_none h

theorem toIndex_some {n v : Nat} {i : Fin n} (h : toIndex n v = some i) : v = i.val := by
  unfold toIndex at h
  split at h
  · exact (congrArg Fin.val (Option.some.inj h)).symm ▸ rfl
  · cases h

/-- A group number in range, and 255 for clear, stand for the group named (R14, R156). -/
theorem toGroupOrClear_of {group : Nat} {g : Option GroupNo}
    (h : group = 255 ∧ g = none ∨ ∃ n : GroupNo, group = n.val ∧ g = some n) : toGroupOrClear group = some g := by
  rcases h with ⟨rfl, rfl⟩ | ⟨n, rfl, rfl⟩
  · rfl
  · have hn : n.val ≠ 255 := by omega
    simp [toGroupOrClear, hn, toGroup]

theorem toGroupOrClear_none {group : Nat} (h : 32 ≤ group) (h' : group ≠ 255) : toGroupOrClear group = none := by
  simp [toGroupOrClear, h', toGroup, toIndex_none h]

/-! ### Admission (R11) -/

theorem Programme.names_iff (k : Programme) (c : CarrierNo) :
    k.names c = decide (k.state ≠ .unused ∧ k.definition.map (·.carrier) = some c) := by
  unfold Programme.names
  cases k.definition with
  | none => simp
  | some d => simp [bne, Bool.beq_eq_decide_eq]

theorem programmesOf_eq_naming (s : State) (c : CarrierNo) : s.programmesOf c = s.naming c := by
  simp only [State.programmesOf, State.naming, Programme.names_iff]

theorem mem_naming {s : State} {c : CarrierNo} {p : ProgrammeNo} :
    p ∈ s.naming c ↔ (s.programme p).state ≠ .unused ∧ (s.programme p).definition.map (·.carrier) = some c := by
  simp [State.naming]

theorem committedWith_eq (s : State) (c : CarrierNo) (reserve : Nat) :
    s.committedWith c reserve = s.committedTotal c reserve := by
  unfold State.committedWith State.committedTotal State.floorSum
  rw [programmesOf_eq_naming]
  congr 2
  exact List.map_congr_left fun p _ => by cases (s.programme p).definition <;> rfl

theorem scrambledOn_eq (s : State) (c : CarrierNo) : s.scrambledOn c = s.scrambles c := by
  unfold State.scrambledOn State.scrambles Programme.group
  rw [programmesOf_eq_naming]
  congr 1
  funext p
  cases (s.programme p).definition <;> rfl

/-- The committed total and the admission check of a defined carrier (R11). -/
theorem committed_eq {s : State} {c : CarrierNo} {d : CarrierDef} (h : (s.carrier c).definition = some d) :
    s.committed c = some (s.committedTotal c d.reserve) := by
  simp [State.committed, h, committedWith_eq]

theorem admits_eq {s : State} {c : CarrierNo} {d : CarrierDef} (h : (s.carrier c).definition = some d) :
    s.admits c = decide (s.committedTotal c d.reserve ≤ d.guaranteed) := by
  simp [State.admits, h, committedWith_eq]

/-- What a carrier's definition says is no part of its committed total (R11). -/
theorem committedTotal_setCarrier_definition (s : State) (c : CarrierNo) (d : Option CarrierDef) (reserve : Nat) :
    (s.setCarrier c { s.carrier c with definition := d }).committedTotal c reserve = s.committedTotal c reserve := by
  unfold State.committedTotal
  rw [State.setCarrier_self]
  rfl

/-! ### Orders on carriers -/

theorem defineCarrier_eq (c : CarrierNo) (q t a : Nat) (s : State) :
    defineCarrier c.val q t a s =
      if ¬ (4096000 ≤ q ∧ q ≤ 81920000 ∧ q % 1024 = 0 ∧ 20000 ≤ t ∧ t ≤ 80000 ∧ a ≤ 255) then refused s .range
      else if (s.carrier c).state ≠ .off then refused s .state
      else if q * t / 2048000000 < s.committedTotal c a ∨ (a < 3 ∧ s.scrambles c = true) then refused s .overBudget
      else
        (s.setCarrier c { s.carrier c with definition := some ⟨q, t, a, q * t / 2048000000⟩ },
          .done (.guaranteed (q * t / 2048000000))) := by
  have hb : guaranteedBudget q t = q * t / 2048000000 := rfl
  have hadm : (s.setCarrier c { s.carrier c with definition := some ⟨q, t, a, q * t / 2048000000⟩ }).admits c
      = decide (s.committedTotal c a ≤ q * t / 2048000000) := by
    rw [admits_eq (by rw [State.setCarrier_self]), committedTotal_setCarrier_definition]
  unfold defineCarrier
  simp only [toCarrier_val, hb, hadm, scrambledOn_eq, carrierInRange, Bool.not_eq_true', decide_eq_false_iff_not,
    Nat.not_le]
  by_cases hlt : q * t / 2048000000 < s.committedTotal c a <;> simp [hlt]

theorem setAllowance_undefined (p : PortNo) (c : CarrierNo) (n : Nat) (hn : n < 64) (s : State)
    (h : (s.carrier c).definition = none) : setAllowance p.val c.val n s = refused s .state := by
  simp [setAllowance, Nat.not_lt.2 (Nat.le_of_lt_succ hn), h]

theorem setAllowance_defined (p : PortNo) (c : CarrierNo) (n : Nat) (hn : n < 64) (s : State) (d : CarrierDef)
    (h : (s.carrier c).definition = some d) :
    let t := s.setCarrier c { s.carrier c with allowances := (s.carrier c).allowances.set p.val n }
    setAllowance p.val c.val n s =
      if d.guaranteed < t.committedTotal c d.reserve then refused s .overBudget
      else (t, .done (.committed (t.committedTotal c d.reserve))) := by
  intro t
  have ht : (t.carrier c).definition = some d := by simp only [t, State.setCarrier_self, h]
  have hset : setAllowance p.val c.val n s =
      if !t.admits c then refused s .overBudget else (t, .done (.committed ((t.committed c).getD 0))) := by
    simp [setAllowance, Nat.not_lt.2 (Nat.le_of_lt_succ hn), h, t]
  simp [hset, admits_eq ht, committed_eq ht]

theorem setCarrierOn_eq (c : CarrierNo) (s : State) :
    setCarrierOn c.val .named s =
      if (s.carrier c).state = .off ∧ (s.carrier c).definition ≠ none then
        (s.setCarrier c
          { s.carrier c with
            state := .armed, counters := ⟨0, 0, 0, 0, 0, 0, 0⟩, fraction := 0, interval := 0, rotate := 0,
            degraded := false, nextBoundary := some (nextMillisecond s.time) },
          .done (.firstBoundary (nextMillisecond s.time)))
      else refused s .state := by
  simp [setCarrierOn, Option.isSome_iff_ne_none, Counters.zero]

/-- The first whole millisecond later than a time (R6). -/
theorem nextMillisecond_spec (t : Nat) :
    t < nextMillisecond t ∧ nextMillisecond t ≤ t + 1000 ∧ nextMillisecond t % 1000 = 0 := by
  change t < (t / 1000 + 1) * 1000 ∧ (t / 1000 + 1) * 1000 ≤ t + 1000 ∧ (t / 1000 + 1) * 1000 % 1000 = 0
  omega

/-! ### Orders on programmes -/

/-- The definition an order carries whose numbers are in range (R14). -/
theorem toProgrammeDef_eq {c : CarrierNo} {group : Nat} {g : Option GroupNo} (hg : toGroupOrClear group = some g)
    (w fl cap : Nat) :
    toProgrammeDef c.val group w fl cap =
      if 1 ≤ w ∧ w ≤ 16 ∧ fl ≤ 255 ∧ 1 ≤ cap ∧ cap ≤ 4229 ∧ fl ≤ cap then some ⟨c, g, w, fl, cap⟩ else none := by
  simp [toProgrammeDef, hg]

theorem Programme.define_eq (k : Programme) (d : ProgrammeDef) :
    k.define d =
      if k.state = .unused then
        { k with state := .idle, definition := some d, expected := none, held := 0, continuity := 0 }
      else { k with definition := some d } := rfl

section
variable {p : ProgrammeNo} {c : CarrierNo} {group w fl cap : Nat} {g : Option GroupNo} {s : State}
  (hg : toGroupOrClear group = some g)
include hg

/-- DEFINE PROGRAMME with a field out of its range (R14). -/
theorem defineProgramme_range (hr : ¬ (1 ≤ w ∧ w ≤ 16 ∧ fl ≤ 255 ∧ 1 ≤ cap ∧ cap ≤ 4229 ∧ fl ≤ cap)) :
    defineProgramme p.val c.val group w fl cap s = refused s .range := by
  simp [defineProgramme, toProgrammeDef_eq hg, hr]

variable (hr : 1 ≤ w ∧ w ≤ 16 ∧ fl ≤ 255 ∧ 1 ≤ cap ∧ cap ≤ 4229 ∧ fl ≤ cap)
include hr

/-- DEFINE PROGRAMME of a programme in service (R14). -/
theorem defineProgramme_serving (hs : (s.programme p).state ≠ .unused ∧ (s.programme p).state ≠ .idle) :
    defineProgramme p.val c.val group w fl cap s = refused s .state := by
  simp [defineProgramme, toProgrammeDef_eq hg, hr, hs]

/-- DEFINE PROGRAMME on an undefined carrier (R14). -/
theorem defineProgramme_undefined (hc : (s.carrier c).definition = none) :
    defineProgramme p.val c.val group w fl cap s = refused s .state := by
  simp [defineProgramme, toProgrammeDef_eq hg, hr, hc]

variable {cd : CarrierDef} (hc : (s.carrier c).definition = some cd)
include hc

/-- DEFINE PROGRAMME with a FREE group (R14). -/
theorem defineProgramme_freeGroup (hf : s.namesFree g = true) :
    defineProgramme p.val c.val group w fl cap s = refused s .state := by
  simp [defineProgramme, toProgrammeDef_eq hg, hr, hc, hf]

variable (hs : ¬ ((s.programme p).state ≠ .unused ∧ (s.programme p).state ≠ .idle))
include hs

/-- DEFINE PROGRAMME after the checks on the states of the programme, its carrier and its group: the limits of R14, and
the record (R11, R14). -/
theorem defineProgramme_admission (hf : s.namesFree g = false) :
    let t := s.setProgramme p ((s.programme p).define ⟨c, g, w, fl, cap⟩)
    defineProgramme p.val c.val group w fl cap s =
      if 24 ≤ ((s.naming c).filter (fun q => q != p)).length ∨ (g ≠ none ∧ cd.reserve < 3)
          ∨ cd.guaranteed < t.committedTotal c cd.reserve then refused s .overBudget
      else (t, .done (.committed (t.committedTotal c cd.reserve))) := by
  intro t
  have ht : (t.carrier c).definition = some cd := hc
  have ho : s.othersOn c p = ((s.naming c).filter (fun q => q != p)).length := by
    rw [State.othersOn, programmesOf_eq_naming]; rfl
  have hset : defineProgramme p.val c.val group w fl cap s =
      if 24 ≤ s.othersOn c p then refused s .overBudget
      else if g.isSome && decide (cd.reserve < 3) then refused s .overBudget
      else if !t.admits c then refused s .overBudget
      else (t, .done (.committed (t.committedWith c cd.reserve))) := by
    have hst : (((s.programme p).state == .unused) || ((s.programme p).state == .idle)) = true := by
      rw [not_and_or, not_not, not_not] at hs
      simpa using hs
    simp [defineProgramme, toProgrammeDef_eq hg, hr, hst, hc, hf, Config.programmesPerCarrier, t]
  rw [hset, ho, admits_eq ht, committedWith_eq]
  by_cases h1 : 24 ≤ ((s.naming c).filter (fun q => q != p)).length
  · simp [h1]
  · by_cases h2 : g ≠ none ∧ cd.reserve < 3
    · simp [h1, h2, Option.isSome_iff_ne_none]
    · simp [h1, h2, Option.isSome_iff_ne_none]

end

theorem setProgrammeUnused_eq (p : ProgrammeNo) (s : State) :
    setProgrammeUnused p.val s =
      if (s.programme p).state = .idle then
        (s.setProgramme p
          { s.programme p with state := .unused, definition := none, expected := none, held := 0, continuity := 0 },
          .done (.programmeState .unused))
      else refused s .state := by
  simp [setProgrammeUnused]

theorem Programme.serving_iff (k : Programme) : k.serving = true ↔ k.state = .live ∨ k.state = .resync := by
  simp [Programme.serving]

end Sys2Proof.Machine

/-! SUPPORT. The step on a waiting command, the resets, and the manager's orders that write one record or none. -/

namespace Sys2Proof.Machine

/-- An accepted order whose rule answers DONE. -/
theorem takeOrder_done {s t : State} {f : Frame} {o : Order} {b : ReplyBody} {effect : State → State × Response}
    (h : s.Accepts f o) (he : effect s = (t, .done b)) : s.takeOrder f o effect = t.done f o b := by
  rw [takeOrder_accepts h, he, answer_done]

/-- An accepted order that its owning rule refuses. -/
theorem takeOrder_rejected {s : State} {f : Frame} {o : Order} {r : RefusalCode} {effect : State → State × Response}
    (h : s.Accepts f o) (he : effect s = refused s r) : s.takeOrder f o effect = s.rejected f o r := by
  rw [takeOrder_accepts h, he]; rfl

/-- An accepted order with one check of its owning rule's own. -/
theorem takeOrder_ite {s t : State} {f : Frame} {o : Order} {r : RefusalCode} {b : ReplyBody} {P : Prop} [Decidable P]
    {effect : State → State × Response} (h : s.Accepts f o)
    (he : effect s = if P then refused s r else (t, .done b)) :
    s.takeOrder f o effect = if P then s.rejected f o r else t.done f o b := by
  split at he
  · next hp => rw [takeOrder_rejected h he, if_pos hp]
  · next hp => rw [takeOrder_done h he, if_neg hp]

end Sys2Proof.Machine

namespace Sys2Proof.Settled

open Sys2Proof.Machine

/-- Settles O1: the step is defined so. -/
theorem stepTakesFrontCommand : Obligations.StepTakesFrontCommand := fun _ _ _ => rfl

/-- Settles O15, from the equation of the order. -/
theorem defineCarrier : Obligations.DefineCarrier := by
  intro q t a s h
  refine ⟨fun carrier hc => ?_, fun c => ?_⟩
  · exact congrArg _ (takeOrder_rejected h (by simp [Machine.defineCarrier, toCarrier_none hc]))
  · change Host.Outcome.next (s.takeOrder _ _ _) = _
    rw [takeOrder_accepts h, defineCarrier_eq]
    split
    · rfl
    · split
      · rfl
      · split <;> rfl

/-- Settles O16: the first boundary is `nextMillisecond` of the station time. -/
theorem setCarrierOn : Obligations.SetCarrierOn := by
  intro s h
  refine ⟨fun carrier target hc => ?_, fun c => ?_⟩
  · refine congrArg _ (takeOrder_rejected h ?_)
    rcases hc with hc | hc
    · simp [Machine.setCarrierOn, toCarrier_none hc]
    · cases target with
      | named => exact absurd rfl hc
      | other v => simp [Machine.setCarrierOn]
  · obtain ⟨hlt, hle, hmod⟩ := nextMillisecond_spec s.time
    refine ⟨nextMillisecond s.time, hlt, hle, hmod, ?_⟩
    change Host.Outcome.next (s.takeOrder _ _ _) = _
    rw [takeOrder_accepts h, setCarrierOn_eq]
    split <;> rfl

/-- Settles O18, from the equations of the order on an undefined and on a defined carrier. -/
theorem setAllowance : Obligations.SetAllowance := by
  intro s h
  refine ⟨fun port carrier n hr => ?_, fun p c n hn => ⟨fun hd => ?_, fun d hd => ?_⟩⟩
  · refine congrArg _ (takeOrder_rejected h ?_)
    unfold Machine.setAllowance
    rcases hr with hp | hc | hn
    · simp [toPort_none hp]
    · simp [toCarrier_none hc]
    · have : 63 < n := hn
      cases toPort port <;> cases toCarrier carrier <;> simp [this]
  · exact congrArg _ (takeOrder_rejected h (setAllowance_undefined p c n hn s hd))
  · exact congrArg _ (takeOrder_ite h (setAllowance_defined p c n hn s d hd))

/-- Settles O19: the checks up to the group's state one by one, then the limits by `defineProgramme_admission`. -/
theorem defineProgramme : Obligations.DefineProgramme := by
  intro w fl cap s h
  refine ⟨fun programme carrier group hr => ?_, fun p c group g hg => ?_⟩
  · refine congrArg _ (takeOrder_rejected h ?_)
    unfold Machine.defineProgramme toProgrammeDef
    rcases hr with hp | hc | ⟨hg, hg'⟩
    · simp [toProgramme_none hp]
    · simp [toCarrier_none hc]
    · cases toProgramme programme <;> cases toCarrier carrier <;> simp [toGroupOrClear_none hg hg']
  · have hg := toGroupOrClear_of hg
    intro k t
    split
    · next hr => exact congrArg _ (takeOrder_rejected h (defineProgramme_range hg hr))
    · next hr =>
      have hr := not_not.1 hr
      split
      · next hs => exact congrArg _ (takeOrder_rejected h (defineProgramme_serving hg hr hs))
      · next hs =>
        cases hc : (s.carrier c).definition with
        | none => exact congrArg _ (takeOrder_rejected h (defineProgramme_undefined hg hr hc))
        | some d =>
          have hn : ∀ x : Option GroupNo,
              (match x with | some n => decide ((s.group n).state = .free) | none => false) = s.namesFree x
            | some _ => rfl
            | none => rfl
          dsimp only
          by_cases hf : s.namesFree g = true
          · refine (congrArg _ (takeOrder_rejected h (defineProgramme_freeGroup hg hr hc hf))).trans ?_
            exact congrArg _ (if_pos ((hn g).trans hf)).symm
          · refine Eq.trans ?_ (congrArg _ (if_neg fun hm => hf ((hn g).symm.trans hm)).symm)
            exact congrArg _ (takeOrder_ite h (defineProgramme_admission hg hr hc hs (Bool.eq_false_iff.2 hf)))

/-- Settles O22. -/
theorem recordsRead : Obligations.RecordsRead := by
  refine ⟨fun s h => ⟨fun carrier hc => ?_, fun c => ?_⟩, fun s h => ⟨fun programme hp => ?_, fun p => ?_⟩⟩
  · exact congrArg _ (takeOrder_rejected h (by simp [readCarrier, toCarrier_none hc]))
  · refine congrArg _ (takeOrder_done h ?_)
    simp [readCarrier, State.carrierReport, programmesOf_eq_naming, committedWith_eq, State.committed]
  · exact congrArg _ (takeOrder_rejected h (by simp [readProgramme, toProgramme_none hp]))
  · refine ⟨s.reassembling p, ?_, congrArg _ (takeOrder_done h ?_)⟩
    · unfold State.reassembling
      cases (s.link (linkOf p)).context <;> simp
    · simp [readProgramme, State.programmeReport]

end Sys2Proof.Settled

/-! SUPPORT. The resets (R79, R154). -/

namespace Sys2Proof.Machine

/-- The names of two reseedings differ (R79). -/
theorem seedName_injective : Function.Injective Config.seedName := by
  have le : ∀ a b, Config.seedName a = Config.seedName b → a ≤ b := by
    intro a b h
    by_contra hlt
    have := congrFun h b
    simp [Config.seedName, Nat.not_le.1 hlt] at this
  exact fun a b h => Nat.le_antisymm (le a b h) (le b a h.symm)

/-- The cells of the free list at reset, in ascending order (R32). -/
theorem allCells_val : allCells.map (·.val) = List.range 32768 := by
  have hid : ∀ n ∈ List.range' 0 Config.cellCount, (Fin.ofNat 32768 n).val = n := fun n hn =>
    Nat.mod_eq_of_lt (by simpa [Config.cellCount] using hn)
  rw [allCells, List.map_map, List.range_eq_range']
  exact (List.map_congr_left hid).trans (List.map_id' _)

end Sys2Proof.Machine

namespace Sys2Proof.Settled

open Sys2Proof.Machine

/-- Settles O13: the reset values by definition, the key sequences by the free permutation of their names. -/
theorem powerOnAndReset : Obligations.PowerOnAndReset := by
  refine ⟨fun one other hne => ?_, fun straps s => ⟨rfl, rfl⟩, fun c => ?_, fun p => ?_, fun g => ?_, fun l => ?_,
    ⟨rfl, fun p => ?_⟩, rfl, rfl, rfl, rfl, allCells_val⟩
  · by_contra h
    push Not at h
    exact hne (seedName_injective (Config.keySequence.injective (funext h)))
  all_goals exact Vector.getElem_replicate _

end Sys2Proof.Settled

/-! SUPPORT. What every command keeps, said once for every order: a property that counting a refusal and writing a line keep
is kept by a frame whose effect keeps it. With it, the records that admission reads under every command (R3, R4, R11, R14,
R38), and the station number (R2). -/

namespace Sys2Proof.Machine

/-! ### Frames -/

/-- A property that no line and no refusal count is part of. -/
structure OffLine (P : State → Prop) : Prop where
  line : ∀ s q ln, P s → P (s.setLine q ln)
  count : ∀ s q, P s → P (s.countRefusal q)

section
variable {P : State → Prop} (hP : OffLine P)
include hP

theorem OffLine.refuse (s : State) (p : PortId) (code : Nat) (r : RefusalCode) (h : P s) : P (s.refuse p code r) :=
  hP.line _ _ _ (hP.count _ _ h)

theorem OffLine.answer (s : State) (p : PortId) (o : Order) (r : Response) (h : P s) : P (s.answer p o r) := by
  cases r with
  | done b => exact hP.line _ _ _ h
  | refused r => exact hP.line _ _ _ (hP.count _ _ h)

theorem OffLine.takeFrame {s : State} {p : PortId} {code : Nat} {r : RefusalCode} {judge : State → State} (h : P s)
    (hj : P (judge s)) : P (s.takeFrame p code r judge) := by
  unfold State.takeFrame
  split
  · exact h
  · split
    · exact h
    · split
      · unfold State.refuseBusy
        dsimp only
        split
        · exact hP.count _ _ h
        · exact hP.line _ _ _ (hP.count _ _ h)
      · exact hj

/-- An order frame keeps what its effect keeps. -/
theorem OffLine.takeOrder {s : State} {f : Frame} {o : Order} {effect : State → State × Response} (h : P s)
    (he : P (effect s).1) : P (s.takeOrder f o effect) := by
  unfold State.takeOrder
  split
  · exact hP.count _ _ h
  · refine hP.takeFrame h ?_
    dsimp only
    split
    · exact hP.refuse _ _ _ _ h
    · exact hP.answer _ _ _ _ he

end

/-- An access port's order keeps what its effect keeps. -/
theorem onAccess_keeps {P : State → Prop} {s : State} {f : Frame} {effect : PortNo → State → State × Response} (h : P s)
    (he : ∀ p, P (effect p s).1) : P (onAccess f effect s).1 := by
  unfold onAccess
  split
  · exact he _
  · exact h

/-! ### The orders that leave the records alone -/

theorem recordsKept_offLine (s : State) : OffLine (RecordsKept s) where
  line t q ln h := .trans _ _ _ h (.of_eq (by simp) (by simp) (by simp))
  count t q h := .trans _ _ _ h (.of_eq (by simp) (by simp) (by simp))

/-- What an order leaves of the records is what its effect leaves of them. -/
theorem takeOrder_recordsKept {s : State} {f : Frame} {o : Order} {effect : State → State × Response}
    (h : RecordsKept s (effect s).1) : RecordsKept s (s.takeOrder f o effect) :=
  (recordsKept_offLine s).takeOrder (.refl s) h

theorem takeAccessOrder_recordsKept {s : State} {f : Frame} {o : Order} {effect : PortNo → State → State × Response}
    (h : ∀ p, RecordsKept s (effect p s).1) : RecordsKept s (s.takeOrder f o (onAccess f effect)) :=
  takeOrder_recordsKept (onAccess_keeps (.refl s) h)

section
variable (s : State)

theorem setCarrierOff_recordsKept (carrier : Nat) : RecordsKept s (setCarrierOff carrier s).1 := by
  unfold setCarrierOff
  split
  · exact .refl s
  · dsimp only
    split
    · dsimp only
      exact carrierOff_recordsKept s _
    · next h =>
      dsimp only
      refine .trans _ _ _ ?_ (recomputeAll_shape _).recordsKept
      refine .setCarrier ⟨rfl, rfl, fun _ => ?_, .inl rfl⟩
      rw [h]; decide
    · exact .refl s
    · exact .refl s

theorem readCarrier_recordsKept (carrier : Nat) : RecordsKept s (readCarrier carrier s).1 := by
  unfold readCarrier
  split <;> exact .refl s

theorem goLive_recordsKept (p : ProgrammeNo) : RecordsKept s (s.goLive p) := by
  have resync : RecordsKept s (s.setProgramme p { s.programme p with state := .resync, expected := none }) :=
    .setProgramme (Programme.kept_resync _ _ _ _ _)
  unfold State.goLive
  dsimp only
  split
  · split
    · refine .trans _ _ _ ?_ (recompute_shape _ _).recordsKept
      split
      · exact .trans _ _ _ resync (gainGroup_stageKept _ _ _).recordsKept
      · exact resync
    · exact resync
  · exact resync

theorem setProgrammeLive_recordsKept (programme : Nat) (target : Selector) :
    RecordsKept s (setProgrammeLive programme target s).1 := by
  unfold setProgrammeLive
  split
  · split
    · exact goLive_recordsKept s _
    · exact .refl s
  · exact .refl s

theorem loseGroup_recordsKept (c : CarrierNo) (g : GroupNo) : RecordsKept s (s.loseGroup c g) :=
  .setCarrier ⟨rfl, rfl, id, .inl rfl⟩

theorem goIdle_recordsKept (p : ProgrammeNo) : RecordsKept s (s.goIdle p) := by
  have idle : ∀ t : State, RecordsKept t (t.setProgramme p { t.programme p with state := .idle, held := 0 }) :=
    fun t => .setProgramme ⟨rfl, nofun⟩
  have idle := RecordsKept.trans _ _ _ (emptyQueue_stageKept (c := 0) s p).recordsKept (idle _)
  unfold State.goIdle
  dsimp only
  split
  · split
    · refine .trans _ _ _ ?_ (recompute_shape _ _).recordsKept
      split
      · exact idle
      · exact .trans _ _ _ idle (loseGroup_recordsKept _ _ _)
    · exact idle
  · exact idle

theorem setProgrammeIdle_recordsKept (programme : Nat) : RecordsKept s (setProgrammeIdle programme s).1 := by
  unfold setProgrammeIdle
  split
  · exact .refl s
  · split
    · exact goIdle_recordsKept s _
    · exact .refl s

theorem readProgramme_recordsKept (programme : Nat) : RecordsKept s (readProgramme programme s).1 := by
  unfold readProgramme
  split <;> exact .refl s

theorem defineGroup_recordsKept (group : Nat) (roster : BitVec 8) (preference : List Nat) (repeatMs limit policy : Nat) :
    RecordsKept s (defineGroup group roster preference repeatMs limit policy s).1 := by
  unfold defineGroup
  split
  · refine .trans _ _ _ ?_ (resolve_recordsKept _ _)
    split
    · exact setGroup_recordsKept s _ _
    · exact redefine_recordsKept s _ _
  · exact .refl s

theorem releaseGroup_recordsKept (group : Nat) : RecordsKept s (releaseGroup group s).1 := by
  unfold releaseGroup
  split
  · exact .refl s
  · split
    · exact .refl s
    · exact release_recordsKept s _

theorem restartGroupOrder_recordsKept (group : Nat) : RecordsKept s (restartGroup group s).1 := by
  unfold restartGroup
  split
  · exact .refl s
  · split
    · exact restartGroup_recordsKept s _
    · exact .refl s

theorem readGroup_recordsKept (group : Nat) : RecordsKept s (readGroup group s).1 := by
  unfold readGroup
  split <;> exact .refl s

theorem attach_recordsKept (o : Offer) (p : PortNo) : RecordsKept s (attach o p s).1 := by
  unfold attach
  dsimp only
  split
  · exact .refl s
  · dsimp only
    refine .trans _ _ _ ?_ (resolveFor_recordsKept _ p)
    split
    · exact .of_eq rfl rfl rfl
    · exact setPort_recordsKept s p _

theorem detach_recordsKept (p : PortNo) : RecordsKept s (detach p s).1 := by
  unfold detach
  dsimp only
  exact detachPort_recordsKept s p

theorem planAck_recordsKept (group number : Nat) (o : Offer) (p : PortNo) :
    RecordsKept s (planAck group number o p s).1 := by
  unfold planAck
  split
  · exact .refl s
  · split
    · exact .refl s
    · split
      · exact .refl s
      · split
        · exact .refl s
        · dsimp only
          split
          · exact join_recordsKept s _ p
          · exact .trans _ _ _ (setPort_recordsKept s p _) (resolveFor_recordsKept _ p)

theorem fetchActive_recordsKept (group : Nat) (selector : Selector) (p : PortNo) :
    RecordsKept s (fetchActive group selector p s).1 := by
  unfold fetchActive
  split
  · split
    · exact .refl s
    · split <;> exact .refl s
  · exact .refl s

theorem fetchPending_recordsKept (group : Nat) (p : PortNo) : RecordsKept s (fetchPending group p s).1 := by
  unfold fetchPending
  split
  · split
    · exact .refl s
    · split
      · exact setPort_recordsKept s p _
      · exact .refl s
  · exact .refl s

theorem submitAccess_recordsKept (group : Nat) (serial : Serial) (body : List Byte) (p : PortNo) :
    RecordsKept s (submitAccess group serial body p s).1 := by
  unfold submitAccess
  split
  · exact .refl s
  · split
    · exact .refl s
    · split
      · exact .refl s
      · split
        · dsimp only
          exact storePacket_recordsKept s _ _ _ p body
        · exact .refl s

theorem probeGroup_recordsKept (group : Nat) (p : PortNo) : RecordsKept s (probeGroup group p s).1 := by
  unfold probeGroup
  split <;> exact .refl s

theorem openBatch_recordsKept (present count : Nat) (p : PortNo) : RecordsKept s (openBatch present count p s).1 := by
  unfold openBatch
  split
  · exact .refl s
  · exact setPort_recordsKept s p _

theorem submitSubscriber_recordsKept (body : List Byte) (mask : BitVec 8) (urgent : Nat) (p : PortNo) :
    RecordsKept s (submitSubscriber body mask urgent p s).1 := by
  unfold submitSubscriber
  split
  · dsimp only
    split
    · exact .refl s
    · exact setPort_recordsKept s p _
    · split
      · exact .refl s
      · split
        · exact .refl s
        · split
          · exact .refl s
          · exact setPort_recordsKept s p _
  · exact .refl s

theorem readCondition_recordsKept (f : Frame) : RecordsKept s (readCondition f s).1 := by
  unfold readCondition
  split <;> exact .of_eq rfl rfl rfl

theorem readSummary_recordsKept (f : Frame) : RecordsKept s (readSummary f s).1 := by
  unfold readSummary
  split <;> exact .refl s

theorem acknowledgeBatchEnd_recordsKept (f : Frame) (kind : Selector) :
    RecordsKept s (acknowledgeBatchEnd f kind s).1 := by
  unfold acknowledgeBatchEnd
  split
  · exact setPort_recordsKept s _ _
  · exact .refl s

theorem acknowledgeGroupAlert_recordsKept (f : Frame) (object : Nat) :
    RecordsKept s (acknowledgeGroupAlert f object s).1 := by
  unfold acknowledgeGroupAlert
  split
  · dsimp only
    split
    · exact .refl s
    · exact setGroupAlert_recordsKept s _ _
  · exact .refl s

theorem acknowledgeCarrierAlert_recordsKept (f : Frame) (object : Nat) :
    RecordsKept s (acknowledgeCarrierAlert f object s).1 := by
  unfold acknowledgeCarrierAlert
  split
  · dsimp only
    split
    · exact .refl s
    · exact .of_eq rfl rfl rfl
  · exact .refl s

end

/-! ### Ingest, lines, the clock -/

section
variable (s : State)

theorem resync_recordsKept (p : ProgrammeNo) : RecordsKept s (s.resync p) := by
  refine .setProgramme ⟨?_, ?_⟩ <;> unfold Programme.toResync <;> split
  · rfl
  · rfl
  · nofun
  · exact id

theorem setLink_recordsKept (l : LinkNo) (k : IngestLink) : RecordsKept s (s.setLink l k) := .of_eq rfl rfl rfl

theorem freeUp_recordsKept (cells : List CellNo) : RecordsKept s (s.freeUp cells) := .of_eq rfl rfl rfl

theorem leaveLocked_recordsKept (l : LinkNo) (next : LinkState) : RecordsKept s (s.leaveLocked l next) := by
  have ends : RecordsKept s (s.endContext l) := by
    unfold State.endContext
    split
    · exact .trans _ _ _ (freeUp_recordsKept s _) (resync_recordsKept _ _)
    · exact .refl s
  exact .trans _ _ _ ends (.of_eq rfl rfl rfl)

theorem lossOfSignal_recordsKept (l : LinkNo) : RecordsKept s (s.lossOfSignal l) := by
  have off := setLink_recordsKept s l { s.link l with signal := false }
  unfold State.lossOfSignal
  dsimp only
  split
  · exact off
  · exact .trans _ _ _ off (setLink_recordsKept _ l _)
  · exact .trans _ _ _ off (leaveLocked_recordsKept _ l _)

theorem missingSync_recordsKept (l : LinkNo) : RecordsKept s (s.missingSync l) := by
  unfold State.missingSync
  split
  · exact leaveLocked_recordsKept s l _
  · exact .refl s

theorem runaway_recordsKept (l : LinkNo) : RecordsKept s (s.runaway l) := by
  unfold State.runaway
  split
  · exact leaveLocked_recordsKept s l _
  · exact .refl s

theorem takeHeader_recordsKept (l : LinkNo) (h : UnitHeader) : RecordsKept s (s.takeHeader l h) := by
  unfold State.takeHeader
  split
  · split <;> exact .of_eq rfl rfl rfl
  · exact .of_eq rfl rfl rfl

theorem headerTaken_recordsKept (l : LinkNo) (h : UnitHeader) : RecordsKept s (s.headerTaken l h) := by
  unfold State.headerTaken
  split
  · exact takeHeader_recordsKept s l h
  · exact .refl s

theorem syncMarkFound_recordsKept (l : LinkNo) (h : UnitHeader) : RecordsKept s (s.syncMarkFound l h) := by
  unfold State.syncMarkFound
  split
  · exact .refl s
  · exact .trans _ _ _ (setLink_recordsKept s l _) (takeHeader_recordsKept _ l h)
  · exact headerTaken_recordsKept s l h

theorem addStoreExhausted_recordsKept : RecordsKept s s.addStoreExhausted := .of_eq rfl rfl rfl

theorem cellClaim_recordsKept (l : LinkNo) (stretch : List Byte) : RecordsKept s (s.cellClaim l stretch) := by
  unfold State.cellClaim
  split
  · split
    · split
      · refine .trans _ _ _ ?_ (setLink_recordsKept _ l _)
        refine .trans _ _ _ ?_ (addStoreExhausted_recordsKept _)
        exact .trans _ _ _ (freeUp_recordsKept s _) (resync_recordsKept _ _)
      · exact .of_eq rfl rfl rfl
    · exact .refl s
  · exact .refl s

theorem placeUnit_recordsKept (u : UnitRecord) : RecordsKept s (s.placeUnit u) := by
  unfold State.placeUnit
  dsimp only
  split
  · exact .setProgramme ⟨rfl, id⟩
  · split
    · refine .trans _ _ _ ?_ (freeUp_recordsKept _ _)
      exact .setProgramme ⟨rfl, id⟩
    · exact .trans _ _ _ (freeUp_recordsKept s _) (resync_recordsKept _ _)

theorem Programme.checkSequence_kept (k : Programme) (q : BitVec 16) : k.Kept (k.checkSequence q) := by
  unfold Programme.checkSequence
  refine ⟨?_, ?_⟩ <;> dsimp only <;> split
  · split
    · rfl
    · unfold Programme.toResync; split <;> rfl
  · rfl
  · split
    · exact id
    · unfold Programme.toResync
      split
      · nofun
      · exact id
  · exact id

theorem completeUnit_recordsKept (u : PartialUnit) : RecordsKept s (s.completeUnit u) := by
  unfold State.completeUnit
  split
  · refine .trans _ _ _ ?_ (placeUnit_recordsKept _ _)
    exact .setProgramme (Programme.checkSequence_kept _ _)
  · exact freeUp_recordsKept s _

theorem unitCompletion_recordsKept (l : LinkNo) : RecordsKept s (s.unitCompletion l) := by
  have off := setLink_recordsKept s l { s.link l with context := .empty }
  unfold State.unitCompletion
  dsimp only
  split
  · split
    · exact .trans _ _ _ off (completeUnit_recordsKept _ _)
    · exact off
  · exact .refl s

theorem setLine_recordsKept (q : PortId) (ln : OrderLine) : RecordsKept s (s.setLine q ln) :=
  .of_eq (by simp) (by simp) (by simp)

theorem linkDown_recordsKept (q : PortId) : RecordsKept s (s.linkDown q) := by
  unfold State.linkDown
  split
  · unfold State.managerLinkDown
    split
    · exact setLine_recordsKept s _ _
    · exact .of_eq rfl rfl rfl
  · unfold State.accessLinkDown
    dsimp only
    split
    · exact setLine_recordsKept s _ _
    · exact .trans _ _ _ (setLine_recordsKept s _ _) (detachPort_recordsKept _ _)

theorem restartCompletion_recordsKept : RecordsKept s s.restartCompletion := by
  unfold State.restartCompletion
  split
  · exact .refl s
  · dsimp only
    split
    · exact .of_eq rfl rfl rfl
    · exact .of_eq rfl rfl rfl

theorem shrinkCompletion_recordsKept (c : CarrierNo) : RecordsKept s (s.shrinkCompletion c) := by
  unfold State.shrinkCompletion
  split
  · exact (shrinkNext_outputKept s).recordsKept
  · exact .refl s

theorem sliceEmission_recordsKept (c : CarrierNo) : RecordsKept s (s.sliceEmission c) := by
  unfold State.sliceEmission
  split
  · exact (emitSlice_outputKept s).recordsKept
  · exact .refl s

theorem Carrier.drain_kept (k : Carrier) : k.Kept k.drain := by
  unfold Carrier.drain
  split
  · exact .refl k
  · dsimp only
    split <;> exact ⟨rfl, rfl, id, .inl rfl⟩

theorem tick_recordsKept : RecordsKept s s.tick := by
  unfold State.tick
  split
  · exact .refl s
  · unfold State.tickClock
    split
    · exact ⟨rfl, fun c => by simpa [State.carrier] using Carrier.drain_kept _, fun _ => .refl _⟩
    · exact ⟨rfl, fun c => by simpa [State.carrier] using Carrier.drain_kept _, fun _ => .refl _⟩

theorem idle_recordsKept : RecordsKept s s.idle := by
  unfold State.idle
  split
  · exact tick_recordsKept s
  · exact .of_eq rfl rfl rfl

end

/-! ### Every command -/

/-- The commands that write what admission reads: definitions, allowances, a carrier armed, and the resets. -/
def writesRecords : Instr → Bool
  | .defineCarrier .. | .setCarrierOn .. | .setAllowance .. | .defineProgramme .. | .setProgrammeUnused ..
  | .restartPart _ | .powerOn _ | .resetInputLow => true
  | _ => false

/-- Every other command leaves the records and the station number. -/
theorem exec_recordsKept {c : Instr} (hc : writesRecords c = false) (s : State) :
    ∃ t, exec c s = .next t ∧ RecordsKept s t := by
  cases c
  case defineCarrier | setCarrierOn | setAllowance | defineProgramme | setProgrammeUnused | restartPart | powerOn
    | resetInputLow => cases hc
  case setCarrierOff => exact ⟨_, rfl, takeOrder_recordsKept (setCarrierOff_recordsKept s _)⟩
  case readCarrier => exact ⟨_, rfl, takeOrder_recordsKept (readCarrier_recordsKept s _)⟩
  case setProgrammeLive => exact ⟨_, rfl, takeOrder_recordsKept (setProgrammeLive_recordsKept s _ _)⟩
  case setProgrammeIdle => exact ⟨_, rfl, takeOrder_recordsKept (setProgrammeIdle_recordsKept s _)⟩
  case readProgramme => exact ⟨_, rfl, takeOrder_recordsKept (readProgramme_recordsKept s _)⟩
  case defineGroup => exact ⟨_, rfl, takeOrder_recordsKept (defineGroup_recordsKept s _ _ _ _ _ _)⟩
  case releaseGroup => exact ⟨_, rfl, takeOrder_recordsKept (releaseGroup_recordsKept s _)⟩
  case restartGroup => exact ⟨_, rfl, takeOrder_recordsKept (restartGroupOrder_recordsKept s _)⟩
  case readGroup => exact ⟨_, rfl, takeOrder_recordsKept (readGroup_recordsKept s _)⟩
  case restartCompletion => exact ⟨_, rfl, restartCompletion_recordsKept s⟩
  case attach => exact ⟨_, rfl, takeAccessOrder_recordsKept (attach_recordsKept s _)⟩
  case detach => exact ⟨_, rfl, takeAccessOrder_recordsKept (detach_recordsKept s)⟩
  case planAck => exact ⟨_, rfl, takeAccessOrder_recordsKept (planAck_recordsKept s _ _ _)⟩
  case fetchKeyActive => exact ⟨_, rfl, takeAccessOrder_recordsKept (fetchActive_recordsKept s _ _)⟩
  case fetchKeyPending => exact ⟨_, rfl, takeAccessOrder_recordsKept (fetchPending_recordsKept s _)⟩
  case submitAccess => exact ⟨_, rfl, takeAccessOrder_recordsKept (submitAccess_recordsKept s _ _ _)⟩
  case probeGroup => exact ⟨_, rfl, takeAccessOrder_recordsKept (probeGroup_recordsKept s _)⟩
  case openBatch => exact ⟨_, rfl, takeAccessOrder_recordsKept (openBatch_recordsKept s _ _)⟩
  case submitSubscriber => exact ⟨_, rfl, takeAccessOrder_recordsKept (submitSubscriber_recordsKept s _ _ _)⟩
  case readTime => exact ⟨_, rfl, takeOrder_recordsKept (.refl s)⟩
  case readCondition => exact ⟨_, rfl, takeOrder_recordsKept (readCondition_recordsKept s _)⟩
  case readSummary => exact ⟨_, rfl, takeOrder_recordsKept (readSummary_recordsKept s _)⟩
  case acknowledgeBatchEnd => exact ⟨_, rfl, takeOrder_recordsKept (acknowledgeBatchEnd_recordsKept s _ _)⟩
  case acknowledgeGroupAlert => exact ⟨_, rfl, takeOrder_recordsKept (acknowledgeGroupAlert_recordsKept s _ _)⟩
  case acknowledgeCarrierAlert => exact ⟨_, rfl, takeOrder_recordsKept (acknowledgeCarrierAlert_recordsKept s _ _)⟩
  case unknownOrderCode =>
    exact ⟨_, rfl, (recordsKept_offLine s).takeFrame (.refl s) ((recordsKept_offLine s).refuse _ _ _ _ (.refl s))⟩
  case framingFailure =>
    exact ⟨_, rfl, (recordsKept_offLine s).takeFrame (.refl s) ((recordsKept_offLine s).refuse _ _ _ _ (.refl s))⟩
  case replySent => exact ⟨_, rfl, setLine_recordsKept s _ _⟩
  case orderLinkUp => exact ⟨_, rfl, setLine_recordsKept s _ _⟩
  case orderLinkDown => exact ⟨_, rfl, linkDown_recordsKept s _⟩
  case signalDetected => exact ⟨_, rfl, setLink_recordsKept s _ _⟩
  case lossOfSignal => exact ⟨_, rfl, lossOfSignal_recordsKept s _⟩
  case syncMarkFound => exact ⟨_, rfl, syncMarkFound_recordsKept s _ _⟩
  case headerTaken => exact ⟨_, rfl, headerTaken_recordsKept s _ _⟩
  case cellClaim => exact ⟨_, rfl, cellClaim_recordsKept s _ _⟩
  case missingSyncMark => exact ⟨_, rfl, missingSync_recordsKept s _⟩
  case runawayUnit => exact ⟨_, rfl, runaway_recordsKept s _⟩
  case unitCompletion => exact ⟨_, rfl, unitCompletion_recordsKept s _⟩
  case boundary => exact ⟨_, rfl, boundary_recordsKept s _⟩
  case shrinkCompletion => exact ⟨_, rfl, shrinkCompletion_recordsKept s _⟩
  case sliceEmission => exact ⟨_, rfl, sliceEmission_recordsKept s _⟩
  case drawEvent => exact ⟨_, rfl, drawEvent_recordsKept s _⟩
  case startEvent => exact ⟨_, rfl, startEvent_recordsKept s _⟩
  case changeoverEvent => exact ⟨_, rfl, changeover_recordsKept s _⟩

end Sys2Proof.Machine

/-! SUPPORT. The records within what the manager's orders allow (R3, R4, R11, R14, R38): kept where the records are kept,
and kept by one carrier record or one programme record written under the checks of its order. -/

namespace Sys2Proof.Machine

/-! ### Where the records are kept -/

/-- The programmes that name a carrier, and so its committed total, rest on what is kept. -/
theorem RecordsKept.naming {s t : State} (h : RecordsKept s t)
    (hu : ∀ p : ProgrammeNo, (s.programme p).state = .unused → (s.programme p).definition = none) (c : CarrierNo) :
    t.naming c = s.naming c := by
  refine List.filter_congr fun p _ => ?_
  have hd := (h.programme p).definition
  rw [hd, decide_eq_decide]
  refine and_congr_left fun hc => ?_
  have hs : (s.programme p).state ≠ .unused := fun e => by simp [hu p e] at hc
  exact ⟨fun _ => hs, fun _ e => hs ((h.programme p).unused e)⟩

theorem committedTotal_congr {s t : State} {c : CarrierNo} (ha : (t.carrier c).allowances = (s.carrier c).allowances)
    (hn : t.naming c = s.naming c) (hd : ∀ p ∈ s.naming c, (t.programme p).definition = (s.programme p).definition)
    (reserve : Nat) : t.committedTotal c reserve = s.committedTotal c reserve := by
  unfold State.committedTotal
  rw [ha, hn]
  congr 2
  exact List.map_congr_left fun p hp => by rw [hd p hp]

theorem RecordsKept.recordsFit {s t : State} (h : RecordsKept s t) (hs : s.recordsFit) : t.recordsFit := by
  obtain ⟨⟨hcar, hun, hprog⟩, hserv, hfrac⟩ := hs
  refine ⟨⟨fun c d hd => ?_, fun p hp => ?_, fun p d hd => ?_⟩, fun c hc => ?_, fun c => ?_⟩
  · rw [(h.carrier c).definition] at hd
    rw [h.naming hun c, committedTotal_congr (h.carrier c).allowances (h.naming hun c)
      (fun p _ => (h.programme p).definition)]
    exact hcar c d hd
  · rw [(h.programme p).definition]
    exact hun p ((h.programme p).unused hp)
  · rw [(h.programme p).definition] at hd
    rw [(h.carrier d.carrier).definition]
    exact hprog p d hd
  · rw [(h.carrier c).definition]
    exact hserv c ((h.carrier c).service hc)
  · exact (h.carrier c).fraction.elim (fun e => e ▸ hfrac c) id

theorem recordsFit_offLine : OffLine State.recordsFit where
  line s q ln h := (setLine_recordsKept s q ln).recordsFit h
  count s q h := (RecordsKept.of_eq (by simp) (by simp) (by simp) : RecordsKept s (s.countRefusal q)).recordsFit h

/-! ### One carrier record written -/

/-- A carrier with a scrambled programme has a reserve of 3 (R4, R14). -/
theorem reserve_of_scrambles {s : State} (h : s.recordsFit) {c : CarrierNo} {d : CarrierDef}
    (hd : (s.carrier c).definition = some d) (hs : s.scrambles c = true) : 3 ≤ d.reserve := by
  obtain ⟨p, hp, hg⟩ := List.any_eq_true.1 hs
  cases hx : (s.programme p).definition with
  | none => simp [hx] at hg
  | some x =>
      have hc : x.carrier = c := by simpa [hx] using (mem_naming.1 hp).2
      obtain ⟨-, k, hk, hr⟩ := h.1.2.2 p x hx
      rw [hc, hd] at hk
      cases hk
      exact hr (by simpa [hx] using hg)

theorem scrambles_of {s : State} (h : s.recordsFit) {p : ProgrammeNo} {x : ProgrammeDef}
    (hx : (s.programme p).definition = some x) (hg : x.group.isSome) : s.scrambles x.carrier = true := by
  have hu : (s.programme p).state ≠ .unused := fun e => by
    rw [h.1.2.1 p e] at hx; cases hx
  exact List.any_eq_true.2 ⟨p, mem_naming.2 ⟨hu, by simp [hx]⟩, by simpa [hx] using hg⟩

/-- At most 24 programmes name a carrier, and none an undefined one (R11, R14). -/
theorem naming_length_le {s : State} (h : s.recordsFit) (c : CarrierNo) : (s.naming c).length ≤ 24 := by
  cases hd : (s.carrier c).definition with
  | some d => exact (h.1.1 c d hd).2.2
  | none =>
      have : s.naming c = [] := by
        refine List.eq_nil_iff_forall_not_mem.2 fun p hp => ?_
        obtain ⟨x, hx, hc⟩ := Option.map_eq_some_iff.1 (mem_naming.1 hp).2
        obtain ⟨-, k, hk, -⟩ := h.1.2.2 p x hx
        rw [hc, hd] at hk
        cases hk
      simp [this]

/-- A carrier record written with a definition that R4, R5 and R11 allow. -/
theorem recordsFit_setCarrier {s : State} {c : CarrierNo} {k : Carrier} {d : CarrierDef} (h : s.recordsFit)
    (hd : k.definition = some d) (hg : d.guaranteed = d.rate * d.interval / 2048000000)
    (ht : (s.setCarrier c k).committedTotal c d.reserve ≤ d.guaranteed)
    (hs : s.scrambles c = true → 3 ≤ d.reserve) (hf : k.fraction < Config.budgetDivisor) :
    (s.setCarrier c k).recordsFit := by
  have hlen := naming_length_le h c
  have hscr := @scrambles_of s h
  obtain ⟨⟨hcar, hun, hprog⟩, hserv, hfrac⟩ := h
  refine ⟨⟨fun e x hx => ?_, hun, fun p x hx => ?_⟩, fun e he => ?_, fun e => ?_⟩
  · by_cases hec : e = c
    · subst hec
      rw [State.setCarrier_self, hd] at hx
      cases hx
      exact ⟨hg, ht, hlen⟩
    · have hce : (s.setCarrier c k).carrier e = s.carrier e := State.setCarrier_ne s c k e hec
      rw [hce] at hx
      rw [committedTotal_congr (s := s) (congrArg _ hce) rfl (fun _ _ => rfl)]
      exact hcar e x hx
  · obtain ⟨hfl, y, hy, hr⟩ := hprog p x hx
    refine ⟨hfl, ?_⟩
    by_cases hec : x.carrier = c
    · rw [hec, State.setCarrier_self]
      exact ⟨d, hd, fun hgr => hs (hec ▸ hscr hx hgr)⟩
    · rw [State.setCarrier_ne s c k _ hec]
      exact ⟨y, hy, hr⟩
  · by_cases hec : e = c
    · subst hec; rw [State.setCarrier_self, hd]; rfl
    · rw [State.setCarrier_ne s c k e hec] at he ⊢
      exact hserv e he
  · by_cases hec : e = c
    · subst hec; rwa [State.setCarrier_self]
    · rw [State.setCarrier_ne s c k e hec]
      exact hfrac e

/-! ### One programme record written -/

theorem naming_nodup (s : State) (c : CarrierNo) : (s.naming c).Nodup := (List.nodup_finRange 48).filter _

/-- Writing one programme changes nothing of the others that name a carrier. -/
theorem naming_setProgramme_others (s : State) (p : ProgrammeNo) (k : Programme) (c : CarrierNo) :
    ((s.setProgramme p k).naming c).filter (fun q => q != p) = (s.naming c).filter (fun q => q != p) := by
  unfold State.naming
  rw [List.filter_filter, List.filter_filter]
  refine List.filter_congr fun q _ => ?_
  by_cases hq : q = p
  · simp [hq]
  · simp [hq]

/-- A programme written without a definition for a carrier does not name it. -/
theorem naming_setProgramme_other {s : State} {p : ProgrammeNo} {k : Programme} {c : CarrierNo}
    (hk : k.definition.map (·.carrier) ≠ some c) :
    (s.setProgramme p k).naming c = (s.naming c).filter (fun q => q != p) := by
  rw [← naming_setProgramme_others s p k c]
  refine (List.filter_eq_self.2 fun q hq => ?_).symm
  have hqp : q ≠ p := by
    rintro rfl
    rw [mem_naming, State.setProgramme_self] at hq
    exact hk hq.2
  simpa using hqp

theorem committedTotal_setProgramme_le {s : State} {p : ProgrammeNo} {k : Programme} {c : CarrierNo}
    (hk : k.definition.map (·.carrier) ≠ some c) (reserve : Nat) :
    (s.setProgramme p k).committedTotal c reserve ≤ s.committedTotal c reserve := by
  unfold State.committedTotal
  rw [naming_setProgramme_other hk]
  refine Nat.add_le_add_left ?_ _
  have hmap : ∀ q ∈ (s.naming c).filter (fun q => q != p), (s.setProgramme p k).programme q = s.programme q := by
    intro q hq
    have hqp : q ≠ p := by simpa using (List.mem_filter.1 hq).2
    exact State.setProgramme_ne s p k q hqp
  rw [List.map_congr_left fun q hq => by rw [hmap q hq]]
  exact (List.filter_sublist.map _).sum_le_sum (fun _ _ => Nat.zero_le _)

theorem naming_setProgramme_length (s : State) (p : ProgrammeNo) (k : Programme) (c : CarrierNo) :
    ((s.setProgramme p k).naming c).length ≤ ((s.naming c).filter (fun q => q != p)).length + 1 := by
  rw [← naming_setProgramme_others s p k c, ← (naming_nodup _ c).erase_eq_filter p, List.length_erase]
  split <;> omega

/-- A programme record written as R14 and R16 allow it: none while UNUSED; otherwise on a defined carrier, within its
limits. -/
theorem recordsFit_setProgramme {s : State} {p : ProgrammeNo} {k : Programme} (h : s.recordsFit)
    (hu : k.state = .unused → k.definition = none)
    (hk : ∀ x, k.definition = some x → x.floor ≤ x.cap ∧ ∃ d, (s.carrier x.carrier).definition = some d
      ∧ (x.group.isSome → 3 ≤ d.reserve) ∧ (s.setProgramme p k).committedTotal x.carrier d.reserve ≤ d.guaranteed
      ∧ ((s.naming x.carrier).filter (fun q => q != p)).length < 24) :
    (s.setProgramme p k).recordsFit := by
  obtain ⟨⟨hcar, hun, hprog⟩, hserv, hfrac⟩ := h
  refine ⟨⟨fun c d hd => ?_, fun q hq => ?_, fun q x hx => ?_⟩, hserv, hfrac⟩
  · obtain ⟨hg, htotal, hlen⟩ := hcar c d hd
    refine ⟨hg, ?_⟩
    by_cases hn : k.definition.map (·.carrier) = some c
    · obtain ⟨x, hx, rfl⟩ := Option.map_eq_some_iff.1 hn
      obtain ⟨-, y, hy, -, ht, hl⟩ := hk x hx
      have hyd : y = d := Option.some.inj (hy.symm.trans hd)
      subst hyd
      exact ⟨ht, (naming_setProgramme_length s p k _).trans hl⟩
    · refine ⟨(committedTotal_setProgramme_le hn _).trans htotal, ?_⟩
      rw [naming_setProgramme_other hn]
      exact (List.length_filter_le _ _).trans hlen
  · by_cases hqp : q = p
    · subst hqp
      rw [State.setProgramme_self] at hq ⊢
      exact hu hq
    · rw [State.setProgramme_ne s p k q hqp] at hq ⊢
      exact hun q hq
  · by_cases hqp : q = p
    · subst hqp
      rw [State.setProgramme_self] at hx
      obtain ⟨hfl, d, hd, hr, -⟩ := hk x hx
      exact ⟨hfl, d, hd, hr⟩
    · rw [State.setProgramme_ne s p k q hqp] at hx
      exact hprog q x hx

/-! ### The orders that write records -/

theorem defineCarrier_recordsFit {s : State} (h : s.recordsFit) (carrier q t a : Nat) :
    (defineCarrier carrier q t a s).1.recordsFit := by
  cases hc : toCarrier carrier with
  | none => simpa [defineCarrier, hc, refused] using h
  | some c =>
      rw [toIndex_some hc, defineCarrier_eq]
      split
      · exact h
      · split
        · exact h
        · split
          · exact h
          · next hlim =>
            push Not at hlim
            refine recordsFit_setCarrier h rfl rfl ?_ (fun hs => ?_) (h.2.2 c)
            · rw [committedTotal_setCarrier_definition]; exact hlim.1
            · by_contra hlt
              exact hlim.2 (Nat.lt_of_not_le hlt) hs

theorem setCarrierOn_recordsFit {s : State} (h : s.recordsFit) (carrier : Nat) (target : Selector) :
    (setCarrierOn carrier target s).1.recordsFit := by
  cases hc : toCarrier carrier with
  | none => simpa [setCarrierOn, hc, refused] using h
  | some c =>
      cases target with
      | other v => simpa [setCarrierOn, hc, refused] using h
      | named =>
          rw [toIndex_some hc, setCarrierOn_eq]
          split
          · next hst =>
            obtain ⟨d, hd⟩ := Option.ne_none_iff_exists'.1 hst.2
            obtain ⟨hg, ht, -⟩ := h.1.1 c d hd
            have hpos : 0 < Config.budgetDivisor := by decide
            refine recordsFit_setCarrier h hd hg ?_ (reserve_of_scrambles h hd) hpos
            refine (committedTotal_congr ?_ ?_ ?_ _).trans_le ht
            · rw [State.setCarrier_self]
            · rfl
            · exact fun _ _ => rfl
          · exact h

theorem setAllowance_recordsFit {s : State} (h : s.recordsFit) (port carrier n : Nat) :
    (setAllowance port carrier n s).1.recordsFit := by
  cases hp : toPort port with
  | none => simpa [setAllowance, hp, refused] using h
  | some p =>
    cases hc : toCarrier carrier with
    | none => simpa [setAllowance, hp, hc, refused] using h
    | some c =>
      by_cases hn : n < 64
      · rw [toIndex_some hp, toIndex_some hc]
        cases hd : (s.carrier c).definition with
        | none => rw [setAllowance_undefined p c n hn s hd]; exact h
        | some d =>
            rw [setAllowance_defined p c n hn s d hd]
            split
            · exact h
            · next hlim =>
              exact recordsFit_setCarrier h hd (h.1.1 c d hd).1 (Nat.le_of_not_lt hlim) (reserve_of_scrambles h hd)
                (h.2.2 c)
      · have : 63 < n := by omega
        simpa [setAllowance, hp, hc, this, refused] using h

theorem defineProgramme_recordsFit {s : State} (h : s.recordsFit) (programme carrier group w fl cap : Nat) :
    (defineProgramme programme carrier group w fl cap s).1.recordsFit := by
  cases hp : toProgramme programme with
  | none => simpa [defineProgramme, hp, refused] using h
  | some p =>
    cases hc : toCarrier carrier with
    | none => simpa [defineProgramme, toProgrammeDef, hp, hc, refused] using h
    | some c =>
      cases hg : toGroupOrClear group with
      | none => simpa [defineProgramme, toProgrammeDef, hp, hc, hg, refused] using h
      | some g =>
        rw [toIndex_some hp, toIndex_some hc]
        by_cases hr : 1 ≤ w ∧ w ≤ 16 ∧ fl ≤ 255 ∧ 1 ≤ cap ∧ cap ≤ 4229 ∧ fl ≤ cap
        case neg => rw [defineProgramme_range hg hr]; exact h
        by_cases hs : (s.programme p).state ≠ .unused ∧ (s.programme p).state ≠ .idle
        case pos => rw [defineProgramme_serving hg hr hs]; exact h
        cases hd : (s.carrier c).definition with
        | none => rw [defineProgramme_undefined hg hr hd]; exact h
        | some d =>
          by_cases hf : s.namesFree g = true
          case pos => rw [defineProgramme_freeGroup hg hr hd hf]; exact h
          rw [defineProgramme_admission hg hr hd hs (Bool.eq_false_iff.2 hf)]
          split
          · exact h
          · next hlim =>
            push Not at hlim
            obtain ⟨hlen, hres, htotal⟩ := hlim
            refine recordsFit_setProgramme h (fun hu => ?_) (fun x hx => ?_)
            · rw [Programme.define_eq] at hu
              split at hu
              · cases hu
              · next hne => exact absurd hu hne
            · have hx : x = ⟨c, g, w, fl, cap⟩ := by
                rw [Programme.define_eq] at hx
                split at hx <;> exact (Option.some.inj hx).symm
              subst hx
              exact ⟨hr.2.2.2.2.2, d, hd, fun hgs => hres (Option.isSome_iff_ne_none.1 hgs), htotal, hlen⟩

theorem setProgrammeUnused_recordsFit {s : State} (h : s.recordsFit) (programme : Nat) :
    (setProgrammeUnused programme s).1.recordsFit := by
  cases hp : toProgramme programme with
  | none => simpa [setProgrammeUnused, hp, refused] using h
  | some p =>
      rw [toIndex_some hp, setProgrammeUnused_eq]
      split
      · exact recordsFit_setProgramme h (fun _ => rfl) (fun x hx => by cases hx)
      · exact h

/-- A state whose blocks are at their reset values (R154). -/
theorem recordsFit_of_reset {t : State} (hc : t.carriers = State.reset.carriers)
    (hp : t.programmes = State.reset.programmes) : t.recordsFit := by
  have hcar : ∀ c, t.carrier c = Carrier.reset := fun c => by
    unfold State.carrier; rw [hc]; exact Vector.getElem_replicate _
  have hprog : ∀ p, t.programme p = Programme.reset := fun p => by
    unfold State.programme; rw [hp]; exact Vector.getElem_replicate _
  refine ⟨⟨fun c d hd => ?_, fun p _ => ?_, fun p d hd => ?_⟩, fun c hs => ?_, fun c => ?_⟩
  · rw [hcar] at hd; cases hd
  · rw [hprog]; rfl
  · rw [hprog] at hd; cases hd
  · rw [hcar] at hs; exact absurd rfl hs
  · rw [hcar]; decide

/-! ### Every command -/

/-- Every command leaves the records within what the orders allow. -/
theorem exec_recordsFit {c : Instr} {s t : State} (h : s.recordsFit) (ht : exec c s = .next t) : t.recordsFit := by
  cases hw : writesRecords c with
  | false =>
      obtain ⟨u, hu, hk⟩ := exec_recordsKept hw s
      cases hu.symm.trans ht
      exact hk.recordsFit h
  | true =>
      cases c
      case defineCarrier => cases ht; exact recordsFit_offLine.takeOrder h (defineCarrier_recordsFit h _ _ _ _)
      case setCarrierOn => cases ht; exact recordsFit_offLine.takeOrder h (setCarrierOn_recordsFit h _ _)
      case setAllowance => cases ht; exact recordsFit_offLine.takeOrder h (setAllowance_recordsFit h _ _ _)
      case defineProgramme =>
        cases ht; exact recordsFit_offLine.takeOrder h (defineProgramme_recordsFit h _ _ _ _ _ _)
      case setProgrammeUnused => cases ht; exact recordsFit_offLine.takeOrder h (setProgrammeUnused_recordsFit h _)
      case restartPart =>
        cases ht
        refine recordsFit_offLine.takeFrame h ?_
        split
        · exact recordsFit_offLine.refuse _ _ _ _ h
        · exact recordsFit_of_reset rfl rfl
      case powerOn => cases ht; exact recordsFit_of_reset rfl rfl
      case resetInputLow => cases ht; exact recordsFit_of_reset rfl rfl
      all_goals cases hw

/-! ### The station number (R2) -/

theorem station_offLine (n : BitVec 4) : OffLine (fun s => s.stationNumber = n) where
  line s q ln h := by simpa using h
  count s q h := by simpa using h

/-- No command but power-on changes the station number. -/
theorem exec_stationNumber {c : Instr} {s t : State} (ht : exec c s = .next t) (hc : ∀ straps, c ≠ .powerOn straps) :
    t.stationNumber = s.stationNumber := by
  cases hw : writesRecords c with
  | false =>
      obtain ⟨u, hu, hk⟩ := exec_recordsKept hw s
      cases hu.symm.trans ht
      exact hk.station
  | true =>
      have order : ∀ (f : Frame) (o : Order) (effect : State → State × Response),
          (effect s).1.stationNumber = s.stationNumber →
            (s.takeOrder f o effect).stationNumber = s.stationNumber :=
        fun f o effect => (station_offLine s.stationNumber).takeOrder rfl
      cases c
      case defineCarrier => cases ht; exact order _ _ _ (by fun_cases defineCarrier <;> rfl)
      case setCarrierOn => cases ht; exact order _ _ _ (by fun_cases setCarrierOn <;> rfl)
      case setAllowance => cases ht; exact order _ _ _ (by fun_cases setAllowance <;> rfl)
      case defineProgramme => cases ht; exact order _ _ _ (by fun_cases defineProgramme <;> rfl)
      case setProgrammeUnused => cases ht; exact order _ _ _ (by fun_cases setProgrammeUnused <;> rfl)
      case restartPart =>
        cases ht
        refine (station_offLine s.stationNumber).takeFrame rfl ?_
        split
        · exact (station_offLine s.stationNumber).refuse _ _ _ _ rfl
        · rfl
      case powerOn straps => exact absurd rfl (hc straps)
      case resetInputLow => cases ht; rfl
      all_goals cases hw

end Sys2Proof.Machine

namespace Sys2Proof.Settled

open Sys2Proof.Machine

/-- Settles O54: a step is a command, by `exec_recordsFit`, or an idle step, which leaves the records. -/
theorem recordsAreKept : Obligations.RecordsAreKept := by
  intro s t h hstep
  unfold step at hstep
  split at hstep
  · next rest _ =>
    have hrest : RecordsKept s { s with pending := rest } := .of_eq rfl rfl rfl
    exact exec_recordsFit (hrest.recordsFit h) hstep
  · cases hstep
    exact (idle_recordsKept s).recordsFit h

/-- Settles O9: READ TIME passes every check of R147 on a free port; the station number by `exec_stationNumber`. -/
theorem readTimeAndStationNumber : Obligations.ReadTimeAndStationNumber := by
  refine ⟨fun p s h => ?_, fun c s t ht hc => exec_stationNumber ht hc, fun straps s t ht => ?_⟩
  · have ha : s.Accepts ⟨p, true⟩ .readTime := ⟨h, by cases p <;> rfl, fun _ => rfl, fun _ => rfl, rfl⟩
    exact congrArg _ (takeOrder_done ha rfl)
  · cases ht; rfl

end Sys2Proof.Settled

/-! SUPPORT. The step on an empty queue: which events are due, that each is due once, and what the output lines send in a
microsecond (R1, R7, R19, R64, R85, R86, R91, R133, R145, R155). -/

namespace Sys2Proof.Machine

/-! ### The queue of due events -/

theorem insertAt_perm (k : Nat) (c : Instr) (cs : List Instr) : (insertAt k c cs).Perm (c :: cs) := by
  have h := List.perm_middle (a := c) (l₁ := cs.take k) (l₂ := cs.drop k)
  rwa [List.take_append_drop] at h

/-- The free order of the due events takes each once. -/
theorem freeOrder_perm : ∀ (n : Nat) (cs : List Instr), (freeOrder n cs).Perm cs
  | _, [] => .refl _
  | n, c :: cs => (insertAt_perm _ c _).trans ((freeOrder_perm (n + 1) cs).cons c)

/-- A step on an empty queue with events due. -/
theorem idle_of_due {s : State} (h : s.dueEvents ≠ []) :
    s.idle = { s with
      pending := s.pending ++ freeOrder s.freeIndex s.dueEvents, freeIndex := s.freeIndex + s.dueEvents.length } := by
  unfold State.idle
  split
  · next he => exact absurd he h
  · next he => rw [he]

/-- A step on an empty queue with nothing due. -/
theorem idle_of_none {s : State} (h : s.dueEvents = []) : s.idle = s.tick := by
  unfold State.idle
  rw [h]

/-! ### Which events are due -/

theorem mem_dueOf {n : Nat} {due : Fin n → Bool} {command : Fin n → Instr} {i : Instr} :
    i ∈ dueOf due command ↔ ∃ x, due x = true ∧ command x = i := by
  simp [dueOf]

theorem dueOf_nodup {n : Nat} (due : Fin n → Bool) {command : Fin n → Instr} (h : Function.Injective command) :
    (dueOf due command).Nodup := ((List.nodup_finRange n).filter _).map h

theorem mem_ite_singleton {P : Prop} [Decidable P] {i x : Instr} : i ∈ (if P then [x] else []) ↔ P ∧ i = x := by
  split <;> simp [*]

/-- The due events, family by family. -/
theorem mem_dueEvents {s : State} {i : Instr} :
    i ∈ s.dueEvents ↔
      (s.restartDue = true ∧ i = .restartCompletion) ∨ (∃ l, s.signalDue l = true ∧ .signalDetected l = i)
      ∨ (s.linkUpDue .manager = true ∧ i = .orderLinkUp .manager)
      ∨ (∃ p, s.linkUpDue (.access p) = true ∧ .orderLinkUp (.access p) = i)
      ∨ (∃ c, s.boundaryDue c = true ∧ .boundary c = i) ∨ (∃ g, s.drawDue g = true ∧ .drawEvent g = i)
      ∨ (∃ g, s.startDue g = true ∧ .startEvent g = i) ∨ (∃ g, s.changeoverDue g = true ∧ .changeoverEvent g = i)
      ∨ (∃ c, s.shrinkDue c = true ∧ .shrinkCompletion c = i) ∨ ∃ c, s.sliceDue c = true ∧ .sliceEmission c = i := by
  simp only [State.dueEvents, List.mem_append, mem_dueOf, mem_ite_singleton, or_assoc]

/-- Each event is due once: within a family the objects differ, between families the commands do. -/
theorem dueEvents_nodup (s : State) : s.dueEvents.Nodup := by
  have single : ∀ (P : Prop) [Decidable P] (x : Instr), (if P then [x] else []).Nodup := by
    intro P _ x; split <;> simp
  have disj : ∀ {l m : List Instr}, (∀ i ∈ l, i ∉ m) → l.Disjoint m := fun h i hl hm => h i hl hm
  unfold State.dueEvents
  repeat' apply List.Nodup.append
  any_goals exact single _ _
  any_goals exact dueOf_nodup _ (fun a b h => by cases h; rfl)
  all_goals
    refine disj fun i hi hm => ?_
    simp only [List.mem_append, mem_dueOf, mem_ite_singleton] at hi hm
    grind

theorem shrinkCompletion_mem {s : State} {c : CarrierNo} :
    .shrinkCompletion c ∈ s.dueEvents ↔ s.shrinkDue c = true := by simp [mem_dueEvents]

theorem isDue_iff {s : State} {t : Option Time} : s.isDue t = true ↔ ∃ b, t = some b ∧ b ≤ s.time := by
  cases t <;> simp [State.isDue]

theorem keyed_iff (x : GroupState) : x.keyed = true ↔ x = .running ∨ x = .extended ∨ x = .frozen := by
  cases x <;> simp [GroupState.keyed]

/-- Shrink operations are outstanding while an entry of the building list is SHRINKING. -/
theorem shrinksLeft_pos {s : State} {c : CarrierNo} {list : EmissionList} (h : (s.carrier c).building = some list) :
    0 < s.shrinksLeft c ↔ ∃ e ∈ list.entries, e.state = .shrinking := by
  simp [State.shrinksLeft, h, List.length_pos_iff_exists_mem, ProgrammeEntry.busy]

/-- The emitting list has slices to emit while it has an item. -/
theorem emits_iff {k : Carrier} : k.emits = true ↔ ∃ item rest, k.emitting = some (item :: rest) := by
  unfold Carrier.emits
  split
  · next item rest h => simp [h]
  · next h => simpa using h

theorem afterEvent_iff {s : State} {c : CarrierNo} {b : Time} {d : CarrierDef}
    (hb : (s.carrier c).nextBoundary = some b) (hd : (s.carrier c).definition = some d) :
    s.afterEvent c = true ↔ b < s.time + d.interval := by
  simp [State.afterEvent, hb, Carrier.spec, hd]

/-! ### The output lines -/

theorem drain_empty {k : Carrier} (h : k.buffer = []) : k.drain = k := by
  simp [Carrier.drain, h]

/-- A microsecond on the line of a defined carrier with a slice in its buffer: in millionths of a bit (R133). -/
theorem drain_cons {k : Carrier} {d : CarrierDef} {x : Slice} {rest : List Slice} (hd : k.definition = some d)
    (hb : k.buffer = x :: rest) :
    let sent := k.bitsSent * 1000000 + k.bitPart + d.rate
    k.drain =
      if sent < 2048 * 1000000 then { k with bitsSent := sent / 1000000, bitPart := sent % 1000000 }
      else
        { k with
          buffer := rest, bitsSent := if rest = [] then 0 else sent / 1000000 - 2048, bitPart := sent % 1000000 } := by
  intro sent
  have hbits : k.bitsSent + (k.bitPart + d.rate) / 1000000 = sent / 1000000 := by omega
  have hpart : (k.bitPart + d.rate) % 1000000 = sent % 1000000 := by omega
  have hfull : 2048 ≤ sent / 1000000 ↔ ¬ sent < 2048 * 1000000 := by omega
  have hrate : k.spec.rate = d.rate := by simp [Carrier.spec, hd]
  unfold Carrier.drain
  split
  · next he => rw [hb] at he; cases he
  · next y ys he =>
    rw [hb] at he
    cases he
    rw [hrate, Config.second, Config.sliceBits]
    dsimp only
    rw [hbits, hpart]
    by_cases h : sent < 2048 * 1000000
    · rw [if_pos h, if_neg (fun hle => hfull.1 hle h)]
    · rw [if_neg h, if_pos (hfull.2 h)]
      simp only [List.isEmpty_iff]

end Sys2Proof.Machine

namespace Sys2Proof.Settled

open Sys2Proof.Machine

/-- Settles O3: the queue from `idle_of_due`, each family of due events from `mem_dueEvents`, the lines from
`drain_cons`. -/
theorem idleStep : Obligations.IdleStep := by
  intro s hp
  have hstep : step s = .next s.idle := by simp [step, hp]
  refine ⟨fun h => ?_, fun h hl ht => ?_, dueEvents_nodup s, fun i hi => ?_, fun h => ?_, fun hr ht => ?_, fun l => ?_, ?_,
    fun p => ?_, fun c b d list hb hd hl => ⟨fun h => ?_, fun h he hn => ?_⟩, fun c hc h => ?_, fun c => ?_, fun g => ?_,
    fun g => ?_, fun g => ?_, fun c => ?_, fun k => ⟨drain_empty, fun d x rest hd hb => drain_cons hd hb⟩⟩
  · refine ⟨freeOrder s.freeIndex s.dueEvents, s.freeIndex + s.dueEvents.length, ?_, freeOrder_perm _ _, ?_⟩
    · rw [hstep, idle_of_due h, hp]; rfl
    · exact Nat.lt_add_of_pos_right (List.length_pos_iff.2 h)
  · rw [hstep, idle_of_none h]
    have ht : s.time < maxTime := ht
    simp [State.tick, State.tickClock, hl, ht]
  · rw [mem_dueEvents] at hi
    rcases hi with h | ⟨x, -, rfl⟩ | h | ⟨x, -, rfl⟩ | ⟨x, -, rfl⟩ | ⟨x, -, rfl⟩ | ⟨x, -, rfl⟩ | ⟨x, -, rfl⟩ | ⟨x, -, rfl⟩
      | ⟨x, -, rfl⟩ <;> simp [*]
  · simp [mem_dueEvents, State.restartDue] at h
    exact h.1
  · have : Config.restartLimit ≤ s.time + 1 := Nat.succ_le_succ ht
    simp [mem_dueEvents, State.restartDue, hr, this]
  · simp [mem_dueEvents, State.signalDue, State.linksHeld, and_assoc]
  · simp [mem_dueEvents, State.linkUpDue, State.lineHeld, State.line, and_assoc]
  · simp [mem_dueEvents, State.linkUpDue, State.lineHeld, State.line, and_assoc]
  · simp only [shrinkCompletion_mem, State.shrinkDue, Bool.and_eq_true, decide_eq_true_eq] at h
    exact ⟨(afterEvent_iff hb hd).1 h.1.1, (shrinksLeft_pos hl).1 h.1.2⟩
  · have hdue : s.isDue ((s.carrier c).nextBoundary.map (· - 1)) = true :=
      isDue_iff.2 ⟨b - 1, by rw [hb]; rfl, Nat.sub_le_of_le_add hn⟩
    simp [shrinkCompletion_mem, State.shrinkDue, (afterEvent_iff hb hd).2 h, (shrinksLeft_pos hl).2 he, hdue]
  · rw [shrinkCompletion_mem] at h
    rcases hc with hc | hc
    · simp [State.shrinkDue, State.shrinksLeft, hc] at h
    · simp [State.shrinkDue, State.afterEvent, hc] at h
  · simp [mem_dueEvents, State.boundaryDue, isDue_iff]
  · simp [mem_dueEvents, State.drawDue, isDue_iff]
  · simp [mem_dueEvents, State.startDue, isDue_iff]
  · simp [mem_dueEvents, State.changeoverDue, isDue_iff, keyed_iff]
  · simp [mem_dueEvents, State.sliceDue, Carrier.hasRoom, emits_iff]

end Sys2Proof.Settled

/-! SUPPORT. Recomputations of pending slots (R77, R84, R90): a recomputation writes a start time and nothing a slot state
rests on, so any number of them leave what one of each group leaves. -/

namespace Sys2Proof.Machine

/-! ### What a slot state rests on -/

/-- The relevant set of a group rests on the carriers' states and on the programmes (R77). -/
theorem relevant_congr {s t : State} (hc : ∀ c, (t.carrier c).state = (s.carrier c).state)
    (hp : ∀ p, t.programme p = s.programme p) (g : GroupNo) : t.relevant g = s.relevant g := by
  simp only [State.relevant, State.carriesGroup, hc, hp]

/-- A slot state rests on the slot, the ACTIVE letter, the roles and the relevant set (R77). -/
theorem slotState_congr {s t : State} {g : GroupNo} {ph : Phase} (hs : (t.group g).slot ph = (s.group g).slot ph)
    (ha : (t.group g).active = (s.group g).active) (hr : (t.group g).roles = (s.group g).roles)
    (hv : t.relevant g = s.relevant g) : t.slotState g ph = s.slotState g ph := by
  have hcov : ∀ k, (t.group g).covered k = (s.group g).covered k := fun k => by unfold Group.covered; rw [hr]
  unfold State.slotState
  dsimp only
  rw [hs]
  cases (s.group g).slot ph with
  | none => rfl
  | some k =>
      dsimp only
      rw [ha, hcov, hv]

theorem startTimeFrom_congr {s s' t t' : State} {g : GroupNo} (ht : t.slotState g .a = t'.slotState g .a)
    (hst : (s.group g).state = (s'.group g).state) (hs : (s.group g).startTime = (s'.group g).startTime)
    (hti : s.time = s'.time) : t.startTimeFrom s g = t'.startTimeFrom s' g := by
  simp only [State.startTimeFrom, ht, hst, hs, hti]

/-! ### One recomputation -/

/-- The first whole second at or after a time (R84). -/
theorem ceilTo_second (t : Nat) : ceilTo Config.second t = (t + 999999) / 1000000 * 1000000 := by
  unfold ceilTo ceilDiv Config.second
  rw [Nat.add_sub_assoc (by decide)]

/-- A recomputation writes the start time that R84 gives. -/
theorem recompute_setGroup (s : State) (g : GroupNo) :
    s.recompute g = s.setGroup g { s.group g with startTime := s.startTimeFrom s g } := by
  have same : ∀ x, (s.group g).startTime = x → s = s.setGroup g { s.group g with startTime := x } := by
    rintro _ rfl; exact (State.setGroup_same s g).symm
  unfold State.recompute State.startTimeFrom
  dsimp only
  split
  · split
    · split
      · next x hx => exact same _ (by simp [hx])
      · next hx => rw [hx, ceilTo_second, Option.getD_none]
    · rfl
  · exact same _ rfl

@[simp] theorem recompute_group_self (s : State) (g : GroupNo) :
    (s.recompute g).group g = { s.group g with startTime := s.startTimeFrom s g } := by
  rw [recompute_setGroup, State.setGroup_self]

@[simp] theorem recompute_group_ne (s : State) {g h : GroupNo} (hg : h ≠ g) : (s.recompute g).group h = s.group h := by
  rw [recompute_setGroup, State.setGroup_ne _ _ _ _ hg]

/-- A recomputation changes no slot state. -/
@[simp] theorem recompute_slotState (s : State) (g h : GroupNo) (ph : Phase) :
    (s.recompute g).slotState h ph = s.slotState h ph := by
  have hv : (s.recompute g).relevant h = s.relevant h := by
    rw [recompute_setGroup]; exact relevant_congr (fun _ => rfl) (fun _ => rfl) h
  have hgrp : ∃ x, (s.recompute g).group h = { s.group h with startTime := x } := by
    by_cases hg : h = g
    · subst hg; exact ⟨_, recompute_group_self s h⟩
    · exact ⟨_, recompute_group_ne s hg⟩
  obtain ⟨x, hx⟩ := hgrp
  exact slotState_congr (by rw [hx]; cases ph <;> rfl) (by rw [hx]) (by rw [hx]) hv

/-- A recomputation of one group leaves the start time that R84 gives it, in the words of the statements: from the record
as it was in `s`. -/
theorem recompute_startTimeFrom {s u : State} {g : GroupNo} (hst : (u.group g).state = (s.group g).state)
    (hs : (u.group g).startTime = (s.group g).startTime) (ht : u.time = s.time) :
    (u.recompute g).group g = { u.group g with startTime := (u.recompute g).startTimeFrom s g } := by
  rw [recompute_group_self,
    startTimeFrom_congr (recompute_slotState u g g .a).symm hst hs ht]

/-! ### Recomputations of every group -/

theorem recomputeFold_slotState (l : List GroupNo) (s : State) (h : GroupNo) (ph : Phase) :
    (l.foldl State.recompute s).slotState h ph = s.slotState h ph :=
  foldl_keeps (fun t : State => t.slotState h ph) State.recompute (fun t g => recompute_slotState t g h ph) l s

theorem recomputeFold_group : ∀ (l : List GroupNo), l.Nodup → ∀ (s : State) (g : GroupNo),
    (l.foldl State.recompute s).group g =
      if g ∈ l then { s.group g with startTime := s.startTimeFrom s g } else s.group g
  | [], _, s, g => by simp
  | h :: l, hl, s, g => by
      obtain ⟨hh, hl⟩ := List.nodup_cons.1 hl
      rw [List.foldl_cons, recomputeFold_group l hl]
      by_cases hg : g = h
      · subst hg
        simp [hh]
      · have hgrp := recompute_group_ne s hg
        have htime : (s.recompute h).time = s.time := by rw [recompute_setGroup]; rfl
        have hst : (s.recompute h).startTimeFrom (s.recompute h) g = s.startTimeFrom s g :=
          startTimeFrom_congr (recompute_slotState s h g .a) (by rw [hgrp]) (by rw [hgrp]) htime
        simp [hg, hgrp, hst]

/-- The recomputation of every group writes the start times that R84 gives, from the records as they were in `s`. -/
theorem recomputeAll_group {s u : State} {g : GroupNo} (hst : (u.group g).state = (s.group g).state)
    (hs : (u.group g).startTime = (s.group g).startTime) (ht : u.time = s.time) :
    u.recomputeAll.group g = { u.group g with startTime := u.recomputeAll.startTimeFrom s g } := by
  unfold State.recomputeAll
  have hslot := recomputeFold_slotState (List.finRange 32) u g .a
  rw [recomputeFold_group _ (List.nodup_finRange 32), if_pos (List.mem_finRange g),
    startTimeFrom_congr hslot.symm hst hs ht]

end Sys2Proof.Machine

/-! SUPPORT. A carrier becoming OFF (R9): what the programmes, the free list, the queues and the aired sets become; and SET
CARRIER with target OFF (R8). -/

namespace Sys2Proof.Machine

/-! ### The programmes of the carrier -/

theorem servedBy_eq (s : State) (c : CarrierNo) :
    (s.programmesOf c).filter (fun p => (s.programme p).serving) = s.servedBy c := by
  rw [programmesOf_eq_naming]
  refine List.filter_congr fun p _ => ?_
  rw [Bool.eq_iff_iff, decide_eq_true_iff]
  exact Programme.serving_iff _

theorem servedBy_nodup (s : State) (c : CarrierNo) : (s.servedBy c).Nodup := (naming_nodup s c).filter _

/-- A programme stops: its cells return, its record is RESYNC and empty (R9). -/
theorem stopProgramme_eq (s : State) (p : ProgrammeNo) :
    s.stopProgramme p =
      (s.setProgramme p { s.programme p with state := .resync, expected := none, held := 0, queue := [] }).freeUp
        ((s.programme p).queue.flatMap (·.cells)) := by
  simp only [State.stopProgramme, State.emptyQueue, State.freeUp_programme, State.setProgramme_self]
  simp only [State.freeUp, State.setProgramme, Vector.set_set, unitCells]

/-- The programmes of a list stop one after another: each record as it was, the cells in the order of the list. -/
theorem stopProgrammes_eq : ∀ (l : List ProgrammeNo), l.Nodup → ∀ s : State,
    ∃ ps, l.foldl State.stopProgramme s =
        { s with
          programmes := ps
          freeCells := s.freeCells ++ l.flatMap (fun p => (s.programme p).queue.flatMap (·.cells)) }
      ∧ ∀ p, (l.foldl State.stopProgramme s).programme p =
        if p ∈ l then { s.programme p with state := .resync, expected := none, held := 0, queue := [] }
        else s.programme p
  | [], _, s => ⟨s.programmes, by simp, by simp⟩
  | q :: l, hl, s => by
      obtain ⟨hq, hl⟩ := List.nodup_cons.1 hl
      rw [List.foldl_cons]
      obtain ⟨ps, hps, hprog⟩ := stopProgrammes_eq l hl (s.stopProgramme q)
      have hself : (s.stopProgramme q).programme q
          = { s.programme q with state := .resync, expected := none, held := 0, queue := [] } := by
        rw [stopProgramme_eq, State.freeUp_programme, State.setProgramme_self]
      have hne : ∀ p, p ≠ q → (s.stopProgramme q).programme p = s.programme p := fun p hp => by
        rw [stopProgramme_eq, State.freeUp_programme, State.setProgramme_ne _ _ _ _ hp]
      refine ⟨ps, hps.trans ?_, fun p => (hprog p).trans ?_⟩
      · have hcells : l.flatMap (fun p => ((s.stopProgramme q).programme p).queue.flatMap (·.cells))
            = l.flatMap (fun p => (s.programme p).queue.flatMap (·.cells)) :=
          List.flatMap_congr fun p hp => by rw [hne p (fun e => hq (e ▸ hp))]
        rw [hcells, stopProgramme_eq, List.flatMap_cons, ← List.append_assoc]
        rfl
      · by_cases hp : p = q
        · subst hp; simp [hq, hself]
        · simp [hp, hne p hp]

/-! ### Queues and aired sets -/

theorem trimQueues_port (s : State) (c : CarrierNo) (q : PortNo) :
    (s.trimQueues c).port q =
      { s.port q with
        queue :=
          ((s.port q).queue.map (fun e => { e with remaining := dropItem e.remaining c })).filter
            (fun e => e.remaining != 0) } := by
  have htrim : ∀ es : List SubscriberEntry, es.filterMap (trimEntry c)
      = (es.map (fun e => { e with remaining := dropItem e.remaining c })).filter (fun e => e.remaining != 0) := by
    intro es
    induction es with
    | nil => rfl
    | cons e es ih =>
        by_cases h : dropItem e.remaining c = 0
        · have ht : trimEntry c e = none := if_pos h
          simpa [List.filterMap_cons, ht, h] using ih
        · have ht : trimEntry c e = some { e with remaining := dropItem e.remaining c } := if_neg h
          rw [List.filterMap_cons, ht, List.map_cons, List.filter_cons_of_pos (by simpa using h), ih]
  simp [State.trimQueues, State.port, htrim]

theorem clearAired_group (s : State) (c : CarrierNo) (g : GroupNo) :
    (s.clearAired c).group g =
      { s.group g with
        slotA := (s.group g).slotA.map (·.without c)
        slotB := (s.group g).slotB.map (·.without c) } := by
  simp only [State.clearAired, State.group, Vector.getElem_map]
  rfl

/-! ### The carrier -/

/-- The effects of R9 and nothing else. -/
theorem carrierOff_wentOff (s : State) (c : CarrierNo) : s.WentOff (s.carrierOff c) c := by
  unfold State.carrierOff
  rw [servedBy_eq]
  obtain ⟨ps, hstop, hprog⟩ := stopProgrammes_eq (s.servedBy c) (servedBy_nodup s c) s
  generalize (s.servedBy c).foldl State.stopProgramme s = u at hstop hprog ⊢
  have hcar : ∀ d, u.carrier d = s.carrier d := fun d => by rw [hstop]; rfl
  dsimp only
  generalize hv : u.setCarrier c { u.carrier c with state := .off, nextBoundary := none, carousel := [] } = v
  generalize hw : (v.trimQueues c).clearAired c = w
  have hgrp : ∀ g, w.group g = { s.group g with
      slotA := (s.group g).slotA.map (·.without c), slotB := (s.group g).slotB.map (·.without c) } := fun g => by
    rw [← hw, clearAired_group, ← hv, hstop]; rfl
  have hport : ∀ q, w.port q = (s.trimQueues c).port q := fun q => by
    rw [← hw, ← hv, hstop]; rfl
  have hall : ∀ g, w.recomputeAll.group g = { w.group g with startTime := w.recomputeAll.startTimeFrom s g } :=
    fun g => recomputeAll_group (by rw [hgrp]) (by rw [hgrp]) (by rw [← hw, ← hv, hstop]; rfl)
  obtain ⟨gs, hr⟩ := recomputeAll_shape w
  generalize w.recomputeAll = r at hall hr ⊢
  refine ⟨?_, fun d hd => ?_, fun p => ?_, ?_, fun q => ?_, fun g => ?_, ?_⟩
  · rw [hr, ← hw]
    change v.carrier c = _
    rw [← hv, State.setCarrier_self, hcar]
  · rw [hr, ← hw]
    change v.carrier d = _
    rw [← hv, State.setCarrier_ne _ _ _ _ hd, hcar]
  · rw [← hprog, hr, ← hw, ← hv]
    rfl
  · rw [hr, ← hw, ← hv, hstop]
    rfl
  · rw [← trimQueues_port, ← hport, hr]
    rfl
  · rw [hall, hgrp]
  · rw [hr, ← hw, ← hv, hstop]
    rfl

end Sys2Proof.Machine

namespace Sys2Proof.Settled

open Sys2Proof.Machine

/-- Settles O17: by the carrier's state, with `carrierOff_wentOff` for ARMED and the recomputation for ON_AIR. -/
theorem setCarrierOff : Obligations.SetCarrierOff := by
  intro s h
  refine ⟨fun carrier hc => ?_, fun c => ⟨fun hst => ?_, fun hst => ?_, fun hst => ?_⟩⟩
  · exact congrArg _ (takeOrder_rejected h (by simp [Machine.setCarrierOff, toCarrier_none hc]))
  · refine congrArg _ (takeOrder_rejected h ?_)
    rcases hst with hst | hst <;> simp [Machine.setCarrierOff, hst]
  · have hoff : Machine.setCarrierOff c.val s = (s.carrierOff c, .done (.carrierState .off)) := by
      simp [Machine.setCarrierOff, hst]
    have hwent := carrierOff_wentOff s c
    generalize s.carrierOff c = r at hoff hwent
    exact ⟨r, congrArg _ (takeOrder_done h hoff), hwent⟩
  · generalize hu : s.setCarrier c { s.carrier c with state := .draining, carousel := [] } = u
    have hoff : Machine.setCarrierOff c.val s = (u.recomputeAll, .done (.carrierState .draining)) := by
      simp [Machine.setCarrierOff, hst, hu]
    have hgrp : ∀ g, u.group g = s.group g := fun g => by rw [← hu]; rfl
    have hall : ∀ g, u.recomputeAll.group g = { u.group g with startTime := u.recomputeAll.startTimeFrom s g } :=
      fun g => recomputeAll_group (by rw [hgrp]) (by rw [hgrp]) (by rw [← hu]; rfl)
    obtain ⟨gs, hr⟩ := recomputeAll_shape u
    generalize u.recomputeAll = r at hoff hall hr
    refine ⟨r, congrArg _ (takeOrder_done h hoff), fun g => ?_, ?_⟩
    · rw [hall, hgrp]
    · rw [hr]

end Sys2Proof.Settled

/-! SUPPORT. Carriers gaining and losing groups (R114, R115, R117): the entries of stored packets by name, what placing them
makes of a carousel list; and SET PROGRAMME (R15, R16). -/

namespace Sys2Proof.Machine

/-! ### Entries by name -/

/-- The name of a carousel entry (R113). -/
def CarouselEntry.name (e : CarouselEntry) : GroupNo × Phase × PortNo := (e.group, e.phase, e.member)

theorem place_carousel (k : Carrier) (e : CarouselEntry) :
    (k.place e).carousel = k.carousel.filter (fun x => decide (x.name ≠ e.name)) ++ [e] := by
  unfold Carrier.place
  dsimp only
  congr 1
  refine List.filter_congr fun x _ => ?_
  rw [Bool.eq_iff_iff]
  simp [CarouselEntry.name, Prod.ext_iff, or_assoc]

/-- Placing entries of different names puts each into the list, in place of any of its name (R114). -/
theorem mem_foldl_place {e : CarouselEntry} : ∀ (es : List CarouselEntry), es.Pairwise (fun x y => x.name ≠ y.name) →
    ∀ k : Carrier, e ∈ (es.foldl Carrier.place k).carousel ↔
      e ∈ es ∨ (e ∈ k.carousel ∧ ∀ x ∈ es, e.name ≠ x.name)
  | [], _, k => by simp
  | x :: es, h, k => by
      obtain ⟨hx, h⟩ := List.pairwise_cons.1 h
      rw [List.foldl_cons, mem_foldl_place es h, place_carousel]
      simp only [List.mem_append, List.mem_filter, decide_eq_true_eq, List.mem_cons, List.not_mem_nil, or_false,
        forall_eq_or_imp]
      constructor
      · rintro (he | ⟨⟨he, hne⟩ | rfl, hall⟩)
        · exact .inl (.inr he)
        · exact .inr ⟨he, hne, hall⟩
        · exact .inl (.inl rfl)
      · rintro ((rfl | he) | ⟨he, hne, hall⟩)
        · exact .inr ⟨.inr rfl, fun y hy => hx y hy⟩
        · exact .inl he
        · exact .inr ⟨.inl ⟨he, hne⟩, hall⟩

/-- The packet stored in a slot for a member. -/
def Group.stored (grp : Group) (ph : Phase) (m : PortNo) : Option Packet :=
  (grp.slot ph).bind (fun k => k.packets[m.val])

theorem sliceCount_eq (n : Nat) : sliceCount n = (n + 247) / 248 := by
  unfold sliceCount ceilDiv Config.payloadBytes
  rw [Nat.add_sub_assoc (by decide)]

theorem entries_eq (grp : Group) (n : GroupNo) (due : Time) :
    grp.entries n due = [Phase.a, Phase.b].flatMap fun ph => (List.finRange 4).filterMap fun m =>
      (grp.stored ph m).map fun x => ⟨n, ph, m, (x.body.length + 247) / 248, due⟩ := by
  unfold Group.entries
  refine List.flatMap_congr fun ph _ => ?_
  unfold Group.stored
  cases grp.slot ph with
  | none => simp
  | some k => simp [sliceCount_eq]

/-- A group has one entry for each stored packet (R115). -/
theorem mem_entries {grp : Group} {n : GroupNo} {due : Time} {e : CarouselEntry} :
    e ∈ grp.entries n due ↔
      ∃ ph m x, grp.stored ph m = some x ∧ e = ⟨n, ph, m, (x.body.length + 247) / 248, due⟩ := by
  have hph : ∀ ph : Phase, ph ∈ [Phase.a, Phase.b] := by intro ph; cases ph <;> simp
  rw [entries_eq, List.mem_flatMap]
  simp [hph, eq_comm]

theorem entries_names (grp : Group) (n : GroupNo) (due : Time) :
    (grp.entries n due).Pairwise (fun x y => x.name ≠ y.name) := by
  rw [entries_eq, List.pairwise_flatMap]
  refine ⟨fun ph _ => ?_, ?_⟩
  · rw [List.pairwise_filterMap]
    refine (List.nodup_finRange 4).imp fun {a b} hab x hx y hy => ?_
    obtain ⟨_, -, rfl⟩ := Option.map_eq_some_iff.1 hx
    obtain ⟨_, -, rfl⟩ := Option.map_eq_some_iff.1 hy
    simpa [CarouselEntry.name] using hab
  · have hab : [Phase.a, Phase.b].Pairwise (· ≠ ·) := by decide
    refine hab.imp fun {ph ph'} hab x hx y hy => ?_
    simp only [List.mem_filterMap, Option.map_eq_some_iff] at hx hy
    obtain ⟨_, -, _, -, rfl⟩ := hx
    obtain ⟨_, -, _, -, rfl⟩ := hy
    simp [CarouselEntry.name, hab]

/-! ### Gaining groups -/

/-- The entries of the stored packets of some groups (R115). -/
def State.entriesOf (s : State) (gs : List GroupNo) (due : Time) : List CarouselEntry :=
  gs.flatMap (fun g => (s.group g).entries g due)

theorem mem_entriesOf {s : State} {gs : List GroupNo} {due : Time} {e : CarouselEntry} :
    e ∈ s.entriesOf gs due ↔ ∃ g ph m x, g ∈ gs ∧ (s.group g).stored ph m = some x
      ∧ e = ⟨g, ph, m, (x.body.length + 247) / 248, due⟩ := by
  simp only [State.entriesOf, List.mem_flatMap, mem_entries]
  constructor
  · rintro ⟨g, hg, ph, m, x, hx⟩; exact ⟨g, ph, m, x, hg, hx⟩
  · rintro ⟨g, ph, m, x, hg, hx⟩; exact ⟨g, hg, ph, m, x, hx⟩

theorem entriesOf_names (s : State) {gs : List GroupNo} (h : gs.Nodup) (due : Time) :
    (s.entriesOf gs due).Pairwise (fun x y => x.name ≠ y.name) := by
  unfold State.entriesOf
  rw [List.pairwise_flatMap]
  refine ⟨fun g _ => entries_names _ g due, h.imp fun {a b} hab x hx y hy => ?_⟩
  obtain ⟨_, _, _, -, rfl⟩ := mem_entries.1 hx
  obtain ⟨_, _, _, -, rfl⟩ := mem_entries.1 hy
  simp [CarouselEntry.name, hab]

/-- Gaining groups puts an entry for each stored packet into the list and leaves the entries of other names (R115). -/
theorem mem_gained {s : State} {gs : List GroupNo} (h : gs.Nodup) {due : Time} {k : Carrier} {e : CarouselEntry} :
    e ∈ ((s.entriesOf gs due).foldl Carrier.place k).carousel ↔
      (∃ g ph m x, g ∈ gs ∧ (s.group g).stored ph m = some x ∧ e = ⟨g, ph, m, (x.body.length + 247) / 248, due⟩)
        ∨ (e ∈ k.carousel ∧ ¬ (e.group ∈ gs ∧ (s.group e.group).stored e.phase e.member ≠ none)) := by
  rw [mem_foldl_place _ (entriesOf_names s h due), mem_entriesOf]
  refine or_congr_right (and_congr_right fun _ => ?_)
  constructor
  · rintro hall ⟨hg, hst⟩
    obtain ⟨x, hx⟩ := Option.ne_none_iff_exists'.1 hst
    exact hall _ (mem_entriesOf.2 ⟨_, _, _, x, hg, hx, rfl⟩) rfl
  · rintro hnot y hy hname
    obtain ⟨g, ph, m, x, hg, hx, rfl⟩ := mem_entriesOf.1 hy
    simp only [CarouselEntry.name, Prod.mk.injEq] at hname
    obtain ⟨rfl, rfl, rfl⟩ := hname
    exact hnot ⟨hg, by rw [hx]; exact Option.some_ne_none x⟩

theorem gainGroup_eq (s : State) (c : CarrierNo) (g : GroupNo) (due : Time) :
    s.gainGroup c g due = s.setCarrier c ((s.entriesOf [g] due).foldl Carrier.place (s.carrier c)) := by
  simp [State.gainGroup, State.entriesOf]

/-! ### SET PROGRAMME with target LIVE -/

section
variable {s : State} {p : ProgrammeNo}

/-- The programme's record after SET PROGRAMME with target LIVE (R15). -/
def Programme.goneLive (k : Programme) : Programme := { k with state := .resync, expected := none }

theorem goLive_clear (h : (s.programme p).definition.bind (·.group) = none) :
    s.goLive p = s.setProgramme p (s.programme p).goneLive := by
  unfold State.goLive
  dsimp only
  split
  · next d hd =>
    split
    · next g hg => simp [hd, hg] at h
    · rfl
  · rfl

/-- The carrier's record after SET PROGRAMME with target LIVE brings it a group (R15, R115). -/
def State.carrierGaining (s : State) (c : CarrierNo) (g : GroupNo) : Carrier :=
  if (s.carrier c).state = .onAir ∧ s.carriesGroup c g = false then
    (s.entriesOf [g] s.time).foldl Carrier.place (s.carrier c)
  else s.carrier c

theorem goLive_scrambled {d : ProgrammeDef} {g : GroupNo} (hd : (s.programme p).definition = some d)
    (hg : d.group = some g) :
    s.goLive p = ((s.setProgramme p (s.programme p).goneLive).setCarrier d.carrier
      (s.carrierGaining d.carrier g)).recompute g := by
  unfold State.goLive
  dsimp only
  split
  · next d' hd' =>
    cases hd.symm.trans hd'
    split
    · next g' hg' =>
      cases hg.symm.trans hg'
      unfold State.carrierGaining
      by_cases h : (s.carrier d.carrier).state = .onAir ∧ s.carriesGroup d.carrier g = false
      · rw [if_pos h, if_pos (by simpa using h), gainGroup_eq]
        rfl
      · rw [if_neg h, if_neg (by simpa using h)]
        congr 1
        exact (State.setCarrier_same _ _).symm
    · next hg' => cases hg.symm.trans hg'
  · next hd' => cases hd.symm.trans hd'

end

/-! ### SET PROGRAMME with target IDLE -/

/-- The programme's record and the free list after SET PROGRAMME with target IDLE (R16, R31). -/
def State.goneIdle (s : State) (p : ProgrammeNo) : State :=
  { s.setProgramme p { s.programme p with state := .idle, queue := [], held := 0 } with
    freeCells := s.freeCells ++ (s.programme p).queue.flatMap (·.cells) }

theorem goneIdle_eq (s : State) (p : ProgrammeNo) :
    (s.emptyQueue p).setProgramme p { (s.emptyQueue p).programme p with state := .idle, held := 0 } = s.goneIdle p := by
  simp only [State.emptyQueue, State.freeUp_programme, State.setProgramme_self]
  simp only [State.freeUp, State.setProgramme, Vector.set_set, unitCells, State.goneIdle]

theorem emptyQueue_definition (s : State) (p : ProgrammeNo) :
    ((s.emptyQueue p).programme p).definition = (s.programme p).definition := by
  simp [State.emptyQueue]

@[simp] theorem goneIdle_carrier (s : State) (p : ProgrammeNo) (c : CarrierNo) :
    (s.goneIdle p).carrier c = s.carrier c := rfl

/-- A carousel list that loses no entry leaves the carrier as it is. -/
theorem Carrier.filter_carousel_eq_self {k : Carrier} {f : CarouselEntry → Bool} (h : ∀ e, f e = true) :
    { k with carousel := k.carousel.filter f } = k := by
  rw [List.filter_eq_self.2 fun e _ => h e]

/-- The carrier's record after a programme of the group leaves it, the programmes as they are in `s` (R117). -/
def State.carrierLeft (s : State) (c : CarrierNo) (g : GroupNo) : Carrier :=
  { s.carrier c with
    carousel := (s.carrier c).carousel.filter (fun e => !(e.group == g && !s.carriesGroup c g)) }

theorem loseUncarried_eq (s : State) (c : CarrierNo) (g : GroupNo) :
    (if s.carriesGroup c g then s else s.loseGroup c g) = s.setCarrier c (s.carrierLeft c g) := by
  unfold State.carrierLeft
  split
  · next h => rw [Carrier.filter_carousel_eq_self (by simp [h]), State.setCarrier_same]
  · next h => simp [h, State.loseGroup]

section
variable {s : State} {p : ProgrammeNo}

theorem goIdle_clear (h : (s.programme p).definition.bind (·.group) = none) : s.goIdle p = s.goneIdle p := by
  unfold State.goIdle
  dsimp only
  rw [goneIdle_eq]
  split
  · next d hd =>
    rw [emptyQueue_definition] at hd
    split
    · next g hg => simp [hd, hg] at h
    · rfl
  · rfl

theorem goIdle_scrambled {d : ProgrammeDef} {g : GroupNo} (hd : (s.programme p).definition = some d)
    (hg : d.group = some g) :
    s.goIdle p =
      ((s.goneIdle p).setCarrier d.carrier ((s.goneIdle p).carrierLeft d.carrier g)).recompute g := by
  unfold State.goIdle
  dsimp only
  rw [goneIdle_eq]
  split
  · next d' hd' =>
    rw [emptyQueue_definition] at hd'
    cases hd.symm.trans hd'
    split
    · next g' hg' =>
      cases hg.symm.trans hg'
      rw [loseUncarried_eq]
    · next hg' => cases hg.symm.trans hg'
  · next hd' =>
    rw [emptyQueue_definition] at hd'
    cases hd.symm.trans hd'

end

theorem carriesGroup_congr {s t : State} (hp : t.programmes = s.programmes) (c : CarrierNo) (g : GroupNo) :
    t.carriesGroup c g = s.carriesGroup c g := by
  simp only [State.carriesGroup, State.programme, hp]

/-- Placing entries writes the carousel list alone (R114). -/
theorem foldl_place_carrier (es : List CarouselEntry) (k : Carrier) :
    es.foldl Carrier.place k = { k with carousel := (es.foldl Carrier.place k).carousel } :=
  foldl_rel (fun k l : Carrier => l = { k with carousel := l.carousel }) (fun _ => rfl)
    (fun _ _ _ h h' => by rw [h', h]) _ (fun _ _ => rfl) es k

theorem carrierGaining_eq (s : State) (c : CarrierNo) (g : GroupNo) :
    s.carrierGaining c g = { s.carrier c with carousel := (s.carrierGaining c g).carousel } := by
  unfold State.carrierGaining
  split
  · exact foldl_place_carrier _ _
  · rfl

end Sys2Proof.Machine

namespace Sys2Proof.Settled

open Sys2Proof.Machine

/-- Settles O20: a clear programme by `goLive_clear`, a scrambled one by `goLive_scrambled`, its entries by
`mem_gained`. -/
theorem setProgrammeLive : Obligations.SetProgrammeLive := by
  intro s h
  refine ⟨fun programme target hr => congrArg _ (takeOrder_rejected h ?_), fun p => ⟨fun hst => ?_, fun hst => ?_⟩⟩
  · rcases hr with hp | ht
    · simp [Machine.setProgrammeLive, toProgramme_none hp]
    · cases target with
      | named => exact absurd rfl ht
      | other v => simp [Machine.setProgrammeLive]
  · exact congrArg _ (takeOrder_rejected h (by simp [Machine.setProgrammeLive, hst]))
  · have hlive : Machine.setProgrammeLive p.val .named s = (s.goLive p, .done (.programmeState .resync)) := by
      simp [Machine.setProgrammeLive, hst]
    cases hgrp : (s.programme p).definition.bind (·.group) with
    | none =>
        rw [goLive_clear hgrp] at hlive
        refine ⟨_, congrArg _ (takeOrder_done h hlive), rfl, fun c => rfl, fun c _ => rfl, fun _ => rfl,
          fun d g hd hg => ?_⟩
        simp [hd, hg] at hgrp
    | some g =>
        obtain ⟨d, hd, hg⟩ := Option.bind_eq_some_iff.1 hgrp
        rw [goLive_scrambled hd hg] at hlive
        generalize hu : (s.setProgramme p (s.programme p).goneLive).setCarrier d.carrier
          (s.carrierGaining d.carrier g) = u at hlive
        have hgroups : ∀ x, u.group x = s.group x := fun x => by rw [← hu]; rfl
        have hrec : (u.recompute g).group g = { u.group g with startTime := (u.recompute g).startTimeFrom s g } :=
          recompute_startTimeFrom (by rw [hgroups]) (by rw [hgroups]) (by rw [← hu]; rfl)
        have hne : ∀ x, x ≠ g → (u.recompute g).group x = u.group x := fun x hx => recompute_group_ne u hx
        obtain ⟨gs, hr⟩ := recompute_shape u g
        generalize u.recompute g = t at hlive hrec hne hr
        have hcar : ∀ c, t.carrier c = if c = d.carrier then s.carrierGaining d.carrier g else s.carrier c :=
          fun c => by rw [hr]; change u.carrier c = _; rw [← hu, State.setCarrier_carrier]; rfl
        refine ⟨t, congrArg _ (takeOrder_done h hlive), ?_, fun c => ?_, fun c hc => ?_,
          fun hn => (nomatch hn), fun d' g' hd' hg' => ?_⟩
        · rw [hr, ← hu]; rfl
        · rw [hcar]
          split
          · next hcd => rw [hcd]; exact carrierGaining_eq s d.carrier g
          · rfl
        · rw [hcar]
          split
          · next hcd =>
            have hcarries := hc d g hd hg hcd.symm
            unfold State.carrierGaining
            rw [← hcd, if_neg fun hair => by simp [hcarries hair.1] at hair]
          · rfl
        · cases hd.symm.trans hd'
          cases hg.symm.trans hg'
          refine ⟨fun x hx => (hne x hx).trans (hgroups x), by rw [hrec, hgroups], fun hair hcarries e => ?_⟩
          rw [hcar, if_pos rfl, State.carrierGaining, if_pos ⟨hair, hcarries⟩, mem_gained (List.nodup_singleton g)]
          simp only [List.mem_singleton]
          constructor
          · rintro (⟨_, ph, m, x, rfl, hx⟩ | ⟨he, hnot⟩)
            · exact .inl ⟨ph, m, x, hx⟩
            · exact .inr ⟨he, fun ⟨heg, hst⟩ => hnot ⟨heg, by rw [heg]; exact hst⟩⟩
          · rintro (⟨ph, m, x, hx⟩ | ⟨he, hnot⟩)
            · exact .inl ⟨g, ph, m, x, rfl, hx⟩
            · exact .inr ⟨he, fun ⟨heg, hst⟩ => hnot ⟨heg, by rw [heg] at hst; exact hst⟩⟩

/-- Settles O21: UNUSED by its equation, IDLE of a clear programme by `goIdle_clear`, of a scrambled one by
`goIdle_scrambled`. -/
theorem setProgrammeIdleUnused : Obligations.SetProgrammeIdleUnused := by
  intro s h
  refine ⟨fun programme hr => ⟨?_, ?_⟩, fun p => ⟨?_, fun hst => ?_, fun hst => ?_⟩⟩
  · exact congrArg _ (takeOrder_rejected h (by simp [setProgrammeIdle, toProgramme_none hr]))
  · exact congrArg _ (takeOrder_rejected h (by simp [setProgrammeUnused, toProgramme_none hr]))
  · refine (congrArg Host.Outcome.next (?_ : s.takeOrder _ _ _ = _))
    by_cases hi : (s.programme p).state = .idle
    · rw [if_pos hi]
      exact takeOrder_done h (by rw [setProgrammeUnused_eq, if_pos hi])
    · rw [if_neg hi]
      exact takeOrder_rejected h (by rw [setProgrammeUnused_eq, if_neg hi])
  · refine congrArg _ (takeOrder_rejected h ?_)
    rcases hst with hst | hst <;> simp [setProgrammeIdle, Programme.serving, hst]
  · have hidle : setProgrammeIdle p.val s = (s.goIdle p, .done (.programmeState .idle)) := by
      simp [setProgrammeIdle, (Programme.serving_iff _).2 hst]
    cases hgrp : (s.programme p).definition.bind (·.group) with
    | none =>
        rw [goIdle_clear hgrp] at hidle
        exact ⟨_, congrArg _ (takeOrder_done h hidle), rfl,
          fun c => (Carrier.filter_carousel_eq_self (by simp)).symm, fun g => rfl⟩
    | some g =>
        obtain ⟨d, hd, hg⟩ := Option.bind_eq_some_iff.1 hgrp
        rw [goIdle_scrambled hd hg] at hidle
        generalize hu : (s.goneIdle p).setCarrier d.carrier ((s.goneIdle p).carrierLeft d.carrier g) = u at hidle
        have hgroups : ∀ x, u.group x = s.group x := fun x => by rw [← hu]; rfl
        have hrec : (u.recompute g).group g = { u.group g with startTime := (u.recompute g).startTimeFrom s g } :=
          recompute_startTimeFrom (by rw [hgroups]) (by rw [hgroups]) (by rw [← hu]; rfl)
        have hne : ∀ x, x ≠ g → (u.recompute g).group x = u.group x := fun x hx => recompute_group_ne u hx
        obtain ⟨gs, hr⟩ := recompute_shape u g
        generalize u.recompute g = t at hidle hrec hne hr
        have hcar : ∀ c, t.carrier c = if c = d.carrier then (s.goneIdle p).carrierLeft d.carrier g else s.carrier c :=
          fun c => by rw [hr]; change u.carrier c = _; rw [← hu, State.setCarrier_carrier]; rfl
        have hcarries : ∀ c x, t.carriesGroup c x = (s.goneIdle p).carriesGroup c x :=
          carriesGroup_congr (by rw [hr, ← hu]; rfl)
        refine ⟨t, congrArg _ (takeOrder_done h hidle), by rw [hr, ← hu]; rfl, fun c => ?_, fun x => ?_⟩
        · rw [hcar]
          split
          · next hcd =>
            subst hcd
            unfold State.carrierLeft
            rw [goneIdle_carrier]
            refine congrArg (fun l => { s.carrier d.carrier with carousel := l }) (List.filter_congr fun e _ => ?_)
            rw [hcarries, hd]
            by_cases he : e.group = g
            · simp [he]
            · simp [beq_eq_false_iff_ne.2 he, beq_eq_false_iff_ne.2 (Ne.symm he)]
          · next hcd =>
            exact (Carrier.filter_carousel_eq_self (by simp [hd, Ne.symm hcd])).symm
        · by_cases hx : x = g
          · subst hx; simp [hrec, hgroups]
          · simp [hne x hx, hgroups, Ne.symm hx]

end Sys2Proof.Settled

/-! SUPPORT. What ends with an interval: shrink completions one after another until no entry is SHRINKING, slices one
after another until no item is left, the cells returned and the filler counted (R63, R64, R133, R134). -/

namespace Sys2Proof.Machine

/-! ### Shrink completions in a row (R64) -/

theorem ready_iff_not_busy (e : ProgrammeEntry) : e.state = .ready ↔ e.busy = false := by
  unfold ProgrammeEntry.busy
  cases e.state <;> decide

/-- No shrink operation is outstanding when every entry of the building list is READY. -/
theorem shrinksLeft_eq_zero {s : State} {c : CarrierNo} :
    s.shrinksLeft c = 0 ↔ ∀ list, (s.carrier c).building = some list → ∀ e ∈ list.entries, e.state = .ready := by
  unfold State.shrinksLeft
  cases (s.carrier c).building with
  | none => simp
  | some l => simp [ready_iff_not_busy]

/-- A shrink completion leaves one operation fewer outstanding. -/
theorem shrinkNext_shrinksLeft (s : State) (c : CarrierNo) : (s.shrinkNext c).shrinksLeft c = s.shrinksLeft c - 1 := by
  unfold State.shrinkNext
  split
  · next hb => simp [State.shrinksLeft, hb]
  · next l hb =>
    have hentries := List.takeWhile_append_dropWhile (p := fun e : ProgrammeEntry => !e.busy) (l := l.entries)
    have hbefore : (l.entries.takeWhile (fun e => !e.busy)).filter (·.busy) = [] :=
      List.filter_eq_nil_iff.2 fun e he => by simpa using List.mem_takeWhile_imp he
    split
    · next hnone =>
      rw [hnone, List.append_nil] at hentries
      have hl : s.shrinksLeft c = 0 := by
        unfold State.shrinksLeft
        rw [hb]
        dsimp only
        rw [← hentries, hbefore]
        rfl
      rw [hl]
    · next e after hdrop =>
      have he : e.busy = true := by
        have hhead := List.head_dropWhile_not (p := fun e : ProgrammeEntry => !e.busy) (l := l.entries)
          (by simp [hdrop])
        simpa [hdrop] using hhead
      have hl : s.shrinksLeft c = (after.filter (·.busy)).length + 1 := by
        unfold State.shrinksLeft
        rw [hb]
        dsimp only
        rw [← hentries, hdrop, List.filter_append, hbefore, List.filter_cons_of_pos he]
        rfl
      have hshrunk : e.shrunk.busy = false := rfl
      rw [hl]
      simp [State.shrinkEntry, State.shrinksLeft, hbefore, hshrunk]

theorem shrinkTimes_shrinksLeft : ∀ (n : Nat) (s : State) (c : CarrierNo),
    (State.shrinkTimes n s c).shrinksLeft c = s.shrinksLeft c - n
  | 0, _, _ => rfl
  | n + 1, s, c => by
      rw [State.shrinkTimes, shrinkTimes_shrinksLeft n, shrinkNext_shrinksLeft, Nat.sub_sub, Nat.add_comm]

theorem finishShrinks_shrinksLeft (s : State) (c : CarrierNo) : (s.finishShrinks c).shrinksLeft c = 0 := by
  rw [State.finishShrinks, shrinkTimes_shrinksLeft, Nat.sub_self]

theorem finishShrinks_of_zero {s : State} {c : CarrierNo} (h : s.shrinksLeft c = 0) : s.finishShrinks c = s := by
  rw [State.finishShrinks, h, State.shrinkTimes]

/-- The outstanding shrinks finish one after another. -/
theorem finishShrinks_of_pos {s : State} {c : CarrierNo} (h : 0 < s.shrinksLeft c) :
    s.finishShrinks c = (s.shrinkNext c).finishShrinks c := by
  obtain ⟨n, hn⟩ := Nat.exists_eq_succ_of_ne_zero h.ne'
  rw [State.finishShrinks, State.finishShrinks, shrinkNext_shrinksLeft, hn, State.shrinkTimes, Nat.succ_sub_one]

/-! ### One slice (R134) -/

/-- The filler slices an item comes to; one with nothing left takes one (R133). -/
def Item.fillers : Item → Nat
  | .filler n => max n 1
  | .directory _ => 0
  | .access _ _ => 0
  | .subscriber _ => 0
  | .programme _ _ _ => 0

/-- Counters after `n` filler slices more (R142). -/
def Counters.filled (k : Counters) (n : Nat) : Counters :=
  if n = 0 then k else { k with filler := min (k.filler + n) Config.count32Max }

@[simp] theorem Counters.filled_zero (k : Counters) : k.filled 0 = k := rfl

theorem Counters.filled_filled (k : Counters) (m n : Nat) : (k.filled m).filled n = k.filled (m + n) := by
  unfold Counters.filled
  by_cases hm : m = 0
  · simp [hm]
  · by_cases hn : n = 0
    · simp [hn]
    · have hmn : m + n ≠ 0 := by omega
      have hmin : min (min (k.filler + m) Config.count32Max + n) Config.count32Max
          = min (k.filler + (m + n)) Config.count32Max := by omega
      rw [if_neg hm, if_neg hn, if_neg hmn]
      simp only [hmin]

/-- Slices an emitting list can still take: at least one for each item. -/
def toEmit (items : List Item) : Nat := itemsLeft items + items.length

theorem toEmit_cons (i : Item) (items : List Item) : toEmit (i :: items) = i.left + 1 + toEmit items := by
  unfold toEmit itemsLeft
  rw [List.map_cons, List.sum_cons, List.length_cons]
  omega

/-- `t` is `s` with `items` in place of the emitting list `list`: the difference has been emitted, its cells returned and
its filler counted. -/
structure Emitted (c : CarrierNo) (list items : List Item) (s t : State) : Prop where
  emitting : (t.carrier c).emitting = some items
  cells : t.freeCells ++ items.flatMap Item.cells = s.freeCells ++ list.flatMap Item.cells
  counters : (t.carrier c).counters.filled (items.map Item.fillers).sum
    = (s.carrier c).counters.filled (list.map Item.fillers).sum

theorem Emitted.trans {c : CarrierNo} {k l m : List Item} {s t u : State} (h : Emitted c k l s t)
    (h' : Emitted c l m t u) : Emitted c k m s u :=
  ⟨h'.emitting, h'.cells.trans h.cells, h'.counters.trans h.counters⟩

theorem emitProgramme_emitted (s : State) (c : CarrierNo) (e : ProgrammeEntry) (capture : Option (Phase × Key))
    (sent : Nat) (rest : List Item) :
    ∃ items, Emitted c (.programme e capture sent :: rest) items s (s.emitProgramme c e capture sent rest)
      ∧ toEmit items < toEmit (.programme e capture sent :: rest) := by
  unfold State.emitProgramme
  dsimp only
  split
  · next h =>
    refine ⟨.programme e capture (sent + 1) :: rest, ⟨by simp [State.pushSlice], ?_, ?_⟩, ?_⟩
    · simp [State.pushSlice, Item.cells]
    · simp [State.pushSlice, Item.fillers]
    · simp only [toEmit_cons, Item.left]
      omega
  · refine ⟨rest, ⟨by simp [State.pushSlice], ?_, ?_⟩, ?_⟩
    · simp [State.pushSlice, Item.cells]
    · simp [State.pushSlice, Item.fillers]
    · rw [toEmit_cons]
      omega

/-- One slice is emitted: what is left of the list gets shorter. -/
theorem emitSlice_emitted {s : State} {c : CarrierNo} {item : Item} {rest : List Item}
    (h : (s.carrier c).emitting = some (item :: rest)) :
    ∃ items, Emitted c (item :: rest) items s (s.emitSlice c) ∧ toEmit items < toEmit (item :: rest) := by
  have last : ∀ i, toEmit rest < toEmit (i :: rest) := fun i => by rw [toEmit_cons]; omega
  unfold State.emitSlice
  rw [h]
  cases item with
  | directory d =>
      refine ⟨rest, ⟨by simp [State.pushSlice], ?_, ?_⟩, last _⟩ <;> simp [State.pushSlice, Item.cells, Item.fillers]
  | subscriber u =>
      refine ⟨rest, ⟨by simp [State.pushLast], ?_, ?_⟩, last _⟩ <;> simp [State.pushLast, Item.cells, Item.fillers]
  | programme e capture sent => exact emitProgramme_emitted s c e capture sent rest
  | access a part =>
      dsimp only
      split
      · next hpart =>
        refine ⟨.access a (part + 1) :: rest, ⟨by simp [State.pushSlice], ?_, ?_⟩, ?_⟩
        · simp [State.pushSlice, Item.cells]
        · simp [State.pushSlice, Item.fillers]
        · simp only [toEmit_cons, Item.left]
          omega
      · refine ⟨rest, ⟨by simp [State.pushLast], ?_, ?_⟩, last _⟩ <;> simp [State.pushLast, Item.cells, Item.fillers]
  | filler n =>
      have count : ∀ k : Counters, { k with filler := count32 k.filler } = k.filled 1 := fun k => rfl
      dsimp only
      split
      · next hn =>
        refine ⟨.filler (n - 1) :: rest, ⟨by simp [State.pushSlice, State.modCounters], ?_, ?_⟩, ?_⟩
        · simp [State.pushSlice, State.modCounters, Item.cells]
        · have hmax : 1 + (max (n - 1) 1 + (rest.map Item.fillers).sum) = max n 1 + (rest.map Item.fillers).sum := by
            omega
          simp [State.pushSlice, State.modCounters, Item.fillers, count, Counters.filled_filled, hmax]
        · simp only [toEmit_cons, Item.left]
          omega
      · next hn =>
        refine ⟨rest, ⟨by simp [State.pushSlice, State.modCounters], ?_, ?_⟩, last _⟩
        · simp [State.pushSlice, State.modCounters, Item.cells]
        · have hmax : max n 1 = 1 := by omega
          simp [State.pushSlice, State.modCounters, Item.fillers, count, Counters.filled_filled, hmax]

theorem makeRoom_emitted {s : State} {c : CarrierNo} {items : List Item} (h : (s.carrier c).emitting = some items) :
    Emitted c items items s (s.makeRoom c) := by
  unfold State.makeRoom
  dsimp only
  split
  · exact ⟨h, rfl, rfl⟩
  · exact ⟨by simp [h], rfl, by simp⟩

/-- The next slice, the line having made room for it. -/
theorem emitNext_emitted {s : State} {c : CarrierNo} {item : Item} {rest : List Item}
    (h : (s.carrier c).emitting = some (item :: rest)) :
    ∃ items, Emitted c (item :: rest) items s ((s.makeRoom c).emitSlice c) ∧ toEmit items < toEmit (item :: rest) := by
  have hroom := makeRoom_emitted h
  obtain ⟨items, he, hlt⟩ := emitSlice_emitted hroom.emitting
  exact ⟨items, hroom.trans he, hlt⟩

/-! ### Slices in a row (R63, R133) -/

theorem emitTimes_of_not_emits {s : State} {c : CarrierNo} (h : (s.carrier c).emits = false) :
    ∀ n, State.emitTimes n s c = s
  | 0 => rfl
  | n + 1 => by simp [State.emitTimes, h]

theorem emits_cons {k : Carrier} {item : Item} {rest : List Item} (h : k.emitting = some (item :: rest)) :
    k.emits = true := emits_iff.2 ⟨item, rest, h⟩

theorem emits_nil {k : Carrier} (h : k.emitting = some []) : k.emits = false := by simp [Carrier.emits, h]

/-- The emissions left in a list are made by any number of steps that is large enough. -/
theorem emitTimes_enough : ∀ (n m : Nat) (s : State) (c : CarrierNo) (items : List Item),
    (s.carrier c).emitting = some items → toEmit items ≤ n → toEmit items ≤ m →
      State.emitTimes n s c = State.emitTimes m s c
  | n, m, s, c, [], h, _, _ => by rw [emitTimes_of_not_emits (emits_nil h), emitTimes_of_not_emits (emits_nil h)]
  | 0, _, _, _, item :: rest, _, hn, _ => absurd hn (by rw [toEmit_cons]; omega)
  | _ + 1, 0, _, _, item :: rest, _, _, hm => absurd hm (by rw [toEmit_cons]; omega)
  | n + 1, m + 1, s, c, item :: rest, h, hn, hm => by
      obtain ⟨items, he, hlt⟩ := emitNext_emitted h
      rw [State.emitTimes, State.emitTimes, if_pos (emits_cons h), if_pos (emits_cons h)]
      exact emitTimes_enough n m _ c items he.emitting (by omega) (by omega)

/-- Enough emissions empty the list. -/
theorem emitTimes_emitted : ∀ (n : Nat) (s : State) (c : CarrierNo) (items : List Item),
    (s.carrier c).emitting = some items → toEmit items ≤ n → Emitted c items [] s (State.emitTimes n s c)
  | n, s, c, [], h, _ => by
      rw [emitTimes_of_not_emits (emits_nil h)]
      exact ⟨h, rfl, rfl⟩
  | 0, _, _, item :: rest, _, hn => absurd hn (by rw [toEmit_cons]; omega)
  | n + 1, s, c, item :: rest, h, hn => by
      obtain ⟨items, he, hlt⟩ := emitNext_emitted h
      rw [State.emitTimes, if_pos (emits_cons h)]
      exact he.trans (emitTimes_emitted n _ c items he.emitting (by omega))

/-! ### The end of an interval -/

/-- The list ends with its interval, its copies with it (R140). -/
def State.clearEmitting (s : State) (c : CarrierNo) : State :=
  s.setCarrier c { s.carrier c with emitting := none, emitted := [] }

theorem endInterval_none {s : State} {c : CarrierNo} (h : (s.carrier c).emitting = none) :
    s.endInterval c = s.clearEmitting c := by
  unfold State.endInterval
  rw [h]
  rfl

theorem endInterval_some {s : State} {c : CarrierNo} {items : List Item} (h : (s.carrier c).emitting = some items) :
    s.endInterval c = (State.emitTimes (toEmit items) s c).clearEmitting c := by
  unfold State.endInterval
  rw [h]
  rfl

@[simp] theorem endInterval_emitting (s : State) (c : CarrierNo) : ((s.endInterval c).carrier c).emitting = none := by
  simp [State.endInterval]

@[simp] theorem endInterval_emitted (s : State) (c : CarrierNo) : ((s.endInterval c).carrier c).emitted = [] := by
  simp [State.endInterval]

/-- The slices of an interval that ends are placed one after another. -/
theorem endInterval_cons {s : State} {c : CarrierNo} {item : Item} {rest : List Item}
    (h : (s.carrier c).emitting = some (item :: rest)) :
    s.endInterval c = ((s.makeRoom c).emitSlice c).endInterval c := by
  obtain ⟨items, he, hlt⟩ := emitNext_emitted h
  obtain ⟨n, hn⟩ : ∃ n, toEmit (item :: rest) = n + 1 := ⟨_, by rw [toEmit_cons, Nat.add_right_comm]⟩
  rw [endInterval_some h, endInterval_some he.emitting, hn, State.emitTimes, if_pos (emits_cons h),
    emitTimes_enough n (toEmit items) _ c items he.emitting (by omega) le_rfl]

/-- The cells of an interval that ends return, its filler is counted. -/
theorem endInterval_returns {s : State} {c : CarrierNo} {items : List Item} (h : (s.carrier c).emitting = some items) :
    (s.endInterval c).freeCells = s.freeCells ++ items.flatMap Item.cells
      ∧ ((s.endInterval c).carrier c).counters = (s.carrier c).counters.filled (items.map Item.fillers).sum := by
  have he := emitTimes_emitted (toEmit items) s c items h le_rfl
  rw [endInterval_some h]
  exact ⟨by simpa [State.clearEmitting] using he.cells, by simpa [State.clearEmitting] using he.counters⟩

/-- The next slice is the SLICE_EMISSION event's, the line having made room (R133). -/
theorem makeRoom_sliceEmission {s : State} {c : CarrierNo} (h : (s.carrier c).buffer.length ≤ 2) :
    (s.makeRoom c).sliceEmission c = (s.makeRoom c).emitSlice c := by
  have hroom : ((s.makeRoom c).carrier c).hasRoom = true := by
    unfold State.makeRoom
    dsimp only
    split
    · assumption
    · simp [Carrier.hasRoom]
      omega
  rw [State.sliceEmission, if_pos hroom]

end Sys2Proof.Machine

/-! SUPPORT. Boundaries (R7): the groups an ARMED carrier gains, the interval that begins, and each boundary by the carrier's
state. -/

namespace Sys2Proof.Machine

/-! ### The groups of a carrier that goes on air (R115) -/

/-- The carrier carries a group while a LIVE or RESYNC programme of it names the carrier. -/
theorem carriesGroup_iff {s : State} {c : CarrierNo} {g : GroupNo} :
    s.carriesGroup c g = true ↔ ∃ p ∈ s.servedBy c, (s.programme p).definition.bind (·.group) = some g := by
  unfold State.carriesGroup State.servedBy
  rw [List.any_eq_true]
  refine exists_congr fun p => ?_
  rw [List.mem_filter, mem_naming, Programme.names_iff]
  simp only [Programme.group, Bool.and_eq_true, decide_eq_true_eq, Programme.serving_iff, beq_iff_eq]
  constructor
  · rintro ⟨-, ⟨hserve, hname⟩, hg⟩
    exact ⟨⟨hname, hserve⟩, hg⟩
  · rintro ⟨⟨hname, hserve⟩, hg⟩
    exact ⟨List.mem_finRange p, ⟨hserve, hname⟩, hg⟩

/-- The groups a carrier carries. -/
def State.carried (s : State) (c : CarrierNo) : List GroupNo := (List.finRange 32).filter (s.carriesGroup c)

theorem carried_nodup (s : State) (c : CarrierNo) : (s.carried c).Nodup := (List.nodup_finRange 32).filter _

theorem gainGroups_from (s : State) (c : CarrierNo) (b : Time) : ∀ (l : List GroupNo) (k : Carrier),
    l.foldl (fun s g => if s.carriesGroup c g then s.gainGroup c g b else s) (s.setCarrier c k) =
      s.setCarrier c ((s.entriesOf (l.filter (s.carriesGroup c)) b).foldl Carrier.place k)
  | [], _ => rfl
  | g :: l, k => by
      have hcarries : (s.setCarrier c k).carriesGroup c g = s.carriesGroup c g := carriesGroup_congr rfl c g
      rw [List.foldl_cons, hcarries]
      by_cases h : s.carriesGroup c g = true
      · have hgain : (s.setCarrier c k).gainGroup c g b =
            s.setCarrier c (((s.group g).entries g b).foldl Carrier.place k) := by
          simp [State.gainGroup]
        rw [if_pos h, hgain, gainGroups_from s c b l, List.filter_cons_of_pos h]
        simp [State.entriesOf, List.flatMap_cons, List.foldl_append]
      · rw [if_neg h, gainGroups_from s c b l, List.filter_cons_of_neg h]

/-- A carrier gains every group it carries, and nothing else changes. -/
theorem gainGroups_eq (s : State) (c : CarrierNo) (b : Time) :
    s.gainGroups c b = s.setCarrier c ((s.entriesOf (s.carried c) b).foldl Carrier.place (s.carrier c)) := by
  have h := gainGroups_from s c b (List.finRange 32) (s.carrier c)
  rwa [State.setCarrier_same] at h

/-- The carousel list of a carrier that goes on air (R115). -/
theorem mem_gainGroups {s : State} {c : CarrierNo} {b : Time} {e : CarouselEntry} :
    e ∈ ((s.gainGroups c b).carrier c).carousel ↔
      (∃ g ph m x, s.carriesGroup c g = true ∧ (s.group g).stored ph m = some x
          ∧ e = ⟨g, ph, m, (x.body.length + 247) / 248, b⟩)
        ∨ (e ∈ (s.carrier c).carousel
          ∧ ¬ (s.carriesGroup c e.group = true ∧ (s.group e.group).stored e.phase e.member ≠ none)) := by
  have hmem : ∀ g, g ∈ s.carried c ↔ s.carriesGroup c g = true := fun g => by simp [State.carried]
  rw [gainGroups_eq, State.setCarrier_self, mem_gained (carried_nodup s c)]
  simp only [hmem]

/-! ### The next boundary time and the next list -/

theorem advance_eq {s : State} {c : CarrierNo} {b : Time} {d : CarrierDef} (h : (s.carrier c).definition = some d) :
    s.advance c b = s.setCarrier c { s.carrier c with nextBoundary := some (b + d.interval) } := by
  simp [State.advance, Carrier.spec, h]

theorem beginInterval_none {s : State} {c : CarrierNo} (h : (s.carrier c).building = none) (final : Bool) :
    s.beginInterval c final = s := by
  unfold State.beginInterval
  rw [h]

theorem beginInterval_some {s : State} {c : CarrierNo} {list : EmissionList} (h : (s.carrier c).building = some list)
    (final : Bool) :
    s.beginInterval c final =
      (s.setCarrier c { s.carrier c with building := none, emitting := some (s.itemsOf c list final) }).freeUp
        ((s.withdrawnOf list.entries).flatMap (·.unit.cells)) := by
  unfold State.beginInterval
  rw [h]

theorem beginInterval_building (s : State) (c : CarrierNo) (final : Bool) :
    ((s.beginInterval c final).carrier c).building = none := by
  cases h : (s.carrier c).building with
  | none => rw [beginInterval_none h, h]
  | some list => simp [beginInterval_some h]

theorem beginInterval_emitted (s : State) (c : CarrierNo) (final : Bool) :
    ((s.beginInterval c final).carrier c).emitted = (s.carrier c).emitted := by
  cases h : (s.carrier c).building with
  | none => rw [beginInterval_none h]
  | some list => simp [beginInterval_some h]

/-! ### The interval that begins -/

/-- The interval in progress has ended (R63, R64). -/
def State.ended (s : State) (c : CarrierNo) : State := (s.finishShrinks c).endInterval c

/-- The interval in progress has ended, and the next interval number has begun (R7). -/
def State.begun (s : State) (c : CarrierNo) : State :=
  (s.ended c).setCarrier c { (s.ended c).carrier c with interval := (s.carrier c).interval + 1 }

theorem ended_outputKept (s : State) (c : CarrierNo) : OutputKept c s (s.ended c) :=
  .trans _ _ _ (finishShrinks_outputKept s) (endInterval_outputKept _)

theorem begun_carrier (s : State) (c : CarrierNo) :
    (s.begun c).carrier c = { (s.ended c).carrier c with interval := (s.carrier c).interval + 1 } := by
  rw [State.begun, State.setCarrier_self]

theorem nextInterval_eq (s : State) (c : CarrierNo) (final : Bool) :
    s.nextInterval c final = (s.begun c).beginInterval c final := by
  have hint : (((s.finishShrinks c).endInterval c).carrier c).interval = (s.carrier c).interval := by
    have h := (ended_outputKept s c).carrier
    unfold State.ended at h
    rw [h]
  unfold State.nextInterval State.begun State.ended
  dsimp only
  rw [hint]

/-- What the begin of an interval leaves of its carrier and of the others. -/
theorem nextInterval_kept (s : State) (c : CarrierNo) (final : Bool) :
    ∃ building emitting buffer bitsSent counters,
      (s.nextInterval c final).carrier c =
          { s.carrier c with
            interval := (s.carrier c).interval + 1, building := building, emitting := emitting, emitted := [],
            buffer := buffer, bitsSent := bitsSent, counters := counters }
        ∧ building = none
        ∧ (∀ list, ((s.ended c).carrier c).building = some list →
            emitting = some ((s.begun c).itemsOf c list final))
        ∧ (∀ e, e ≠ c → (s.nextInterval c final).carrier e = s.carrier e)
        ∧ (s.nextInterval c final).access = s.access := by
  rw [nextInterval_eq]
  have hend := ended_outputKept s c
  have hbegin := beginInterval_outputKept (c := c) (s.begun c) final
  have hemitted : (((s.begun c).beginInterval c final).carrier c).emitted = [] := by
    rw [beginInterval_emitted, begun_carrier]
    exact endInterval_emitted _ c
  have hcar := hbegin.carrier
  rw [begun_carrier, hend.carrier, hemitted] at hcar
  refine ⟨_, _, _, _, _, hcar, beginInterval_building _ c final, fun list hl => ?_, fun e he => ?_, ?_⟩
  · have hl' : ((s.begun c).carrier c).building = some list := by
      rw [begun_carrier]; exact hl
    rw [beginInterval_some hl']
    simp
  · rw [hbegin.others e he, State.begun, State.setCarrier_ne _ _ _ _ he, hend.others e he]
  · rw [hbegin.access, State.begun, State.setCarrier_access, hend.access]

/-! ### A boundary by the carrier's state (R7) -/

section
variable {s : State} {c : CarrierNo} {b : Time}

theorem boundary_not_due (h : ∀ b, (s.carrier c).nextBoundary = some b → s.time < b) : s.boundary c = s := by
  unfold State.boundary
  split
  · next b hb => rw [if_neg (Nat.not_le.2 (h b hb))]
  · rfl

variable (hb : (s.carrier c).nextBoundary = some b) (hle : b ≤ s.time)
include hb hle

theorem boundary_due : s.boundary c = s.takeBoundary c b := by
  unfold State.boundary
  rw [hb]
  exact if_pos hle

theorem boundary_armed (h : (s.carrier c).state = .armed) : s.boundary c = s.firstBoundary c b := by
  rw [boundary_due hb hle, State.takeBoundary, h]

theorem boundary_onAir (h : (s.carrier c).state = .onAir) :
    s.boundary c = ((s.nextInterval c false).allocate c b).advance c b := by
  rw [boundary_due hb hle, State.takeBoundary, h]
  rfl

theorem boundary_draining_some (h : (s.carrier c).state = .draining) {list : EmissionList}
    (hl : (s.carrier c).building = some list) : s.boundary c = (s.nextInterval c true).advance c b := by
  rw [boundary_due hb hle, State.takeBoundary, h]
  simp [State.drainBoundary, hl]

theorem boundary_draining_none (h : (s.carrier c).state = .draining) (hl : (s.carrier c).building = none) :
    s.boundary c = (s.endInterval c).carrierOff c := by
  rw [boundary_due hb hle, State.takeBoundary, h]
  simp [State.drainBoundary, hl]

end

/-- The first interval of an ARMED carrier: the directory slice of its programmes, then filler (R7, R139). -/
theorem firstInterval_armed {s : State} {c : CarrierNo} {d : CarrierDef} (h : (s.carrier c).definition = some d) :
    (s.setCarrier c { s.carrier c with state := .onAir, interval := 1 }).firstInterval c =
      s.setCarrier c
        { s.carrier c with
          state := .onAir
          interval := 1
          emitting := some (.directory ⟨s.stationNumber, c, 1, false, (s.naming c).map (fun p =>
              ⟨p, (s.programme p).definition.bind (·.group), false, false, false⟩)⟩
            :: (if d.guaranteed - 1 = 0 then [] else [.filler (d.guaranteed - 1)])) } := by
  simp only [State.firstInterval, State.setCarrier_self, State.setCarrier_twice, Carrier.spec, h, Option.getD_some,
    State.directoryRecord, programmesOf_eq_naming]
  rfl

end Sys2Proof.Machine

/-! Boundaries (R7, R37): the statement. -/

namespace Sys2Proof.Machine

/-- The first boundary leaves the records of the other carriers, and on its own goes on air (R7, R37, R115). -/
theorem firstBoundary_spec {s : State} {c : CarrierNo} {b : Time} {d : CarrierDef} {items : List Item} {gained : State}
    (hd : (s.carrier c).definition = some d)
    (hg : gained = (s.setCarrier c { s.carrier c with state := .onAir, interval := 1, emitting := some items }).gainGroups
      c b) :
    let t := (gained.recomputeAll.allocate c b).advance c b
    t = (gained.recomputeAll.allocate c b).setCarrier c
          { (gained.recomputeAll.allocate c b).carrier c with nextBoundary := some (b + d.interval) }
      ∧ (t.carrier c).state = .onAir ∧ (t.carrier c).interval = 1
      ∧ (t.carrier c).nextBoundary = some (b + d.interval) ∧ (t.carrier c).building ≠ none
      ∧ (t.carrier c).emitting = some items ∧ ∀ e, e ≠ c → t.carrier e = s.carrier e := by
  have hgain := gainGroups_stageKept (c := c)
    (s.setCarrier c { s.carrier c with state := .onAir, interval := 1, emitting := some items }) b
  rw [← hg] at hgain
  obtain ⟨gs, hr⟩ := recomputeAll_shape gained
  have hall : ∀ e, gained.recomputeAll.carrier e = gained.carrier e := fun e => by rw [hr]; rfl
  generalize gained.recomputeAll = r at hall
  obtain ⟨carousel, counters, rotate, degraded, list, ha⟩ := allocate_carrier r c b
  have hothers : ∀ e, e ≠ c → (r.allocate c b).carrier e = s.carrier e := fun e he => by
    rw [allocate_carrier_ne r b he, hall, hgain.others e he, State.setCarrier_ne _ _ _ _ he]
  rw [hall, hgain.carrier, State.setCarrier_self] at ha
  generalize r.allocate c b = w at ha hothers
  have hadv : w.advance c b = w.setCarrier c { w.carrier c with nextBoundary := some (b + d.interval) } :=
    advance_eq (by rw [ha]; exact hd)
  intro t
  have ht : t.carrier c = { w.carrier c with nextBoundary := some (b + d.interval) } := by
    rw [← State.setCarrier_self w c { w.carrier c with nextBoundary := some (b + d.interval) }, ← hadv]
  rw [ha] at ht
  refine ⟨hadv, by rw [ht], by rw [ht], by rw [ht], by rw [ht]; exact Option.some_ne_none _, by rw [ht], fun e he => ?_⟩
  change (w.advance c b).carrier e = _
  rw [hadv, State.setCarrier_ne _ _ _ _ he, hothers e he]

theorem firstBoundary_eq {s : State} {c : CarrierNo} {d : CarrierDef} (hd : (s.carrier c).definition = some d)
    (b : Time) :
    s.firstBoundary c b =
      (((s.setCarrier c
        { s.carrier c with
          state := .onAir
          interval := 1
          emitting := some (.directory ⟨s.stationNumber, c, 1, false, (s.naming c).map (fun p =>
              ⟨p, (s.programme p).definition.bind (·.group), false, false, false⟩)⟩
            :: (if d.guaranteed - 1 = 0 then [] else [.filler (d.guaranteed - 1)])) }).gainGroups c b).recomputeAll.allocate
        c b).advance c b := by
  unfold State.firstBoundary
  dsimp only
  rw [firstInterval_armed hd]

/-- A boundary of an ON_AIR carrier (R7, R37). -/
theorem airBoundary_spec {s : State} {c : CarrierNo} {d : CarrierDef} (hd : (s.carrier c).definition = some d)
    (hst : (s.carrier c).state = .onAir) (b : Time) :
    let t := ((s.nextInterval c false).allocate c b).advance c b
    (t.carrier c).state = .onAir ∧ (t.carrier c).interval = (s.carrier c).interval + 1
      ∧ (t.carrier c).nextBoundary = some (b + d.interval) ∧ (t.carrier c).building ≠ none
      ∧ (∀ list, ((s.ended c).carrier c).building = some list →
          (t.carrier c).emitting = some ((s.begun c).itemsOf c list false))
      ∧ (t.carrier c).emitted = [] ∧ (∀ e, e ≠ c → t.carrier e = s.carrier e)
      ∧ t = (((s.begun c).beginInterval c false).allocate c b).setCarrier c
          { (((s.begun c).beginInterval c false).allocate c b).carrier c with nextBoundary := some (b + d.interval) } := by
  obtain ⟨building, emitting, buffer, bitsSent, counters, hn, -, hitems, hothers, -⟩ := nextInterval_kept s c false
  rw [nextInterval_eq] at hn hothers ⊢
  generalize (s.begun c).beginInterval c false = r at hn hothers ⊢
  have hne : ∀ e, e ≠ c → (r.allocate c b).carrier e = s.carrier e := fun e he => by
    rw [allocate_carrier_ne r b he, hothers e he]
  obtain ⟨carousel, counters', rotate, degraded, list, ha⟩ := allocate_carrier r c b
  rw [hn] at ha
  generalize r.allocate c b = w at ha hne ⊢
  rw [advance_eq (d := d) (by rw [ha]; exact hd)]
  intro t
  have ht : t.carrier c = { w.carrier c with nextBoundary := some (b + d.interval) } := State.setCarrier_self w c _
  rw [ha] at ht
  rw [ht]
  exact ⟨hst, rfl, rfl, Option.some_ne_none _, hitems, rfl,
    fun e he => (State.setCarrier_ne w c _ _ he).trans (hne e he), rfl⟩

/-- The boundary of a DRAINING carrier that has a list left (R7, R8). -/
theorem drainBoundary_spec {s : State} {c : CarrierNo} {d : CarrierDef} (hd : (s.carrier c).definition = some d)
    (hst : (s.carrier c).state = .draining) (b : Time) :
    let t := (s.nextInterval c true).advance c b
    (t.carrier c).state = .draining ∧ (t.carrier c).interval = (s.carrier c).interval + 1
      ∧ (t.carrier c).nextBoundary = some (b + d.interval) ∧ (t.carrier c).building = none
      ∧ (∀ list, ((s.ended c).carrier c).building = some list →
          (t.carrier c).emitting = some ((s.begun c).itemsOf c list true))
      ∧ (t.carrier c).emitted = []
      ∧ (t.carrier c).fraction = (s.carrier c).fraction ∧ (t.carrier c).rotate = (s.carrier c).rotate
      ∧ (t.carrier c).degraded = (s.carrier c).degraded ∧ (t.carrier c).carousel = (s.carrier c).carousel
      ∧ (∀ q, (t.port q).queue = (s.port q).queue) ∧ (∀ e, e ≠ c → t.carrier e = s.carrier e)
      ∧ t = ((s.begun c).beginInterval c true).setCarrier c
          { ((s.begun c).beginInterval c true).carrier c with nextBoundary := some (b + d.interval) } := by
  obtain ⟨building, emitting, buffer, bitsSent, counters, hn, hnone, hitems, hothers, hports⟩ :=
    nextInterval_kept s c true
  rw [nextInterval_eq] at hn hothers hports ⊢
  generalize (s.begun c).beginInterval c true = r at hn hothers hports ⊢
  rw [advance_eq (d := d) (by rw [hn]; exact hd)]
  intro t
  have ht : t.carrier c = { r.carrier c with nextBoundary := some (b + d.interval) } := State.setCarrier_self r c _
  rw [hn] at ht
  rw [ht]
  exact ⟨hst, rfl, rfl, hnone, hitems, rfl, rfl, rfl, rfl, rfl,
    fun q => congrArg (fun a : Vector AccessPort 4 => a[q.val].queue) hports,
    fun e he => (State.setCarrier_ne r c _ _ he).trans (hothers e he), rfl⟩

end Sys2Proof.Machine

namespace Sys2Proof.Settled

open Sys2Proof.Machine

/-- Settles O43: the shrinks by `finishShrinks_of_pos`, the slices by `endInterval_cons` and `endInterval_returns`, the
boundary by the carrier's state. -/
theorem boundary : Obligations.Boundary := by
  intro c s
  refine ⟨fun h => congrArg _ (boundary_not_due h),
    ⟨shrinksLeft_eq_zero.1 (finishShrinks_shrinksLeft s c), fun h => ?_, fun list hl => ⟨fun h => ?_, ?_⟩⟩,
    ⟨endInterval_emitting s c, endInterval_emitted s c, fun h => ?_, fun item rest h hbuf => ?_, fun items h => ?_⟩,
    fun b d hb hle hd => ⟨fun hst => ?_, fun hst => ?_, fun hst list hl => ?_, fun hst hl => ?_⟩⟩
  · exact finishShrinks_of_zero (shrinksLeft_eq_zero.2 fun list hl => by cases h.symm.trans hl)
  · exact finishShrinks_of_zero (shrinksLeft_eq_zero.2 fun list' hl' => by cases hl.symm.trans hl'; exact h)
  · intro b d he hb hle hd hpos
    have hafter : s.afterEvent c = true :=
      (afterEvent_iff hb hd).2 (Nat.lt_of_le_of_lt hle (Nat.lt_add_of_pos_right hpos))
    refine ⟨s.shrinkNext c, ?_, finishShrinks_of_pos ((shrinksLeft_pos hl).2 he)⟩
    exact congrArg Host.Outcome.next (if_pos hafter)
  · rcases h with h | h
    · exact endInterval_none h
    · exact endInterval_some h
  · refine ⟨(s.makeRoom c).emitSlice c, ?_, endInterval_cons h⟩
    have hroom : (if (s.carrier c).buffer.length < 2 then s
        else s.setCarrier c { s.carrier c with buffer := (s.carrier c).buffer.drop 1, bitsSent := 0 }) = s.makeRoom c := by
      simp [State.makeRoom, Carrier.hasRoom]
    rw [hroom]
    exact congrArg Host.Outcome.next (makeRoom_sliceEmission hbuf)
  · obtain ⟨hcells, hcount⟩ := endInterval_returns h
    have hfill : (fun i : Item => match i with | .filler n => max n 1 | _ => 0) = Item.fillers := by
      funext i; cases i <;> rfl
    intro fillers
    rw [show fillers = (items.map Item.fillers).sum from congrArg (fun f => (items.map f).sum) hfill]
    exact ⟨hcells, hcount⟩
  · intro first items gained stored gains
    have hfirst : s.boundary c = (gained.recomputeAll.allocate c b).advance c b :=
      (boundary_armed hb hle hst).trans (firstBoundary_eq hd b)
    generalize hu : s.setCarrier c { s.carrier c with state := .onAir, interval := 1, emitting := some items } = u
    have hgained : gained = u.gainGroups c b := by rw [← hu]
    obtain ⟨ht, hair, hint, hnext, hbuild, hemit, hothers⟩ := firstBoundary_spec (gained := gained) (b := b) hd rfl
    have hgroup : ∀ g, u.group g = s.group g := fun g => by rw [← hu]; rfl
    have hgroups : ∀ g, gained.group g = s.group g := fun g => by
      rw [hgained, gainGroups_eq, State.setCarrier_group, hgroup]
    have htime : gained.time = s.time := by rw [hgained, gainGroups_eq, ← hu]; rfl
    have hgains : ∀ g, u.carriesGroup c g = true ↔ gains g := fun g => by
      rw [carriesGroup_congr (s := s) (by rw [← hu]; rfl)]; exact carriesGroup_iff
    have hcarousel : (u.carrier c).carousel = (s.carrier c).carousel := by rw [← hu, State.setCarrier_self]
    have hall : ∀ g, gained.recomputeAll.group g
        = { gained.group g with startTime := gained.recomputeAll.startTimeFrom s g } := fun g =>
      recomputeAll_group (by rw [hgroups]) (by rw [hgroups]) htime
    refine ⟨_, congrArg Host.Outcome.next hfirst, hair, hint, hnext, hbuild, hemit, hothers, ht, fun e => ?_,
      fun g => ?_⟩
    · rw [hgained, mem_gainGroups]
      simp only [hgains, hgroup, hcarousel]
      rfl
    · rw [hall, hgroups]
  · exact ⟨_, congrArg Host.Outcome.next (boundary_onAir hb hle hst), airBoundary_spec hd hst b⟩
  · exact ⟨_, congrArg Host.Outcome.next (boundary_draining_some hb hle hst hl), drainBoundary_spec hd hst b⟩
  · have hoff := carrierOff_wentOff (s.endInterval c) c
    refine ⟨_, congrArg Host.Outcome.next (boundary_draining_none hb hle hst hl), hoff, ?_, ?_⟩
    · rw [hoff.1, endInterval_emitting]
    · rw [hoff.1, endInterval_emitted]

end Sys2Proof.Settled

/-! SUPPORT. A member's role changes (R78) and a group is resolved (R103): which groups they touch, and what they leave of a
port that has left. -/

namespace Sys2Proof.Machine

/-! ### The groups that name a port -/

theorem foldl_ite_eq_filter {σ α : Type} {P : σ → α → Bool} {f : σ → α → σ} (h : ∀ s a b, P (f s a) b = P s b) :
    ∀ (l : List α) (s : σ), l.foldl (fun s a => if P s a then f s a else s) s = (l.filter (P s)).foldl f s
  | [], _ => rfl
  | a :: l, s => by
      rw [List.foldl_cons]
      by_cases ha : P s a = true
      · rw [if_pos ha, foldl_ite_eq_filter h l, List.filter_cons_of_pos ha, List.foldl_cons, funext (h s a)]
      · rw [if_neg ha, foldl_ite_eq_filter h l, List.filter_cons_of_neg ha]

theorem rosterNames_iff {s : State} {g : GroupNo} {p : PortNo} :
    s.rosterNames g p = true ↔
      (s.group g).state ≠ .free ∧ ∃ d, (s.group g).definition = some d ∧ hasItem d.roster p = true := by
  unfold State.rosterNames
  cases (s.group g).definition <;> simp

theorem rosterNames_congr {s t : State} {g : GroupNo} (hs : (t.group g).state = (s.group g).state)
    (hd : (t.group g).definition = (s.group g).definition) (p : PortNo) : t.rosterNames g p = s.rosterNames g p := by
  rw [Bool.eq_iff_iff, rosterNames_iff, rosterNames_iff, hs, hd]

theorem mem_namedBy {s : State} {g : GroupNo} {p : PortNo} : g ∈ s.namedBy p ↔ s.rosterNames g p = true := by
  rw [rosterNames_iff]
  simp [State.namedBy]

theorem namedBy_eq (s : State) (p : PortNo) : s.namedBy p = (List.finRange 32).filter (fun g => s.rosterNames g p) := by
  refine List.filter_congr fun g hg => ?_
  have h : g ∈ s.namedBy p ↔ _ := mem_namedBy
  rw [State.namedBy, List.mem_filter, and_iff_right hg] at h
  exact Bool.eq_iff_iff.2 h

theorem namedBy_nodup (s : State) (p : PortNo) : (s.namedBy p).Nodup := (List.nodup_finRange 32).filter _

/-! ### One group at work -/

/-- From `s` to `t` no other group has changed, and group `g` has the same state and definition. -/
structure GroupFrame (g : GroupNo) (s t : State) : Prop where
  others : ∀ h, h ≠ g → t.group h = s.group h
  state : (t.group g).state = (s.group g).state
  definition : (t.group g).definition = (s.group g).definition

section
variable {g : GroupNo}

theorem GroupFrame.refl (s : State) : GroupFrame g s s := ⟨fun _ _ => rfl, rfl, rfl⟩

theorem GroupFrame.trans (s t u : State) (h : GroupFrame g s t) (h' : GroupFrame g t u) : GroupFrame g s u where
  others x hx := (h'.others x hx).trans (h.others x hx)
  state := h'.state.trans h.state
  definition := h'.definition.trans h.definition

theorem GroupFrame.of_eq {s t : State} (h : t.groups = s.groups) : GroupFrame g s t := by
  have hg : ∀ x, t.group x = s.group x := fun x => congrArg (·[x.val]) h
  exact ⟨fun x _ => hg x, by rw [hg], by rw [hg]⟩

theorem GroupFrame.setGroup {s : State} {k : Group} (hs : k.state = (s.group g).state)
    (hd : k.definition = (s.group g).definition) : GroupFrame g s (s.setGroup g k) where
  others x hx := State.setGroup_ne s g k x hx
  state := by rw [State.setGroup_self]; exact hs
  definition := by rw [State.setGroup_self]; exact hd

theorem GroupFrame.ite {s t : State} (b : Prop) [Decidable b] (f : State → State) (h : GroupFrame g s t)
    (hf : ∀ u, GroupFrame g u (f u)) : GroupFrame g s (if b then f t else t) := by
  split
  · exact .trans _ _ _ h (hf t)
  · exact h

theorem recompute_groupFrame (s : State) : GroupFrame g s (s.recompute g) := by
  rw [recompute_setGroup]
  exact .setGroup rfl rfl

theorem keepEntries_groupFrame (s : State) (keep : CarouselEntry → Bool) : GroupFrame g s (s.keepEntries keep) :=
  .of_eq rfl

theorem setGroupAlert_groupFrame (s : State) (v : Bool) : GroupFrame g s (s.setGroupAlert g v) := .of_eq rfl

theorem setPlan_groupFrame (s : State) (plan : PlanRecord) :
    GroupFrame g s (s.setGroup g { s.group g with plan := plan }) := .setGroup rfl rfl

theorem deleteMemberPackets_groupFrame (s : State) (p : PortNo) : GroupFrame g s (s.deleteMemberPackets g p) := by
  unfold State.deleteMemberPackets State.removeMemberEntries
  refine .trans _ _ _ ?_ (keepEntries_groupFrame _ _)
  exact .setGroup rfl rfl

theorem setRole_groupFrame (s : State) (p : PortNo) (r : Role) : GroupFrame g s (s.setRole g p r) := by
  unfold State.setRole
  refine .trans _ _ _ ?_ (recompute_groupFrame _)
  refine .ite _ (fun t => t.setPlanWaiting p g false) ?_ (fun _ => .of_eq rfl)
  refine .ite _ (fun t => t.setKeyWaiting p g true) ?_ (fun _ => .of_eq rfl)
  refine .ite _ (fun t => (t.deleteMemberPackets g p).setKeyWaiting p g false) (.setGroup rfl rfl) (fun u => ?_)
  exact .trans _ _ _ (deleteMemberPackets_groupFrame u p) (.of_eq rfl)

theorem AccessOnly.groupFrame {s t : State} : AccessOnly s t → GroupFrame g s t := by
  rintro ⟨_, rfl⟩; exact .of_eq rfl

/-- A resolution of a group touches no other group (R103). -/
theorem resolve_groupFrame (s : State) : GroupFrame g s (s.resolve g) := by
  unfold State.resolve
  dsimp only
  split
  · exact .refl s
  · split
    · exact .refl s
    · refine .ite _ (fun t => t.setGroupAlert g true) ?_ (fun u => setGroupAlert_groupFrame u true)
      refine .trans _ _ _ ?_ (setPlan_groupFrame _ _)
      refine .trans _ _ _ ?_ (raisePlanWaiting_shape _ g).groupFrame
      refine .trans _ _ _ ?_ (raiseExcluded_shape _ _ _ _).groupFrame
      exact foldl_rel (GroupFrame g) .refl .trans _ (fun t p => setRole_groupFrame t p _) _ s

theorem GroupFrame.rosterNames {s t : State} (h : GroupFrame g s t) (x : GroupNo) (p : PortNo) :
    t.rosterNames x p = s.rosterNames x p := by
  by_cases hx : x = g
  · subst hx; exact rosterNames_congr h.state h.definition p
  · exact rosterNames_congr (by rw [h.others x hx]) (by rw [h.others x hx]) p

end

/-- The groups that name a port are resolved one after another (R99). -/
theorem resolveFor_eq (s : State) (p : PortNo) : s.resolveFor p = s.resolvedFor p := by
  unfold State.resolveFor State.resolvedFor
  rw [namedBy_eq]
  exact foldl_ite_eq_filter (P := fun (s : State) g => s.rosterNames g p)
    (fun s g x => (resolve_groupFrame (g := g) s).rosterNames x p) _ s

theorem leaveGroups_eq (s : State) (p : PortNo) :
    s.leaveGroups p = (s.namedBy p).foldl (fun s g => s.setRole g p .absent) s := by
  unfold State.leaveGroups
  rw [namedBy_eq]
  exact foldl_ite_eq_filter (P := fun (s : State) g => s.rosterNames g p)
    (fun s g x => (setRole_groupFrame (g := g) s p .absent).rosterNames x p) _ s

/-- Resolutions of some groups leave every other group (R103). -/
theorem resolves_group_of_notMem {g : GroupNo} : ∀ (l : List GroupNo), g ∉ l → ∀ s : State,
    (l.foldl State.resolve s).group g = s.group g
  | [], _, _ => rfl
  | x :: l, h, s => by
      obtain ⟨hx, hl⟩ := not_or.1 (mt List.mem_cons.2 h)
      rw [List.foldl_cons, resolves_group_of_notMem l hl, (resolve_groupFrame s).others g hx]

/-! ### A port that has left -/

/-- A port is out of a group: ABSENT, with no PLAN_WAITING for it. -/
structure State.Out (s : State) (p : PortNo) (g : GroupNo) : Prop where
  role : (s.group g).roles[p.val] = .absent
  plan : (s.port p).planWaiting[g.val] = false

/-- No packet of the port is stored in the slot. -/
def Group.Bare (grp : Group) (p : PortNo) (ph : Phase) : Prop := ∀ k, grp.slot ph = some k → k.packets[p.val] = none

/-- From `s` to `t` the port's record and roles have not changed, and no packet or carousel entry of it has come. -/
structure PortStays (p : PortNo) (s t : State) : Prop where
  port : t.port p = s.port p
  role : ∀ g, (t.group g).roles[p.val] = (s.group g).roles[p.val]
  bare : ∀ g ph, (s.group g).Bare p ph → (t.group g).Bare p ph
  carousel : ∀ c e, e ∈ (t.carrier c).carousel → e ∈ (s.carrier c).carousel

section
variable {p : PortNo}

theorem PortStays.refl (s : State) : PortStays p s s := ⟨rfl, fun _ => rfl, fun _ _ => id, fun _ _ => id⟩

theorem PortStays.trans (s t u : State) (h : PortStays p s t) (h' : PortStays p t u) : PortStays p s u where
  port := h'.port.trans h.port
  role g := (h'.role g).trans (h.role g)
  bare g ph hb := h'.bare g ph (h.bare g ph hb)
  carousel c e he := h.carousel c e (h'.carousel c e he)

theorem PortStays.out {s t : State} {g : GroupNo} (h : PortStays p s t) (ho : s.Out p g) : t.Out p g :=
  ⟨(h.role g).trans ho.role, by rw [h.port]; exact ho.plan⟩

theorem PortStays.ite {s t : State} (b : Prop) [Decidable b] (f : State → State) (h : PortStays p s t)
    (hf : ∀ u, PortStays p u (f u)) : PortStays p s (if b then f t else t) := by
  split
  · exact .trans _ _ _ h (hf t)
  · exact h

/-- A change of a group that keeps the port's role and brings no packet of it. -/
theorem PortStays.setGroup {s : State} {g : GroupNo} {k : Group} (hr : k.roles[p.val] = (s.group g).roles[p.val])
    (hb : ∀ ph, (s.group g).Bare p ph → k.Bare p ph) : PortStays p s (s.setGroup g k) where
  port := rfl
  role x := by
    by_cases hx : x = g
    · subst hx; rw [State.setGroup_self, hr]
    · rw [State.setGroup_ne _ _ _ _ hx]
  bare x ph h := by
    by_cases hx : x = g
    · subst hx; rw [State.setGroup_self]; exact hb ph h
    · rw [State.setGroup_ne _ _ _ _ hx]; exact h
  carousel _ _ := id

theorem PortStays.setPort {s : State} {q : PortNo} {k : AccessPort} (hq : q ≠ p) : PortStays p s (s.setPort q k) where
  port := State.setPort_ne s q k p hq.symm
  role _ := rfl
  bare _ _ := id
  carousel _ _ := id

theorem setGroupAlert_portStays (s : State) (g : GroupNo) (v : Bool) : PortStays p s (s.setGroupAlert g v) :=
  ⟨rfl, fun _ => rfl, fun _ _ => id, fun _ _ => id⟩

theorem keepEntries_portStays (s : State) (keep : CarouselEntry → Bool) : PortStays p s (s.keepEntries keep) where
  port := rfl
  role _ := rfl
  bare _ _ := id
  carousel c e he := by
    rw [keepEntries_carrier] at he
    exact (List.mem_filter.1 he).1

theorem setPlan_portStays (s : State) (g : GroupNo) (plan : PlanRecord) :
    PortStays p s (s.setGroup g { s.group g with plan := plan }) := .setGroup rfl fun ph h => by cases ph <;> exact h

theorem recompute_portStays (s : State) (g : GroupNo) : PortStays p s (s.recompute g) := by
  rw [recompute_setGroup]
  exact .setGroup rfl fun ph h => by cases ph <;> exact h

theorem deleteMemberPackets_portStays (s : State) (g : GroupNo) (q : PortNo) :
    PortStays p s (s.deleteMemberPackets g q) := by
  unfold State.deleteMemberPackets State.removeMemberEntries
  refine .trans _ _ _ ?_ (keepEntries_portStays _ _)
  refine .setGroup rfl fun ph h k hk => ?_
  obtain ⟨k', hk', rfl⟩ : ∃ k', (s.group g).slot ph = some k' ∧ k'.dropPacket q = k := by
    cases ph <;> exact Option.map_eq_some_iff.1 hk
  have hnone := h k' hk'
  unfold KeySlot.dropPacket
  rw [Vector.getElem_set]
  split
  · rfl
  · exact hnone

/-- The role of another port changes (R78). -/
theorem setRole_portStays_ne (s : State) (g : GroupNo) {q : PortNo} (hq : q ≠ p) (r : Role) :
    PortStays p s (s.setRole g q r) := by
  have hval : q.val ≠ p.val := fun h => hq (Fin.ext h)
  unfold State.setRole
  refine .trans _ _ _ ?_ (recompute_portStays _ g)
  refine .ite _ (fun t => t.setPlanWaiting q g false) ?_ (fun _ => .setPort hq)
  refine .ite _ (fun t => t.setKeyWaiting q g true) ?_ (fun _ => .setPort hq)
  refine .ite _ (fun t => (t.deleteMemberPackets g q).setKeyWaiting q g false) ?_ (fun u => ?_)
  · exact .setGroup (Vector.getElem_set_ne q.isLt p.isLt hval) fun ph h => by cases ph <;> exact h
  · exact .trans _ _ _ (deleteMemberPackets_portStays u g q) (.setPort hq)

/-- A port that is out of a group becomes ABSENT once more: only the pending slot is recomputed. -/
theorem setRole_absent_of_out {s : State} {g : GroupNo} (h : s.Out p g) : s.setRole g p .absent = s.recompute g := by
  have hroles : { s.group g with roles := (s.group g).roles.set p.val .absent } = s.group g := by
    rw [← h.role, Vector.set_getElem_self]
  have hport : { s.port p with planWaiting := (s.port p).planWaiting.set g.val false } = s.port p := by
    rw [← h.plan, Vector.set_getElem_self]
  simp [State.setRole, h.role, Role.active, hroles, State.setPlanWaiting, hport]

theorem setRole_portStays {s : State} {g : GroupNo} {q : PortNo} {r : Role} (hr : q = p → r = .absent)
    (h : s.Out p g) : PortStays p s (s.setRole g q r) := by
  by_cases hq : q = p
  · rw [hr hq, hq, setRole_absent_of_out h]
    exact recompute_portStays s g
  · exact setRole_portStays_ne s g hq r

/-- A fold of steps that leave a port alone while it is out of a group. -/
theorem foldl_portStays {α : Type} {g : GroupNo} {f : State → α → State}
    (h : ∀ s a, s.Out p g → PortStays p s (f s a)) (l : List α) {s : State} (hs : s.Out p g) :
    PortStays p s (l.foldl f s) :=
  foldl_rel (fun s t : State => s.Out p g → PortStays p s t) (fun s _ => .refl s)
    (fun _ _ _ h h' ho => .trans _ _ _ (h ho) (h' ((h ho).out ho))) f h l s hs

theorem raiseExcluded_portStays {s : State} {g : GroupNo} (before : Vector Role 4) (fault : Bool) (h : s.Out p g) :
    PortStays p s (s.raiseExcluded g before fault) := by
  refine foldl_portStays (fun t q ht => ?_) _ h
  by_cases hq : q = p
  · subst hq
    rw [ht.role]
    exact .refl t
  · exact .ite _ (fun u => u.addExcluded q g) (.refl t) (fun _ => .setPort hq)

theorem raisePlanWaiting_portStays {s : State} {g : GroupNo} (h : s.Out p g) : PortStays p s (s.raisePlanWaiting g) := by
  refine foldl_portStays (fun t q ht => ?_) _ h
  by_cases hq : q = p
  · subst hq
    rw [ht.role]
    exact .refl t
  · exact .ite _ (fun u => u.setPlanWaiting q g true) (.refl t) (fun _ => .setPort hq)

theorem compatibleSet_subset (s : State) (d : GroupDef) : ∀ q ∈ s.compatibleSet d, q ∈ s.attachOrder := by
  have walk : ∀ (l set : List PortNo), ∀ q ∈ l.foldl (s.walkStep d) set, q ∈ set ∨ q ∈ l := by
    intro l
    induction l with
    | nil => intro set q hq; exact .inl hq
    | cons x l ih =>
        intro set q hq
        rcases ih _ q hq with hset | hl
        · unfold State.walkStep at hset
          split at hset
          · exact .inl hset
          · rcases List.mem_append.1 hset with hset | hx
            · exact .inl hset
            · exact .inr (List.mem_cons.2 (.inl (List.mem_singleton.1 hx)))
        · exact .inr (List.mem_cons_of_mem _ hl)
  intro q hq
  rcases walk _ _ q hq with hnil | hmem
  · cases hnil
  · exact (List.mem_filter.1 hmem).1

/-- A resolution leaves a port that has left: it names it ABSENT (R105). -/
theorem resolve_portStays {s : State} {g : GroupNo} (hn : s.rosterNames g p = true) (ha : p ∉ s.attachOrder)
    (h : s.Out p g) : PortStays p s (s.resolve g) := by
  obtain ⟨hfree, d, hd, hroster⟩ := rosterNames_iff.1 hn
  have habsent : ∀ keeps old, resolvedRole d (s.compatibleSet d) s.attachOrder keeps old p = .absent := by
    intro keeps old
    simp [resolvedRole, hroster, ha, mt (compatibleSet_subset s d p) ha]
  have hroles := foldl_portStays (p := p) (g := g) (s := s)
    (f := fun t q => t.setRole g q (resolvedRole d (s.compatibleSet d) s.attachOrder
      ((s.group g).plan.keepsJoined (s.chosenPlan d (s.compatibleSet d))) (s.group g).roles[q.val] q))
    (fun t q ht => setRole_portStays (by rintro rfl; exact habsent _ _) ht) (List.finRange 4) h
  have hexcluded := raiseExcluded_portStays (s.group g).roles
    ((s.chosenPlan d (s.compatibleSet d)).isNone && s.attachOrder.any (fun p => hasItem d.roster p)) (hroles.out h)
  have hplan := raisePlanWaiting_portStays (hexcluded.out (hroles.out h))
  unfold State.resolve
  dsimp only
  split
  · exact .refl s
  · next d' hd' =>
    cases hd.symm.trans hd'
    rw [if_neg hfree]
    refine .ite _ (fun t => t.setGroupAlert g true) ?_ (fun u => setGroupAlert_portStays u g true)
    exact .trans _ _ _ (.trans _ _ _ hroles (.trans _ _ _ hexcluded hplan)) (setPlan_portStays _ g _)

/-- So do the resolutions of all the groups that name it (R99). -/
theorem resolves_portStays : ∀ (l : List GroupNo) (s : State), p ∉ s.attachOrder →
    (∀ g ∈ l, s.rosterNames g p = true ∧ s.Out p g) → PortStays p s (l.foldl State.resolve s)
  | [], s, _, _ => .refl s
  | g :: l, s, ha, h => by
      obtain ⟨⟨hn, ho⟩, hl⟩ := List.forall_mem_cons.1 h
      have hstep := resolve_portStays hn ha ho
      refine .trans _ _ _ hstep (resolves_portStays l _ ?_ fun x hx => ?_)
      · obtain ⟨_, _, _, _, hr⟩ := resolve_shape s g
        rw [hr]
        exact ha
      · obtain ⟨hnx, hox⟩ := hl x hx
        exact ⟨((resolve_groupFrame s).rosterNames x p).trans hnx, hstep.out hox⟩

end

end Sys2Proof.Machine

/-! SUPPORT. A port leaves its groups (R78, R101), and the groups that name it are resolved. -/

namespace Sys2Proof.Machine

/-! ### A member becomes ABSENT (R78) -/

/-- The group's record after port `p` has left it, but for the start time: its packets are deleted where it was JOINING or
JOINED. -/
def Group.left (grp : Group) (p : PortNo) : Group :=
  { grp with
    roles := grp.roles.set p.val .absent
    slotA := grp.slotA.map (·.dropping (fun q => grp.roles[p.val].active && decide (q = p)))
    slotB := grp.slotB.map (·.dropping (fun q => grp.roles[p.val].active && decide (q = p))) }

theorem KeySlot.dropping_none (k : KeySlot) : k.dropping (fun _ => false) = k := by
  unfold KeySlot.dropping
  congr 1
  ext i hi
  simp

theorem KeySlot.dropping_one (k : KeySlot) (p : PortNo) : k.dropping (fun q => decide (q = p)) = k.dropPacket p := by
  unfold KeySlot.dropping KeySlot.dropPacket
  congr 1
  ext i hi
  simp [Vector.getElem_set, Fin.ext_iff, eq_comm]

theorem Group.left_of_active {grp : Group} {p : PortNo} (h : grp.roles[p.val].active = true) :
    grp.left p =
      { grp with
        roles := grp.roles.set p.val .absent
        slotA := grp.slotA.map (·.dropPacket p)
        slotB := grp.slotB.map (·.dropPacket p) } := by
  simp [Group.left, h, KeySlot.dropping_one]

theorem Group.left_of_not_active {grp : Group} {p : PortNo} (h : grp.roles[p.val].active = false) :
    grp.left p = { grp with roles := grp.roles.set p.val .absent } := by
  simp [Group.left, h, KeySlot.dropping_none]

/-- From `s` to `t` port `p` has left the groups of a list, and nothing else has happened but to its KEY_WAITING and
PLAN_WAITING flags. -/
structure LeftFor (p : PortNo) (l : List GroupNo) (s t : State) : Prop where
  port : ∃ kw pw, t.port p = { s.port p with keyWaiting := kw, planWaiting := pw }
  others : ∀ q, q ≠ p → t.port q = s.port q
  group : ∀ g, t.group g =
    if g ∈ l then { (s.group g).left p with startTime := t.startTimeFrom s g } else s.group g
  carrier : ∀ c, t.carrier c =
    { s.carrier c with
      carousel := (s.carrier c).carousel.filter (fun e =>
        !(decide (e.member = p) && (decide (e.group ∈ l) && (s.group e.group).roles[p.val].active))) }
  rest : t = { s with access := t.access, groups := t.groups, carriers := t.carriers }

theorem LeftFor.of_recompute {p : PortNo} {g : GroupNo} {s w : State}
    (hport : ∃ kw pw, w.port p = { s.port p with keyWaiting := kw, planWaiting := pw })
    (hothers : ∀ q, q ≠ p → w.port q = s.port q) (hself : w.group g = (s.group g).left p)
    (hne : ∀ h, h ≠ g → w.group h = s.group h)
    (hcarrier : ∀ c, w.carrier c =
      { s.carrier c with
        carousel := (s.carrier c).carousel.filter (fun e =>
          !(decide (e.member = p) && (decide (e.group ∈ [g]) && (s.group e.group).roles[p.val].active))) })
    (hrest : w = { s with access := w.access, groups := w.groups, carriers := w.carriers }) :
    LeftFor p [g] s (w.recompute g) := by
  have htime : w.time = s.time := by rw [hrest]
  have hrec : (w.recompute g).group g = { w.group g with startTime := (w.recompute g).startTimeFrom s g } :=
    recompute_startTimeFrom (by rw [hself]; rfl) (by rw [hself]; rfl) htime
  have hkeep : ∀ h, h ≠ g → (w.recompute g).group h = w.group h := fun h hh => recompute_group_ne w hh
  obtain ⟨gs, hr⟩ := recompute_shape w g
  generalize w.recompute g = t at hrec hkeep hr
  refine ⟨?_, fun q hq => ?_, fun h => ?_, fun c => ?_, ?_⟩
  · rw [hr]; exact hport
  · rw [hr]; exact hothers q hq
  · by_cases hh : h = g
    · subst hh
      rw [if_pos (List.mem_singleton_self h), hrec, hself]
    · rw [if_neg (by simpa using hh), hkeep h hh, hne h hh]
  · rw [hr]; exact hcarrier c
  · rw [hr]
    conv_lhs => rw [hrest]

theorem setRole_absent_eq (s : State) (g : GroupNo) (p : PortNo) :
    s.setRole g p .absent =
      ((if (s.group g).roles[p.val].active then
          ((s.setGroup g { s.group g with roles := (s.group g).roles.set p.val .absent }).deleteMemberPackets g
            p).setKeyWaiting p g false
        else s.setGroup g { s.group g with roles := (s.group g).roles.set p.val .absent }).setPlanWaiting p g
          false).recompute g := by
  have habsent : Role.absent.active = false := rfl
  simp [State.setRole, habsent]

/-- A member becomes ABSENT. -/
theorem setRole_absent_leftFor (s : State) (g : GroupNo) (p : PortNo) :
    LeftFor p [g] s (s.setRole g p .absent) := by
  rw [setRole_absent_eq]
  cases hact : (s.group g).roles[p.val].active with
  | false =>
      rw [if_neg Bool.false_ne_true]
      refine .of_recompute ⟨(s.port p).keyWaiting, _, State.setPort_self _ p _⟩
        (fun q hq => State.setPort_ne _ p _ q hq) ?_ (fun h hh => State.setGroup_ne s g _ h hh) (fun c => ?_) rfl
      · rw [Group.left_of_not_active hact]
        exact State.setGroup_self s g _
      · refine (Carrier.filter_carousel_eq_self fun e => ?_).symm
        by_cases he : e.group = g
        · rw [he]; simp [hact]
        · simp [he]
  | true =>
      rw [if_pos rfl]
      refine .of_recompute
        ⟨(s.port p).keyWaiting.set g.val false, (s.port p).planWaiting.set g.val false, ?_⟩ (fun q hq => ?_) ?_
        (fun h hh => ?_) (fun c => ?_) rfl
      · rw [State.setPlanWaiting, State.setPort_self, State.setKeyWaiting, State.setPort_self]
        rfl
      · rw [State.setPlanWaiting, State.setPort_ne _ p _ q hq, State.setKeyWaiting, State.setPort_ne _ p _ q hq]
        rfl
      · rw [Group.left_of_active hact]
        exact (State.setGroup_self _ g _).trans (by rw [State.setGroup_self])
      · exact (State.setGroup_ne _ g _ h hh).trans (State.setGroup_ne s g _ h hh)
      · refine (keepEntries_carrier _ _ c).trans (congrArg (fun l => { s.carrier c with carousel := l }) ?_)
        refine List.filter_congr fun e _ => ?_
        rw [Bool.eq_iff_iff]
        by_cases he : e.group = g
        · rw [he]; simp [hact]
        · simp [he]

/-- A port leaves several groups one after another. -/
theorem LeftFor.cons {p : PortNo} {g : GroupNo} {l : List GroupNo} {s t u : State} (hg : g ∉ l)
    (h : LeftFor p [g] s t) (h' : LeftFor p l t u) : LeftFor p (g :: l) s u := by
  have htime : t.time = s.time := by rw [h.rest]
  have hsame : ∀ x ∈ l, t.group x = s.group x := fun x hx => by
    rw [h.group x, if_neg (by rintro hxg; exact hg (List.mem_singleton.1 hxg ▸ hx))]
  have hrel : u.relevant g = t.relevant g :=
    relevant_congr (fun c => by rw [h'.carrier c]) (fun q => by rw [h'.rest]; rfl) g
  have hug : u.group g = t.group g := by rw [h'.group g, if_neg hg]
  have hslot : u.slotState g .a = t.slotState g .a := slotState_congr (by rw [hug]) (by rw [hug]) (by rw [hug]) hrel
  refine ⟨?_, fun q hq => (h'.others q hq).trans (h.others q hq), fun x => ?_, fun c => ?_, ?_⟩
  · obtain ⟨kw, pw, ht⟩ := h.port
    obtain ⟨kw', pw', hu⟩ := h'.port
    exact ⟨kw', pw', by rw [hu, ht]⟩
  · by_cases hx : x = g
    · subst hx
      rw [if_pos List.mem_cons_self, hug, h.group x, if_pos (List.mem_singleton_self x),
        startTimeFrom_congr hslot rfl rfl rfl]
    · by_cases hl : x ∈ l
      · rw [if_pos (List.mem_cons_of_mem g hl), h'.group x, if_pos hl, hsame x hl,
          startTimeFrom_congr rfl (by rw [hsame x hl]) (by rw [hsame x hl]) htime]
      · rw [if_neg (by simp [hx, hl]), h'.group x, if_neg hl, h.group x, if_neg (by simpa using hx)]
  · rw [h'.carrier c, h.carrier c]
    refine congrArg (fun l => { s.carrier c with carousel := l }) ?_
    rw [List.filter_filter]
    refine List.filter_congr fun e _ => ?_
    by_cases hl : e.group ∈ l
    · have hx : e.group ≠ g := fun hx => hg (hx ▸ hl)
      simp [hl, hx, hsame _ hl]
    · simp [hl]
  · rw [h'.rest]
    conv_lhs => rw [h.rest]

theorem setRoles_leftFor (p : PortNo) : ∀ (l : List GroupNo), l.Nodup → ∀ s : State,
    LeftFor p l s (l.foldl (fun s g => s.setRole g p .absent) s)
  | [], _, s => ⟨⟨_, _, rfl⟩, fun _ _ => rfl, by simp, fun c => (Carrier.filter_carousel_eq_self (by simp)).symm, rfl⟩
  | g :: l, hl, s => by
      obtain ⟨hg, hl⟩ := List.nodup_cons.1 hl
      exact (setRole_absent_leftFor s g p).cons hg (setRoles_leftFor p l hl _)

/-! ### A port leaves (R101) -/

/-- The port is DETACHED with no offer, off the attach order list. -/
def State.unattached (s : State) (p : PortNo) : State :=
  { s.setPort p { s.port p with state := .detached, offer := none } with
    attachOrder := s.attachOrder.filter (fun q => q != p) }

/-- The port has left, its groups still to be resolved. -/
def State.departed (s : State) (p : PortNo) : State :=
  let t := (s.unattached p).leaveGroups p
  t.setPort p
    { t.port p with
      keyWaiting := Vector.replicate 32 false
      planWaiting := Vector.replicate 32 false
      batchEnd := false
      queue := []
      batch := none }

theorem detachPort_eq (s : State) (p : PortNo) : s.detachPort p = (s.departed p).resolvedFor p := by
  rw [← resolveFor_eq]
  rfl

theorem departed_leftGroups (s : State) (p : PortNo) : s.LeftGroups (s.departed p) p := by
  have hleft := setRoles_leftFor p (s.namedBy p) (namedBy_nodup s p) (s.unattached p)
  have hleave : (s.unattached p).leaveGroups p
      = (s.namedBy p).foldl (fun s g => s.setRole g p .absent) (s.unattached p) := leaveGroups_eq _ p
  unfold State.departed
  rw [← hleave] at hleft
  generalize (s.unattached p).leaveGroups p = t at hleft
  have hself : (s.unattached p).port p = { s.port p with state := .detached, offer := none } :=
    State.setPort_self s p _
  refine ⟨?_, fun q hq => ?_, fun g => ?_, fun c => hleft.carrier c, ?_⟩
  · obtain ⟨kw, pw, ht⟩ := hleft.port
    rw [State.setPort_self, ht, hself]
  · rw [State.setPort_ne _ _ _ _ hq, hleft.others q hq]
    exact State.setPort_ne s p _ q hq
  · have hslot : ∀ k, (t.setPort p k).slotState g .a = t.slotState g .a := fun k =>
      slotState_congr rfl rfl rfl (relevant_congr (fun _ => rfl) (fun _ => rfl) g)
    rw [State.setPort_group, hleft.group g]
    refine if_ctx_congr Iff.rfl (fun hg => ?_) fun _ => rfl
    rw [startTimeFrom_congr (hslot _) rfl rfl rfl]
    simp only [hg, decide_true, Bool.true_and]
    rfl
  · conv_lhs => rw [hleft.rest]
    rfl

section
variable {s u : State} {p : PortNo}

theorem LeftGroups.group_of_named (h : s.LeftGroups u p) {g : GroupNo} (hg : s.rosterNames g p = true) :
    u.group g = { (s.group g).left p with startTime := u.startTimeFrom s g } := by
  obtain ⟨-, -, hgroup, -, -⟩ := h
  rw [hgroup g, if_pos (mem_namedBy.2 hg)]
  simp only [mem_namedBy.2 hg, decide_true, Bool.true_and]
  rfl

theorem LeftGroups.group_of_not_named (h : s.LeftGroups u p) {g : GroupNo} (hg : s.rosterNames g p = false) :
    u.group g = s.group g := by
  obtain ⟨-, -, hgroup, -, -⟩ := h
  rw [hgroup g, if_neg (by rw [mem_namedBy, hg]; exact Bool.false_ne_true)]

/-- The groups that name the port are the same after it has left. -/
theorem LeftGroups.rosterNames (h : s.LeftGroups u p) (g : GroupNo) : u.rosterNames g p = s.rosterNames g p := by
  cases hg : s.rosterNames g p with
  | true =>
      rw [← hg]
      have hu := LeftGroups.group_of_named h hg
      exact rosterNames_congr (by rw [hu]; rfl) (by rw [hu]; rfl) p
  | false =>
      rw [← hg]
      have hu := LeftGroups.group_of_not_named h hg
      exact rosterNames_congr (by rw [hu]) (by rw [hu]) p

theorem LeftGroups.out (h : s.LeftGroups u p) {g : GroupNo} (hg : s.rosterNames g p = true) : u.Out p g := by
  refine ⟨?_, ?_⟩
  · rw [LeftGroups.group_of_named h hg]
    exact Vector.getElem_set_self p.isLt
  · rw [h.1]
    exact Vector.getElem_replicate g.isLt

theorem LeftGroups.attachOrder (h : s.LeftGroups u p) : u.attachOrder = s.attachOrder.filter (fun q => q != p) := by
  obtain ⟨-, -, -, -, hrest⟩ := h
  rw [hrest]

/-- The resolutions leave the port that has left as it is. -/
theorem LeftGroups.portStays (h : s.LeftGroups u p) : PortStays p u (u.resolvedFor p) := by
  refine resolves_portStays _ u (by simp [LeftGroups.attachOrder h]) fun g hg => ?_
  have hn := mem_namedBy.1 hg
  exact ⟨hn, LeftGroups.out h ((LeftGroups.rosterNames h g).symm.trans hn)⟩

/-- The port's packets have gone with its role (R78). -/
theorem LeftGroups.bare (h : s.LeftGroups u p) {g : GroupNo} (hg : s.rosterNames g p = true)
    (hact : (s.group g).roles[p.val].active = true) (ph : Phase) : (u.group g).Bare p ph := by
  rw [LeftGroups.group_of_named h hg, Group.left_of_active hact]
  intro k hk
  obtain ⟨k', -, rfl⟩ : ∃ k', (s.group g).slot ph = some k' ∧ k'.dropPacket p = k := by
    cases ph <;> exact Option.map_eq_some_iff.1 hk
  exact Vector.getElem_set_self p.isLt

/-- So have its carousel entries (R78). -/
theorem LeftGroups.entries (h : s.LeftGroups u p) {g : GroupNo} (hg : s.rosterNames g p = true)
    (hact : (s.group g).roles[p.val].active = true) {c : CarrierNo} {e : CarouselEntry}
    (he : e ∈ (u.carrier c).carousel) : ¬ (e.group = g ∧ e.member = p) := by
  obtain ⟨-, -, -, hcarrier, -⟩ := h
  rintro ⟨rfl, rfl⟩
  rw [hcarrier c] at he
  have hkeep := (List.mem_filter.1 he).2
  simp [mem_namedBy.2 hg, hact] at hkeep

end

/-- What is true of a state after a port has left and its groups have been resolved (R101, R103). -/
theorem resolved_of_leftGroups {s u : State} {p : PortNo} (h : s.LeftGroups u p) :
    let t := u.resolvedFor p
    t.port p = u.port p ∧ t.attachOrder = s.attachOrder.filter (fun q => q != p)
      ∧ (∀ g : GroupNo, s.rosterNames g p = true →
          (t.group g).roles[p.val] = .absent
            ∧ ((s.group g).roles[p.val].active = true →
                (∀ ph k, (t.group g).slot ph = some k → k.packets[p.val] = none)
                  ∧ ∀ c : CarrierNo, ∀ e ∈ (t.carrier c).carousel, ¬ (e.group = g ∧ e.member = p)))
      ∧ (∀ g : GroupNo, s.rosterNames g p = false → t.group g = s.group g)
      ∧ t.time = s.time ∧ t.programmes = s.programmes ∧ t.links = s.links ∧ t.memory = s.memory
      ∧ t.freeCells = s.freeCells := by
  intro t
  have hstays := LeftGroups.portStays h
  have hother : ∀ g, s.rosterNames g p = false → t.group g = s.group g := fun g hg => by
    have hn : g ∉ u.namedBy p := by
      rw [mem_namedBy, LeftGroups.rosterNames h g, hg]
      exact Bool.false_ne_true
    exact (resolves_group_of_notMem _ hn u).trans (LeftGroups.group_of_not_named h hg)
  obtain ⟨_, _, _, _, hshape⟩ := resolveFor_shape u p
  rw [resolveFor_eq] at hshape
  have horder := LeftGroups.attachOrder h
  refine ⟨hstays.port, ?_, fun g hg => ⟨?_, fun hact => ⟨fun ph => ?_, fun c e he => ?_⟩⟩, hother, ?_⟩
  · exact (congrArg State.attachOrder hshape).trans horder
  · exact (hstays.role g).trans (LeftGroups.out h hg).role
  · exact hstays.bare g ph (LeftGroups.bare h hg hact ph)
  · exact LeftGroups.entries h hg hact (hstays.carousel c e he)
  · obtain ⟨-, -, -, -, hrest⟩ := h
    have hu : u.time = s.time ∧ u.programmes = s.programmes ∧ u.links = s.links ∧ u.memory = s.memory
        ∧ u.freeCells = s.freeCells := by
      rw [hrest]
      exact ⟨rfl, rfl, rfl, rfl, rfl⟩
    obtain ⟨htime, hprogrammes, hlinks, hmemory, hfree⟩ := hu
    exact ⟨(congrArg State.time hshape).trans htime, (congrArg State.programmes hshape).trans hprogrammes,
      (congrArg State.links hshape).trans hlinks, (congrArg State.memory hshape).trans hmemory,
      (congrArg State.freeCells hshape).trans hfree⟩

end Sys2Proof.Machine

/-! Ports leaving (R101, R149): the statement. -/

namespace Sys2Proof.Machine

theorem detach_accepted {s : State} {p : PortNo} (h : s.Accepts ⟨.access p, true⟩ .detach) :
    s.takeOrder ⟨.access p, true⟩ .detach (onAccess ⟨.access p, true⟩ detach)
      = ((s.departed p).resolvedFor p).done ⟨.access p, true⟩ .detach .empty := by
  refine takeOrder_done h ?_
  simp only [onAccess, detach, detachPort_eq]

theorem accessLinkDown_attached {s : State} {p : PortNo} (h : (s.port p).state ≠ .detached) :
    s.linkDown (.access p) =
      ((s.setLine (.access p) ((s.port p).line.lost s.time)).departed p).resolvedFor p := by
  have hstate : ((s.setLine (.access p) ((s.port p).line.lost s.time)).port p).state = (s.port p).state := by
    rw [State.setLine, State.setPort_self]
  unfold State.linkDown State.accessLinkDown
  dsimp only
  rw [hstate, if_neg h, detachPort_eq]

end Sys2Proof.Machine

namespace Sys2Proof.Settled

open Sys2Proof.Machine

/-- Settles O8: what leaves is `departed`, what stays through the resolutions is `resolved_of_leftGroups`. -/
theorem portLeaves : Obligations.PortLeaves := by
  intro p s
  refine ⟨fun h => ?_, fun h => ?_⟩
  · have hleft := departed_leftGroups s p
    have hexec := detach_accepted h
    have hallow := (detachPort_recordsKept s p).carrier
    rw [detachPort_eq] at hallow
    obtain ⟨hport, horder, hnamed, hothers, hrest⟩ := resolved_of_leftGroups hleft
    rw [hleft.1] at hport
    refine ⟨_, congrArg Host.Outcome.next hexec, ?_, _, hleft, rfl⟩
    generalize (s.departed p).resolvedFor p = r at hallow hport horder hnamed hothers hrest
    refine ⟨?_, horder, hnamed, fun c => (hallow c).allowances, hothers, hrest⟩
    refine (State.setPort_self r p _).trans ?_
    simp only [State.line, hport]
  · intro lost
    have hleft := departed_leftGroups (s.setLine (.access p) lost) p
    have hexec : s.linkDown (.access p) = ((s.setLine (.access p) lost).departed p).resolvedFor p :=
      accessLinkDown_attached h
    have hallow := (detachPort_recordsKept (s.setLine (.access p) lost) p).carrier
    rw [detachPort_eq] at hallow
    obtain ⟨hport, horder, hnamed, hothers, hrest⟩ := resolved_of_leftGroups hleft
    rw [hleft.1] at hport
    refine ⟨_, congrArg Host.Outcome.next hexec, ?_, _, hleft, rfl⟩
    generalize ((s.setLine (.access p) lost).departed p).resolvedFor p = r at hallow hport horder hnamed hothers hrest
    refine ⟨?_, horder, hnamed, fun c => (hallow c).allowances, hothers, hrest⟩
    rw [hport, State.setLine, State.setPort_self]

end Sys2Proof.Settled

/-! SUPPORT. The cell store (R32): how many places hold a cell, and what writing a record adds to and takes from them. -/

namespace Sys2Proof.Machine

/-! ### The places of a cell -/

theorem toList_flatMap {α β : Type} {n : Nat} (v : Vector α n) (f : α → List β) :
    v.toList.flatMap f = (List.finRange n).flatMap (fun i => f v[i.val]) := by
  have h : v.toList = (List.finRange n).map (fun i => v[i.val]) := List.ext_getElem (by simp) (by simp)
  rw [h, List.flatMap_map]

/-- The cells held, table by table. -/
theorem heldCells_eq (s : State) :
    s.heldCells = s.freeCells ++ (List.finRange 6).flatMap (fun l => (s.link l).context.cells)
      ++ (List.finRange 48).flatMap (fun p => unitCells (s.programme p).queue)
      ++ (List.finRange 4).flatMap (fun c => (s.carrier c).cells) := by
  unfold State.heldCells
  rw [toList_flatMap, toList_flatMap, toList_flatMap]
  rfl

/-- The number of places that hold a cell. -/
def State.places (s : State) (x : CellNo) : Nat := s.heldCells.count x

theorem heldCells_perm_iff {s : State} {l : List CellNo} : s.heldCells.Perm l ↔ ∀ x, s.places x = l.count x :=
  List.perm_iff_count

theorem count_flatMap_finRange {n : Nat} (f : Fin n → List CellNo) (x : CellNo) :
    ((List.finRange n).flatMap f).count x = ∑ i, (f i).count x := by
  rw [List.count_flatMap, Fin.sum_univ_def]
  rfl

theorem places_eq (s : State) (x : CellNo) :
    s.places x = s.freeCells.count x + ∑ l, (s.link l).context.cells.count x
      + ∑ p, (unitCells (s.programme p).queue).count x + ∑ c, (s.carrier c).cells.count x := by
  rw [State.places, heldCells_eq]
  simp only [List.count_append, count_flatMap_finRange]

/-- Two sums that differ in one term. -/
theorem sum_eq_of_ne {n : Nat} {f g : Fin n → Nat} {i : Fin n} (h : ∀ j, j ≠ i → g j = f j) :
    ∑ j, g j + f i = ∑ j, f j + g i := by
  have hrest : ∑ j ∈ Finset.univ.erase i, g j = ∑ j ∈ Finset.univ.erase i, f j :=
    Finset.sum_congr rfl fun j hj => h j (Finset.ne_of_mem_erase hj)
  rw [← Finset.add_sum_erase _ g (Finset.mem_univ i), ← Finset.add_sum_erase _ f (Finset.mem_univ i), hrest]
  omega

/-! ### A record written -/

section
variable (s : State) (fs : List CellNo) (x : CellNo)

/-- What a link written over, and a free list put in place of the old one, add and take. -/
theorem places_setLink (l : LinkNo) (k : IngestLink) :
    { s.setLink l k with freeCells := fs }.places x + (s.freeCells.count x + (s.link l).context.cells.count x)
      = s.places x + (fs.count x + k.context.cells.count x) := by
  have h := sum_eq_of_ne (i := l) (f := fun j => (s.link j).context.cells.count x)
    (g := fun j => ((s.setLink l k).link j).context.cells.count x) fun j hj => by rw [State.setLink_ne _ _ _ _ hj]
  rw [State.setLink_self] at h
  have ht := places_eq { s.setLink l k with freeCells := fs } x
  have hs := places_eq s x
  change _ = fs.count x + ∑ j, ((s.setLink l k).link j).context.cells.count x
    + ∑ p, (unitCells (s.programme p).queue).count x + ∑ c, (s.carrier c).cells.count x at ht
  linarith

/-- The same of a programme record. -/
theorem places_setProgramme (p : ProgrammeNo) (k : Programme) :
    { s.setProgramme p k with freeCells := fs }.places x
        + (s.freeCells.count x + (unitCells (s.programme p).queue).count x)
      = s.places x + (fs.count x + (unitCells k.queue).count x) := by
  have h := sum_eq_of_ne (i := p) (f := fun j => (unitCells (s.programme j).queue).count x)
    (g := fun j => (unitCells ((s.setProgramme p k).programme j).queue).count x)
    fun j hj => by rw [State.setProgramme_ne _ _ _ _ hj]
  rw [State.setProgramme_self] at h
  have ht := places_eq { s.setProgramme p k with freeCells := fs } x
  have hs := places_eq s x
  change _ = fs.count x + ∑ l, (s.link l).context.cells.count x
    + ∑ j, (unitCells ((s.setProgramme p k).programme j).queue).count x + ∑ c, (s.carrier c).cells.count x at ht
  linarith

/-- The same of a carrier record. -/
theorem places_setCarrier (c : CarrierNo) (k : Carrier) :
    { s.setCarrier c k with freeCells := fs }.places x + (s.freeCells.count x + (s.carrier c).cells.count x)
      = s.places x + (fs.count x + k.cells.count x) := by
  have h := sum_eq_of_ne (i := c) (f := fun j => (s.carrier j).cells.count x)
    (g := fun j => ((s.setCarrier c k).carrier j).cells.count x) fun j hj => by rw [State.setCarrier_ne _ _ _ _ hj]
  rw [State.setCarrier_self] at h
  have ht := places_eq { s.setCarrier c k with freeCells := fs } x
  have hs := places_eq s x
  change _ = fs.count x + ∑ l, (s.link l).context.cells.count x
    + ∑ p, (unitCells (s.programme p).queue).count x + ∑ j, ((s.setCarrier c k).carrier j).cells.count x at ht
  linarith

end

/-! ### The parts of what every step keeps, record by record -/

/-- A link that is not LOCKED has an empty context, and a unit in reassembly has its size (R20, R22). -/
def IngestLink.contextFits (k : IngestLink) : Prop :=
  (k.state ≠ .locked → k.context = .empty) ∧ ∀ u, k.context = .receiving u → 1 ≤ u.size ∧ u.size ≤ 1048576

theorem contextsFit_iff {s : State} : s.contextsFit ↔ ∀ l, (s.link l).contextFits := Iff.rfl

/-- A programme queue within its limits: 8 units, each of its own programme, each with its size (R22, R31). -/
def Programme.queueFits (p : ProgrammeNo) (k : Programme) : Prop :=
  k.queue.length ≤ 8 ∧ ∀ u ∈ k.queue, u.programme = p ∧ 1 ≤ u.size ∧ u.size ≤ 1048576

/-- Every programme queue is within its limits. -/
def State.unitsFit (s : State) : Prop := ∀ p, (s.programme p).queueFits p

theorem unitsFit_iff {s : State} : s.unitsFit ↔ s.queuesFit ∧ s.sizesFit :=
  ⟨fun h => ⟨fun p => ⟨(h p).1, fun u hu => ((h p).2 u hu).1⟩, fun p u hu => ((h p).2 u hu).2⟩,
    fun ⟨hq, hs⟩ p => ⟨(hq p).1, fun u hu => ⟨(hq p).2 u hu, hs p u hu⟩⟩⟩

/-- A queue that loses units stays within its limits. -/
theorem Programme.queueFits_of_sublist {p : ProgrammeNo} {k k' : Programme} (hk : k.queueFits p)
    (h : k'.queue.Sublist k.queue) : k'.queueFits p :=
  ⟨h.length_le.trans hk.1, fun u hu => hk.2 u (h.subset hu)⟩

/-- A carrier that is OFF or ARMED holds no list (R62). -/
def Carrier.inService (k : Carrier) : Prop :=
  k.state = .off ∨ k.state = .armed → k.building = none ∧ k.emitting = none

theorem listsInService_iff {s : State} : s.listsInService ↔ ∀ c, (s.carrier c).inService := Iff.rfl

/-- `k'` is `k` but for what no limit is set to: the lists are the same, a carrier does not leave service, the buffer grows
no longer and the carousel list keeps one entry of a name. -/
structure Carrier.Quiet (k k' : Carrier) : Prop where
  building : k'.building = k.building
  emitting : k'.emitting = k.emitting
  emitted : k'.emitted = k.emitted
  service : k'.state = .off ∨ k'.state = .armed → k.inService → k'.inService
  buffer : k'.buffer.length ≤ k.buffer.length
  carousel : (k.carousel.map CarouselEntry.name).Nodup → (k'.carousel.map CarouselEntry.name).Nodup

theorem Carrier.Quiet.refl (k : Carrier) : k.Quiet k := ⟨rfl, rfl, rfl, fun _ h => h, le_rfl, id⟩

theorem Carrier.Quiet.cells {k k' : Carrier} (h : k.Quiet k') : k'.cells = k.cells := by
  unfold Carrier.cells
  rw [h.building, h.emitting]

theorem Carrier.Quiet.inService {k k' : Carrier} (h : k.Quiet k') (hk : k.inService) : k'.inService :=
  fun hs => h.service hs hk hs

theorem Carrier.Quiet.outputFits {k k' : Carrier} (h : k.Quiet k') (hk : k.outputFits) : k'.outputFits :=
  ⟨h.buffer.trans hk.1, h.carousel hk.2.1, fun he => by
    rw [h.emitted]
    exact hk.2.2 (h.emitting ▸ he)⟩

/-- `k'` is `k` but for what no limit is set to: its queue stays within its limits, it is DETACHED and has an
offer as before, and no more than a refusal waits on its line. -/
structure AccessPort.Quiet (k k' : AccessPort) : Prop where
  queue : k.queueFits → k'.queueFits
  detached : k'.state = .detached ↔ k.state = .detached
  offer : k'.offer.isSome = k.offer.isSome
  line : k.line.waitsRefusal → k'.line.waitsRefusal

theorem AccessPort.Quiet.refl (k : AccessPort) : k.Quiet k := ⟨id, Iff.rfl, rfl, id⟩

/-! ### What every step keeps of the cell store and of the lists -/

/-- From `s` to `t` no cell is lost, doubled or invented, and every limit on queues, lists and buffers that held still
holds. -/
structure StoreKept (s t : State) : Prop where
  memory : s.memory.wf = true → t.memory.wf = true
  contexts : s.contextsFit → t.contextsFit
  cells : s.contextsFit → s.cellsKept → t.cellsKept
  units : s.contextsFit → s.unitsFit → t.unitsFit
  ports : (∀ q, (s.port q).queueFits) → ∀ q, (t.port q).queueFits
  attached : s.attachedOnce → t.attachedOnce
  outputs : (∀ c, (s.carrier c).outputFits) → ∀ c, (t.carrier c).outputFits
  lines : (∀ q, (s.line q).waitsRefusal) → ∀ q, (t.line q).waitsRefusal

theorem StoreKept.refl (s : State) : StoreKept s s := ⟨id, id, fun _ => id, fun _ => id, id, id, id, id⟩

theorem StoreKept.trans (s t u : State) (h : StoreKept s t) (h' : StoreKept t u) : StoreKept s u where
  memory := h'.memory ∘ h.memory
  contexts := h'.contexts ∘ h.contexts
  cells hc hk := h'.cells (h.contexts hc) (h.cells hc hk)
  units hc hu := h'.units (h.contexts hc) (h.units hc hu)
  ports := h'.ports ∘ h.ports
  attached := h'.attached ∘ h.attached
  outputs := h'.outputs ∘ h.outputs
  lines := h'.lines ∘ h.lines

theorem StoreKept.listsFit {s t : State} (h : StoreKept s t) (hs : s.listsFit) : t.listsFit := by
  obtain ⟨hqueues, hsizes, hcontexts, hports, hattached, houtputs, hlines⟩ := hs
  obtain ⟨hqueues', hsizes'⟩ := unitsFit_iff.1 (h.units hcontexts (unitsFit_iff.2 ⟨hqueues, hsizes⟩))
  exact ⟨hqueues', hsizes', h.contexts hcontexts, h.ports hports, h.attached hattached, h.outputs houtputs,
    h.lines hlines⟩

/-- A fold keeps what each of its steps keeps. -/
theorem StoreKept.foldl {α : Type} {f : State → α → State} (h : ∀ s a, StoreKept s (f s a)) (l : List α) (s : State) :
    StoreKept s (l.foldl f s) := foldl_rel StoreKept .refl .trans f h l s

/-- What is done or not done keeps what doing it keeps. -/
theorem StoreKept.ite {s t : State} (b : Prop) [Decidable b] (f : State → State) (h : StoreKept s t)
    (hf : ∀ u, StoreKept u (f u)) : StoreKept s (if b then f t else t) := by
  split
  · exact .trans _ _ _ h (hf t)
  · exact h

/-- The cells are kept where each is held in as many places as before, and the lists stay in service. -/
theorem cellsKept_of_places {s t : State} (hp : ∀ x, t.places x = s.places x)
    (hs : s.listsInService → t.listsInService) (h : s.cellsKept) : t.cellsKept :=
  ⟨heldCells_perm_iff.2 fun x => (hp x).trans (heldCells_perm_iff.1 h.1 x), hs h.2⟩

/-! ### One record written -/

section
variable {b s : State} (h : StoreKept b s)
include h

/-- A link record written over, with the cells that its context gains or loses moved from or to the free list. -/
theorem StoreKept.writeLink {l : LinkNo} {k : IngestLink} {fs : List CellNo}
    (hcells : b.contextsFit → (k.context.cells ++ fs).Perm ((s.link l).context.cells ++ s.freeCells))
    (hfits : (s.link l).contextFits → k.contextFits) : StoreKept b { s.setLink l k with freeCells := fs } :=
  { h with
    contexts := fun hb j => by
      change ((s.setLink l k).link j).contextFits
      rw [State.setLink_link]
      split
      · exact hfits (h.contexts hb l)
      · exact h.contexts hb j
    cells := fun hb hk => cellsKept_of_places (s := s)
      (fun x => by
        have h1 := places_setLink s fs x l k
        have h2 := (hcells hb).count_eq x
        rw [List.count_append, List.count_append] at h2
        omega)
      id (h.cells hb hk) }

/-- A programme record written over, with the cells that its queue gains or loses moved from or to the free list. -/
theorem StoreKept.writeProgramme {p : ProgrammeNo} {k : Programme} {fs : List CellNo}
    (hcells : (unitCells k.queue ++ fs).Perm (unitCells (s.programme p).queue ++ s.freeCells))
    (hfits : b.contextsFit → (s.programme p).queueFits p → k.queueFits p) :
    StoreKept b { s.setProgramme p k with freeCells := fs } :=
  { h with
    cells := fun hb hk => cellsKept_of_places (s := s)
      (fun x => by
        have h1 := places_setProgramme s fs x p k
        have h2 := hcells.count_eq x
        rw [List.count_append, List.count_append] at h2
        omega)
      id (h.cells hb hk)
    units := fun hb hu q => by
      change ((s.setProgramme p k).programme q).queueFits q
      rw [State.setProgramme_programme]
      split
      · next hq => subst hq; exact hfits hb (h.units hb hu q)
      · exact h.units hb hu q }

/-- A carrier record written over, with the cells that its lists gain or lose moved from or to the free list. -/
theorem StoreKept.writeCarrier {c : CarrierNo} {k : Carrier} {fs : List CellNo}
    (hcells : b.cellsKept → (s.carrier c).inService → (k.cells ++ fs).Perm ((s.carrier c).cells ++ s.freeCells))
    (hservice : (s.carrier c).inService → k.inService)
    (hfits : (∀ d, (b.carrier d).outputFits) → (s.carrier c).outputFits → k.outputFits) :
    StoreKept b { s.setCarrier c k with freeCells := fs } :=
  { h with
    cells := fun hb hk => cellsKept_of_places (s := s)
      (fun x => by
        have h1 := places_setCarrier s fs x c k
        have h2 := (hcells hk ((h.cells hb hk).2 c)).count_eq x
        rw [List.count_append, List.count_append] at h2
        omega)
      (fun hs d => by
        change ((s.setCarrier c k).carrier d).inService
        rw [State.setCarrier_carrier]
        split
        · exact hservice (hs c)
        · exact hs d)
      (h.cells hb hk)
    outputs := fun hb d => by
      change ((s.setCarrier c k).carrier d).outputFits
      rw [State.setCarrier_carrier]
      split
      · exact hfits hb (h.outputs hb c)
      · exact h.outputs hb d }

end

/-! ### States that differ in nothing that is limited -/

/-- From `s` to `t` nothing changes that a limit is set to. -/
structure Quiet (s t : State) : Prop where
  memory : t.memory = s.memory
  links : t.links = s.links
  freeCells : t.freeCells = s.freeCells
  attachOrder : t.attachOrder = s.attachOrder
  programme : ∀ p, (t.programme p).queue = (s.programme p).queue
  carrier : ∀ c, (s.carrier c).Quiet (t.carrier c)
  port : ∀ q, (s.port q).Quiet (t.port q)
  manager : s.manager.line.waitsRefusal → t.manager.line.waitsRefusal

theorem Quiet.storeKept {s t : State} (h : Quiet s t) : StoreKept s t := by
  have hlink : ∀ l, t.link l = s.link l := fun l => congrArg (·[l.val]) h.links
  refine
    { memory := fun hs => h.memory ▸ hs
      contexts := fun hs l => by rw [hlink]; exact hs l
      cells := fun _ => cellsKept_of_places (fun x => ?_) (fun hs c => (h.carrier c).inService (hs c))
      units := fun _ hs p => (hs p).imp (by rw [h.programme]; exact id) (by rw [h.programme]; exact id)
      ports := fun hs q => (h.port q).queue (hs q)
      attached := fun ⟨hn, hs⟩ => ⟨h.attachOrder ▸ hn, fun q => ?_⟩
      outputs := fun hs c => (h.carrier c).outputFits (hs c)
      lines := fun hs q => ?_ }
  · simp only [places_eq, h.freeCells, hlink, h.programme, fun c => (h.carrier c).cells]
  · rw [h.attachOrder, (h.port q).offer, Ne, (h.port q).detached]
    exact hs q
  · cases q with
    | manager => exact h.manager (hs .manager)
    | access p => exact (h.port p).line (hs (.access p))

/-- A state with the same tables, free list, memory, attach order and manager line. -/
theorem StoreKept.of_eq {s t : State} (hm : t.memory = s.memory) (hl : t.links = s.links)
    (hf : t.freeCells = s.freeCells) (ho : t.attachOrder = s.attachOrder) (hp : t.programmes = s.programmes)
    (hc : t.carriers = s.carriers) (ha : t.access = s.access) (hi : t.manager.line = s.manager.line) : StoreKept s t :=
  Quiet.storeKept
    { memory := hm
      links := hl
      freeCells := hf
      attachOrder := ho
      programme := fun p => congrArg (·[p.val].queue) hp
      carrier := fun c => by rw [show t.carrier c = s.carrier c from congrArg (·[c.val]) hc]; exact .refl _
      port := fun q => by rw [show t.port q = s.port q from congrArg (·[q.val]) ha]; exact .refl _
      manager := fun h => hi ▸ h }

theorem GroupsOnly.storeKept {s t : State} : GroupsOnly s t → StoreKept s t := by
  rintro ⟨_, rfl⟩; exact .of_eq rfl rfl rfl rfl rfl rfl rfl rfl

theorem StoreKept.setCarrier {s : State} {c : CarrierNo} {k : Carrier} (h : (s.carrier c).Quiet k) :
    StoreKept s (s.setCarrier c k) :=
  (StoreKept.refl s).writeCarrier (fun _ _ => by rw [h.cells]) h.inService fun _ => h.outputFits

theorem StoreKept.setProgramme {s : State} {p : ProgrammeNo} {k : Programme} (h : k.queue = (s.programme p).queue) :
    StoreKept s (s.setProgramme p k) :=
  (StoreKept.refl s).writeProgramme (by rw [h]) fun _ hq => hq.imp (by rw [h]; exact id) (by rw [h]; exact id)

theorem StoreKept.setPort {s : State} {q : PortNo} {k : AccessPort} (h : (s.port q).Quiet k) :
    StoreKept s (s.setPort q k) :=
  Quiet.storeKept
    { memory := rfl
      links := rfl
      freeCells := rfl
      attachOrder := rfl
      programme := fun _ => rfl
      carrier := fun _ => .refl _
      port := fun r => by
        rw [State.setPort_port]
        split
        · next hr => exact hr ▸ h
        · exact .refl _
      manager := id }

/-- A port written over in its flags, its condition record, its state but for DETACHED, its batch: a limit is set to none. -/
theorem AccessPort.Quiet.of_eq {k k' : AccessPort} (hs : k'.state = .detached ↔ k.state = .detached)
    (hq : k'.queue = k.queue) (ho : k'.offer = k.offer) (hl : k'.line = k.line) : k.Quiet k' :=
  ⟨fun h => ⟨hq ▸ h.1, hq ▸ h.2⟩, hs, by rw [ho], fun h => hl ▸ h⟩

end Sys2Proof.Machine

/-! SUPPORT. The key schedule, the plan resolver and the carousel touch no cell and no limited list: they write flags, roles,
slots and carousel lists that keep one entry of a name (R77 to R111, R113 to R117). -/

namespace Sys2Proof.Machine

/-! ### Single writes -/

theorem setGroup_storeKept (s : State) (g : GroupNo) (k : Group) : StoreKept s (s.setGroup g k) :=
  .of_eq rfl rfl rfl rfl rfl rfl rfl rfl

theorem setGroupAlert_storeKept (s : State) (g : GroupNo) (v : Bool) : StoreKept s (s.setGroupAlert g v) :=
  .of_eq rfl rfl rfl rfl rfl rfl rfl rfl

theorem setCarrierAlert_storeKept (s : State) (c : CarrierNo) (v : Bool) : StoreKept s (s.setCarrierAlert c v) :=
  .of_eq rfl rfl rfl rfl rfl rfl rfl rfl

theorem managerCause_storeKept (s : State) (k : ManagerCondition) : StoreKept s (s.managerCause k) :=
  .of_eq rfl rfl rfl rfl rfl rfl rfl rfl

theorem setKeyWaiting_storeKept (s : State) (p : PortNo) (g : GroupNo) (v : Bool) :
    StoreKept s (s.setKeyWaiting p g v) := .setPort (.of_eq Iff.rfl rfl rfl rfl)

theorem setPlanWaiting_storeKept (s : State) (p : PortNo) (g : GroupNo) (v : Bool) :
    StoreKept s (s.setPlanWaiting p g v) := .setPort (.of_eq Iff.rfl rfl rfl rfl)

theorem setBatchEnd_storeKept (s : State) (p : PortNo) (v : Bool) : StoreKept s (s.setBatchEnd p v) :=
  .setPort (.of_eq Iff.rfl rfl rfl rfl)

/-- A cause leaves a DETACHED port DETACHED and an attached one attached (R148). -/
theorem AccessPort.raised_detached (k : AccessPort) : k.raised = .detached ↔ k.state = .detached := by
  unfold AccessPort.raised
  split <;> simp [*]

theorem addExcluded_storeKept (s : State) (p : PortNo) (g : GroupNo) : StoreKept s (s.addExcluded p g) :=
  .setPort (.of_eq (AccessPort.raised_detached _) rfl rfl rfl)

theorem addLate_storeKept (s : State) (p : PortNo) (g : GroupNo) : StoreKept s (s.addLate p g) :=
  .setPort (.of_eq (AccessPort.raised_detached _) rfl rfl rfl)

theorem keepEntries_storeKept (s : State) (keep : CarouselEntry → Bool) : StoreKept s (s.keepEntries keep) :=
  Quiet.storeKept
    { memory := rfl
      links := rfl
      freeCells := rfl
      attachOrder := rfl
      programme := fun _ => rfl
      carrier := fun c => by
        rw [keepEntries_carrier]
        exact ⟨rfl, rfl, rfl, fun _ h => h, le_rfl, fun h => h.sublist (List.filter_sublist.map _)⟩
      port := fun _ => .refl _
      manager := id }

/-! ### Flags of several ports -/

theorem raiseKeyWaiting_storeKept (s : State) (g : GroupNo) : StoreKept s (s.raiseKeyWaiting g) :=
  .foldl (fun t p => .ite _ (fun u => u.setKeyWaiting p g true) (.refl t) fun u => setKeyWaiting_storeKept u p g _) _ s

theorem clearKeyWaiting_storeKept (s : State) (g : GroupNo) : StoreKept s (s.clearKeyWaiting g) :=
  .foldl (fun t p => setKeyWaiting_storeKept t p g _) _ s

theorem raiseLate_storeKept (s : State) (g : GroupNo) : StoreKept s (s.raiseLate g) :=
  .foldl (fun t p => .ite _ (fun u => u.addLate p g) (.refl t) fun u => addLate_storeKept u p g) _ s

theorem raiseExcluded_storeKept (s : State) (g : GroupNo) (before : Vector Role 4) (fault : Bool) :
    StoreKept s (s.raiseExcluded g before fault) :=
  .foldl (fun t p => .ite _ (fun u => u.addExcluded p g) (.refl t) fun u => addExcluded_storeKept u p g) _ s

theorem raisePlanWaiting_storeKept (s : State) (g : GroupNo) : StoreKept s (s.raisePlanWaiting g) :=
  .foldl (fun t p => .ite _ (fun u => u.setPlanWaiting p g true) (.refl t) fun u => setPlanWaiting_storeKept u p g _) _ s

/-! ### Carousel lists (R113 to R117) -/

theorem Carrier.place_quiet (k : Carrier) (e : CarouselEntry) : k.Quiet (k.place e) :=
  ⟨rfl, rfl, rfl, fun _ h => h, le_rfl, fun h => by
    rw [place_carousel, List.map_append, List.nodup_append]
    refine ⟨h.sublist (List.filter_sublist.map _), List.nodup_singleton _, fun a ha b hb => ?_⟩
    obtain ⟨x, hx, rfl⟩ := List.mem_map.1 ha
    rw [List.mem_singleton.1 hb]
    exact of_decide_eq_true (List.mem_filter.1 hx).2⟩

theorem Carrier.Quiet.trans (k l m : Carrier) (h : k.Quiet l) (h' : l.Quiet m) : k.Quiet m where
  building := h'.building.trans h.building
  emitting := h'.emitting.trans h.emitting
  emitted := h'.emitted.trans h.emitted
  service _ hk := h'.inService (h.inService hk)
  buffer := h'.buffer.trans h.buffer
  carousel := h'.carousel ∘ h.carousel

theorem placeEverywhere_storeKept (s : State) (e : CarouselEntry) : StoreKept s (s.placeEverywhere e) :=
  .foldl (fun t c => .ite _ (fun u => u.setCarrier c ((u.carrier c).place e)) (.refl t)
    fun _ => .setCarrier (Carrier.place_quiet _ e)) _ s

theorem gainGroup_storeKept (s : State) (c : CarrierNo) (g : GroupNo) (due : Time) :
    StoreKept s (s.gainGroup c g due) :=
  .setCarrier (foldl_rel Carrier.Quiet .refl .trans _ Carrier.place_quiet _ _)

theorem gainGroups_storeKept (s : State) (c : CarrierNo) (b : Time) : StoreKept s (s.gainGroups c b) :=
  .foldl (fun t g => .ite _ (fun u => u.gainGroup c g b) (.refl t) fun u => gainGroup_storeKept u c g b) _ s

theorem loseGroup_storeKept (s : State) (c : CarrierNo) (g : GroupNo) : StoreKept s (s.loseGroup c g) :=
  .setCarrier ⟨rfl, rfl, rfl, fun _ h => h, le_rfl, fun h => h.sublist (List.filter_sublist.map _)⟩

/-! ### Roles and resolutions (R78, R99, R101, R103) -/

theorem recompute_storeKept (s : State) (g : GroupNo) : StoreKept s (s.recompute g) := (recompute_shape s g).storeKept

theorem deleteMemberPackets_storeKept (s : State) (g : GroupNo) (p : PortNo) :
    StoreKept s (s.deleteMemberPackets g p) :=
  .trans _ _ _ (setGroup_storeKept s g _) (keepEntries_storeKept _ _)

theorem setRole_storeKept (s : State) (g : GroupNo) (p : PortNo) (r : Role) : StoreKept s (s.setRole g p r) := by
  unfold State.setRole
  refine .trans _ _ _ ?_ (recompute_storeKept _ g)
  refine .ite _ (fun t => t.setPlanWaiting p g false) ?_ (fun u => setPlanWaiting_storeKept u p g _)
  refine .ite _ (fun t => t.setKeyWaiting p g true) ?_ (fun u => setKeyWaiting_storeKept u p g _)
  refine .ite _ (fun t => (t.deleteMemberPackets g p).setKeyWaiting p g false) (setGroup_storeKept s g _) (fun u => ?_)
  exact .trans _ _ _ (deleteMemberPackets_storeKept u g p) (setKeyWaiting_storeKept _ p g _)

theorem resolve_storeKept (s : State) (g : GroupNo) : StoreKept s (s.resolve g) := by
  unfold State.resolve
  dsimp only
  split
  · exact .refl s
  · split
    · exact .refl s
    · refine .ite _ (fun t => t.setGroupAlert g true) ?_ (fun u => setGroupAlert_storeKept u g _)
      refine .trans _ _ _ ?_ (setGroup_storeKept _ g _)
      refine .trans _ _ _ ?_ (raisePlanWaiting_storeKept _ g)
      refine .trans _ _ _ ?_ (raiseExcluded_storeKept _ g _ _)
      exact .foldl (fun t p => setRole_storeKept t g p _) _ s

theorem resolveFor_storeKept (s : State) (p : PortNo) : StoreKept s (s.resolveFor p) :=
  .foldl (fun t g => .ite _ (fun u => u.resolve g) (.refl t) (fun u => resolve_storeKept u g)) _ s

theorem leaveGroups_storeKept (s : State) (p : PortNo) : StoreKept s (s.leaveGroups p) :=
  .foldl (fun t g => .ite _ (fun u => u.setRole g p .absent) (.refl t) (fun u => setRole_storeKept u g p _)) _ s

/-! ### A port joins and leaves the attach order list (R98, R99, R101) -/

/-- A port is written together with the attach order list. -/
theorem StoreKept.writePort {s : State} {p : PortNo} {k : AccessPort} {order : List PortNo}
    (hqueue : (s.port p).queueFits → k.queueFits) (hline : (s.port p).line.waitsRefusal → k.line.waitsRefusal)
    (hattached : s.attachedOnce → { s.setPort p k with attachOrder := order }.attachedOnce) :
    StoreKept s { s.setPort p k with attachOrder := order } :=
  { StoreKept.refl s with
    ports := fun h q => by
      change ((s.setPort p k).port q).queueFits
      rw [State.setPort_port]
      split
      · exact hqueue (h p)
      · exact h q
    attached := hattached
    lines := fun h q => by
      cases q with
      | manager => exact h .manager
      | access q =>
        change ((s.setPort p k).port q).line.waitsRefusal
        rw [State.setPort_port]
        split
        · exact hline (h (.access p))
        · exact h (.access q) }

/-- The attach order list after one port has been written with it. -/
theorem attachedOnce_writePort {s : State} {p : PortNo} {k : AccessPort} {order : List PortNo} (h : s.attachedOnce)
    (hnodup : order.Nodup) (hmem : p ∈ order ↔ k.state ≠ .detached) (hoffer : k.offer.isSome ↔ k.state ≠ .detached)
    (hothers : ∀ q, q ≠ p → (q ∈ order ↔ q ∈ s.attachOrder)) :
    { s.setPort p k with attachOrder := order }.attachedOnce := by
  refine ⟨hnodup, fun q => ?_⟩
  change (q ∈ order ↔ ((s.setPort p k).port q).state ≠ .detached) ∧
    (((s.setPort p k).port q).offer.isSome ↔ ((s.setPort p k).port q).state ≠ .detached)
  rw [State.setPort_port]
  split
  · next hq => subst hq; exact ⟨hmem, hoffer⟩
  · next hq => exact ⟨(hothers q hq).trans (h.2 q).1, (h.2 q).2⟩

/-- An attached port records an offer (R98). -/
theorem setOffer_storeKept {s : State} {p : PortNo} (h : (s.port p).state ≠ .detached) (o : Offer) :
    StoreKept s (s.setPort p { s.port p with offer := some o }) :=
  .writePort (order := s.attachOrder) id id fun ha =>
    attachedOnce_writePort ha ha.1 (ha.2 p).1 ⟨fun _ => h, fun _ => rfl⟩ fun _ _ => Iff.rfl

/-- A DETACHED port is attached with its offer, at the tail of the list (R99). -/
theorem joinOrder_storeKept {s : State} {p : PortNo} (h : (s.port p).state = .detached) (o : Offer) :
    StoreKept s { s.setPort p { s.port p with state := .ready, offer := some o } with
      attachOrder := s.attachOrder ++ [p] } := by
  refine .writePort (fun hk => hk) (fun hl => hl) fun ha => ?_
  refine attachedOnce_writePort ha ?_ ?_ ?_ fun q hq => ?_
  · refine List.nodup_append.2 ⟨ha.1, List.nodup_singleton p, fun a hm b hb hab => ?_⟩
    rw [hab, List.mem_singleton.1 hb] at hm
    exact (ha.2 p).1.1 hm h
  · simp
  · simp
  · simp [hq]

/-- A port leaves the list with its offer (R101). -/
theorem leaveOrder_storeKept (s : State) (p : PortNo) :
    StoreKept s { s.setPort p { s.port p with state := .detached, offer := none } with
      attachOrder := s.attachOrder.filter (fun q => !(q == p)) } := by
  refine .writePort id id fun ha => ?_
  refine attachedOnce_writePort ha (ha.1.filter _) ?_ ?_ fun q hq => ?_
  · simp
  · simp
  · simp [hq]

theorem attach_storeKept (s : State) (o : Offer) (p : PortNo) : StoreKept s (attach o p s).1 := by
  unfold attach
  dsimp only
  split
  · exact .refl s
  · dsimp only
    refine .trans _ _ _ ?_ (resolveFor_storeKept _ p)
    split
    · next h => exact joinOrder_storeKept h o
    · next h => exact setOffer_storeKept h o

theorem detachPort_storeKept (s : State) (p : PortNo) : StoreKept s (s.detachPort p) := by
  unfold State.detachPort
  dsimp only
  refine .trans _ _ _ ?_ (resolveFor_storeKept _ p)
  refine .trans _ _ _ ?_ (.setPort ?_)
  · exact .trans _ _ _ (leaveOrder_storeKept s p) (leaveGroups_storeKept _ p)
  · generalize State.port _ p = k
    exact ⟨fun _ => ⟨Nat.zero_le _, nofun⟩, Iff.rfl, rfl, fun h => h⟩

/-! ### Keys and groups (R81, R82, R84 to R94) -/

theorem storePacket_storeKept (s : State) (g : GroupNo) (ph : Phase) (k : KeySlot) (p : PortNo) (body : List Byte) :
    StoreKept s (s.storePacket g ph k p body) := by
  unfold State.storePacket
  refine .trans _ _ _ ?_ (recompute_storeKept _ g)
  refine .trans _ _ _ ?_ (placeEverywhere_storeKept _ _)
  exact setGroup_storeKept s g _

theorem drawPending_storeKept (s : State) (g : GroupNo) (serial : Serial) : StoreKept s (s.drawPending g serial) := by
  obtain ⟨_, _, h, -⟩ := drawKey_spec s ((s.group g).activeSlot.map (·.2.key))
  unfold State.drawPending
  rw [h]
  refine .trans _ _ _ ?_ (raiseKeyWaiting_storeKept _ g)
  refine .trans _ _ _ ?_ (recompute_storeKept _ g)
  exact .of_eq rfl rfl rfl rfl rfl rfl rfl rfl

theorem drawEvent_storeKept (s : State) (g : GroupNo) : StoreKept s (s.drawEvent g) := by
  unfold State.drawEvent
  dsimp only
  split
  · exact .trans _ _ _ (drawPending_storeKept s g _) (setGroup_storeKept _ g _)
  · exact .refl s

theorem startEvent_storeKept (s : State) (g : GroupNo) : StoreKept s (s.startEvent g) := by
  unfold State.startEvent
  dsimp only
  split
  · exact .trans _ _ _ (setGroup_storeKept s g _) (clearKeyWaiting_storeKept _ g)
  · exact .refl s

theorem swapSlots_storeKept (s : State) (g : GroupNo) : StoreKept s (s.swapSlots g) :=
  .trans _ _ _ (.trans _ _ _ (setGroup_storeKept s g _) (keepEntries_storeKept _ _)) (clearKeyWaiting_storeKept _ g)

theorem deferChangeover_storeKept (s : State) (g : GroupNo) : StoreKept s (s.deferChangeover g) := by
  unfold State.deferChangeover
  dsimp only
  refine .ite _ (fun t => t.addGroupFrozen g) ?_ (fun _ => managerCause_storeKept _ _)
  refine .trans _ _ _ ?_ (setGroupAlert_storeKept _ g true)
  exact .trans _ _ _ (setGroup_storeKept s g _) (raiseLate_storeKept _ g)

theorem changeover_storeKept (s : State) (g : GroupNo) : StoreKept s (s.changeover g) := by
  unfold State.changeover
  dsimp only
  split
  · split
    · exact swapSlots_storeKept s g
    · exact deferChangeover_storeKept s g
  · exact .refl s

theorem firstAgreement_storeKept (s : State) (g : GroupNo) : StoreKept s (s.firstAgreement g) := by
  obtain ⟨_, _, h, -⟩ := drawKey_spec s none
  unfold State.firstAgreement
  rw [h]
  refine .trans _ _ _ ?_ (raiseKeyWaiting_storeKept _ g)
  refine .trans _ _ _ ?_ (recompute_storeKept _ g)
  exact .of_eq rfl rfl rfl rfl rfl rfl rfl rfl

theorem agree_storeKept (s : State) (g : GroupNo) : StoreKept s (s.agree g) :=
  .ite _ (fun u => u.firstAgreement g) (setGroup_storeKept s g _) (fun u => firstAgreement_storeKept u g)

theorem join_storeKept (s : State) (g : GroupNo) (p : PortNo) : StoreKept s (s.join g p) := by
  refine .ite _ (fun t => t.agree g) ?_ (fun u => agree_storeKept u g)
  exact .trans _ _ _ (setRole_storeKept s g p _) (setPlanWaiting_storeKept _ p g _)

theorem changeRoster_storeKept (s : State) (g : GroupNo) (roster : PortSet) : StoreKept s (s.changeRoster g roster) :=
  .foldl (fun t p => by
    dsimp only
    split <;> split
    · exact setRole_storeKept t g p _
    · exact .refl t
    · exact .refl t
    · exact setRole_storeKept t g p _) _ s

theorem changeLimit_storeKept (s : State) (g : GroupNo) (limit : Nat) : StoreKept s (s.changeLimit g limit) := by
  unfold State.changeLimit
  dsimp only
  split
  · split
    · exact .of_eq rfl rfl rfl rfl rfl rfl rfl rfl
    · exact setGroup_storeKept s g _
  · exact setGroup_storeKept s g _
  · exact setGroup_storeKept s g _

theorem redefine_storeKept (s : State) (g : GroupNo) (d : GroupDef) : StoreKept s (s.redefine g d) :=
  .trans _ _ _ (.trans _ _ _ (setGroup_storeKept s g _) (changeRoster_storeKept _ g _)) (changeLimit_storeKept _ g _)

theorem release_storeKept (s : State) (g : GroupNo) : StoreKept s (s.release g) := by
  unfold State.release
  refine .trans _ _ _ ?_ (.foldl (fun t p => ?_) _ _)
  · exact .trans _ _ _ (setGroup_storeKept s g _) (keepEntries_storeKept _ _)
  · exact .trans _ _ _ (setKeyWaiting_storeKept t p g _) (setPlanWaiting_storeKept _ p g _)

theorem restartGroup_storeKept (s : State) (g : GroupNo) : StoreKept s (s.restartGroup g) :=
  .trans _ _ _ (.trans _ _ _ (keepEntries_storeKept s _) (drawPending_storeKept _ g _)) (setGroup_storeKept _ g _)

end Sys2Proof.Machine

/-! SUPPORT. What an allocation event keeps of the cell store and of the lists: units leave their queues for the free
list or for the list being built, and no cell goes elsewhere (R31, R43 to R50, R57, R118, R119, R129). -/

namespace Sys2Proof.Machine

/-! ### Units discarded (R31) -/

theorem unitCells_append (us vs : List UnitRecord) : unitCells (us ++ vs) = unitCells us ++ unitCells vs :=
  List.flatMap_append

/-- The first units of a queue are discarded, and their cells return to the free list. -/
theorem StoreKept.discard {s : State} {p : ProgrammeNo} {k : Programme} {gone : List UnitRecord}
    (h : gone ++ k.queue = (s.programme p).queue) : StoreKept s ((s.setProgramme p k).freeUp (unitCells gone)) := by
  refine (StoreKept.refl s).writeProgramme ?_ fun _ hq => ?_
  · rw [← h, unitCells_append]
    exact List.perm_iff_count.2 fun x => by
      simp only [State.setProgramme_freeCells, List.count_append]
      omega
  · exact Programme.queueFits_of_sublist hq (h ▸ List.sublist_append_right gone k.queue)

theorem emptyQueue_storeKept (s : State) (p : ProgrammeNo) : StoreKept s (s.emptyQueue p) :=
  .discard (List.append_nil _)

theorem dropHead_storeKept (s : State) (p : ProgrammeNo) : StoreKept s (s.dropHead p) :=
  .discard (List.take_append_drop 1 _)

theorem stopProgramme_storeKept (s : State) (p : ProgrammeNo) : StoreKept s (s.stopProgramme p) :=
  .trans _ _ _ (emptyQueue_storeKept s p) (.setProgramme rfl)

/-! ### The takes (R118, R119, R129) -/

theorem takeFrom_storeKept (s : State) (c : CarrierNo) (p : PortNo) : StoreKept s (s.takeFrom c p).2 :=
  .setPort ⟨fun h => ⟨(scanQueue_left_length _ _ _ _).trans h.1, scanQueue_remaining _ _ _ _ h.2⟩, Iff.rfl, rfl, id⟩

theorem subscriberTake_storeKept (s : State) (c : CarrierNo) : StoreKept s (s.subscriberTake c).2 := by
  unfold State.subscriberTake
  refine foldl_rel (fun x y : List SubscriberCopy × State => StoreKept x.2 y.2) (fun _ => .refl _)
    (fun _ _ _ => .trans _ _ _) _ ?_ _ ([], s)
  exact fun acc p => takeFrom_storeKept acc.2 c p

theorem takeEntry_storeKept (c : CarrierNo) (b : Time) (acc : List AccessCopy × State) (e : CarouselEntry) :
    StoreKept acc.2 (takeEntry c b acc e).2 := by
  refine .trans _ _ _ (.setCarrier ?_) (reportAiring_shape _ _ _ _ _).storeKept
  refine ⟨rfl, rfl, rfl, fun _ h => h, le_rfl, fun h => ?_⟩
  rw [List.map_map, List.map_congr_left (g := CarouselEntry.name)]
  · exact h
  · intro x _
    dsimp only [Function.comp]
    split <;> rfl

theorem accessTake_storeKept (s : State) (c : CarrierNo) (b : Time) : StoreKept s (s.accessTake c b).2 :=
  foldl_rel (fun x y : List AccessCopy × State => StoreKept x.2 y.2) (fun _ => .refl _) (fun _ _ _ => .trans _ _ _) _
    (takeEntry_storeKept c b) _ ([], s)

/-! ### Blanking, the resync walk, the minimum pass (R43 to R51) -/

theorem countResync_storeKept (s : State) (c : CarrierNo) (n : Nat) : StoreKept s (s.countResync c n) :=
  .setCarrier ⟨rfl, rfl, rfl, fun _ h => h, le_rfl, id⟩

theorem modCounters_storeKept (s : State) (c : CarrierNo) (f : Counters → Counters) :
    StoreKept s (s.modCounters c f) :=
  .setCarrier ⟨rfl, rfl, rfl, fun _ h => h, le_rfl, id⟩

theorem blank_storeKept (v : Event) (c : CarrierNo) (p : ProgrammeNo) : StoreKept v.state (v.blank c p).state :=
  .trans _ _ _ (.trans _ _ _ (emptyQueue_storeKept _ p) (countResync_storeKept _ c _)) (.setProgramme rfl)

theorem walk_storeKept (v : Event) (c : CarrierNo) (p : ProgrammeNo) : StoreKept v.state (v.walk c p).state :=
  .trans _ _ _ (.discard List.takeWhile_append_dropWhile) (countResync_storeKept _ c _)

theorem stage3_storeKept (c : CarrierNo) (v : Event) (p : ProgrammeNo) :
    StoreKept v.state (Event.stage3 c v p).state := by
  unfold Event.stage3
  dsimp only
  split
  · split
    · exact blank_storeKept v c p
    · split
      · exact walk_storeKept v c p
      · exact .refl _
  · exact .refl _

theorem demote_storeKept (c : CarrierNo) (v : Event) (x : Candidate) :
    StoreKept v.state (Event.demote c v x).state := by
  have drop : ∀ f : Counters → Counters, StoreKept v.state ((v.state.dropHead x.programme).modCounters c f) :=
    fun f => .trans _ _ _ (dropHead_storeKept _ _) (modCounters_storeKept _ c f)
  unfold Event.demote Event.dropBridge
  split
  · dsimp only
    exact drop _
  · exact .trans _ _ _ (drop _) (.setProgramme rfl)
  · split
    · exact .trans _ _ _ (modCounters_storeKept _ c _) (.setProgramme rfl)
    · exact .trans _ _ _ (drop _) (.setProgramme rfl)

theorem clearHeld_storeKept (s : State) (x : Candidate) : StoreKept s (clearHeld s x) := by
  unfold clearHeld
  split
  · exact .setProgramme rfl
  · exact .refl s

theorem Event.foldl_storeKept {α : Type} {f : Event → α → Event} (h : ∀ v a, StoreKept v.state (f v a).state)
    (l : List α) (v : Event) : StoreKept v.state (l.foldl f v).state :=
  foldl_rel (fun v w : Event => StoreKept v.state w.state) (fun _ => .refl _) (fun _ _ _ => .trans _ _ _) f h l v

theorem select_storeKept (v : Event) (c : CarrierNo) (pool : Nat) : StoreKept v.state (v.select c pool).1.state := by
  unfold Event.select
  dsimp only
  refine .trans _ _ _ ?_ (.foldl clearHeld_storeKept _ _)
  exact .trans _ _ _ (Event.foldl_storeKept (stage3_storeKept c) _ v) (Event.foldl_storeKept (demote_storeKept c) _ _)

/-! ### The candidates have different programmes (R45) -/

theorem candidate_programme {s : State} {c : CarrierNo} {p : ProgrammeNo} {x : Candidate}
    (h : s.candidate c p = some x) : x.programme = p := by
  unfold State.candidate at h
  dsimp only at h
  split at h
  · split at h
    · cases h; rfl
    · cases h
  · cases h

theorem candidatesOf_nodup (s : State) (c : CarrierNo) : ((s.candidatesOf c).map (·.programme)).Nodup := by
  unfold State.candidatesOf
  rw [List.Nodup, List.pairwise_map, List.pairwise_filterMap]
  refine (List.nodup_finRange 48).imp fun {p q} hpq x hx y hy => ?_
  rwa [candidate_programme hx, candidate_programme hy]

theorem shareRounds_programmes : ∀ (n pool : Nat) (cs : List Candidate),
    (shareRounds n pool cs).2.map (·.programme) = cs.map (·.programme)
  | 0, _, _ => rfl
  | n + 1, pool, cs => by
      have hround : (shareRound pool cs).map (·.programme) = cs.map (·.programme) := by
        rw [shareRound, List.map_map]; rfl
      unfold shareRounds
      split
      · rfl
      · dsimp only
        split
        · rw [shareRounds_programmes n, hround]
        · exact hround

theorem giveSlice_programmes (p : ProgrammeNo) (cs : List Candidate) :
    (giveSlice p cs).map (·.programme) = cs.map (·.programme) := by
  rw [giveSlice, List.map_map]
  refine List.map_congr_left fun x _ => ?_
  dsimp only [Function.comp]
  split <;> rfl

theorem remainderPass_programmes : ∀ (n : Nat) (pos : ProgrammeNo) (cs : List Candidate),
    (remainderPass n pos cs).2.2.map (·.programme) = cs.map (·.programme)
  | 0, _, _ => rfl
  | n + 1, pos, cs => by
      unfold remainderPass
      split
      · rfl
      · rw [remainderPass_programmes n, giveSlice_programmes]

/-- The division of the pool changes grants alone (R51 to R56). -/
theorem divide_programmes (pool : Nat) (pos : ProgrammeNo) (cs : List Candidate) :
    (divide pool pos cs).2.2.map (·.programme) = cs.map (·.programme) := by
  rw [divide, remainderPass_programmes, shareRounds_programmes]

theorem select_nodup (v : Event) (c : CarrierNo) (pool : Nat) : ((v.select c pool).2.map (·.programme)).Nodup := by
  unfold Event.select
  dsimp only
  exact (candidatesOf_nodup _ c).sublist (List.filter_sublist.map _)

/-! ### The list built (R57) -/

/-- The cells of the entry that a candidate's head unit makes are those of its head unit. -/
theorem entryOf_cells (s : State) (x : Candidate) :
    ((s.entryOf x).map (·.unit.cells)).getD [] = unitCells ((s.programme x.programme).queue.take 1) := by
  unfold State.entryOf
  cases (s.programme x.programme).queue with
  | nil => rfl
  | cons u us => exact (List.append_nil _).symm

theorem filterMap_cells (s : State) (x : Candidate) (xs : List Candidate) :
    ((x :: xs).filterMap s.entryOf).flatMap (·.unit.cells) =
      unitCells ((s.programme x.programme).queue.take 1) ++ (xs.filterMap s.entryOf).flatMap (·.unit.cells) := by
  rw [← entryOf_cells]
  cases h : s.entryOf x with
  | none => rw [List.filterMap_cons_none h]; rfl
  | some e => rw [List.filterMap_cons_some h]; rfl

theorem leaveQueues_setFree (fs : List CellNo) : ∀ (xs : List Candidate) (s : State),
    xs.foldl State.leaveQueue { s with freeCells := fs } = { xs.foldl State.leaveQueue s with freeCells := fs }
  | [], _ => rfl
  | x :: xs, s => leaveQueues_setFree fs xs (s.leaveQueue x)

/-- Units that leave their queues write programme records alone. -/
theorem leaveQueues_eq : ∀ (xs : List Candidate) (s : State),
    ∃ ps, xs.foldl State.leaveQueue s = { s with programmes := ps }
  | [], _ => ⟨_, rfl⟩
  | x :: xs, s =>
      let ⟨ps, h⟩ := leaveQueues_eq xs (s.leaveQueue x)
      ⟨ps, h⟩

/-- Units that leave their queues for the list, set beside units that are discarded: the free list alone differs. -/
theorem dropHeads_eq_leaveQueues : ∀ (xs : List Candidate), (xs.map (·.programme)).Nodup → ∀ s : State,
    xs.foldl (fun s x => s.dropHead x.programme) s =
      { xs.foldl State.leaveQueue s with
        freeCells := s.freeCells ++ (xs.filterMap s.entryOf).flatMap (·.unit.cells) }
  | [], _, s => by simp
  | x :: xs, hn, s => by
      obtain ⟨hx, hn⟩ := List.nodup_cons.1 hn
      have hdrop : s.dropHead x.programme =
          { s.leaveQueue x with
            freeCells := s.freeCells ++ unitCells ((s.programme x.programme).queue.take 1) } := rfl
      have hentries : xs.filterMap (s.dropHead x.programme).entryOf = xs.filterMap s.entryOf := by
        refine List.filterMap_congr fun y hy => ?_
        have hne : y.programme ≠ x.programme := fun e => hx (List.mem_map.2 ⟨y, hy, e⟩)
        have hsame : (s.dropHead x.programme).programme y.programme = s.programme y.programme :=
          State.setProgramme_ne _ _ _ _ hne
        unfold State.entryOf
        rw [hsame]
      rw [List.foldl_cons, dropHeads_eq_leaveQueues xs hn, hentries, filterMap_cells, ← List.append_assoc, hdrop,
        leaveQueues_setFree, List.foldl_cons]

/-- The cells a carrier's lists hold. -/
theorem Carrier.cells_eq (k : Carrier) :
    k.cells = (k.building.map (fun l => l.entries.flatMap (·.unit.cells))).getD []
      ++ (k.emitting.map (fun items => items.flatMap Item.cells)).getD [] := by
  unfold Carrier.cells
  cases k.building <;> cases k.emitting <;> rfl

/-- A list is built from the heads of the queues of different programmes, on a carrier in service that has none while the
cells are kept (R57). -/
theorem StoreKept.build {b s : State} (h : StoreKept b s) {c : CarrierNo} {xs : List Candidate} {list : EmissionList}
    (hn : (xs.map (·.programme)).Nodup) (hlist : list.entries = xs.filterMap s.entryOf)
    (hair : (s.carrier c).state = .onAir) (hnone : b.cellsKept → (s.carrier c).building = none)
    (fraction : Nat) (rotate : ProgrammeNo) (degraded : Bool) :
    StoreKept b ((xs.foldl State.leaveQueue s).setCarrier c
      { (xs.foldl State.leaveQueue s).carrier c with
        fraction := fraction, rotate := rotate, degraded := degraded, building := some list }) := by
  have hdrop := h.trans _ _ _ (.foldl (fun t (x : Candidate) => dropHead_storeKept t x.programme) xs s)
  rw [dropHeads_eq_leaveQueues xs hn] at hdrop
  obtain ⟨ps, hps⟩ := leaveQueues_eq xs s
  rw [hps] at hdrop ⊢
  refine hdrop.writeCarrier (fs := s.freeCells) (fun hb _ => ?_) (fun _ hs => ?_) fun _ hfits => hfits
  · change List.Perm (_ ++ _) ((s.carrier c).cells ++ _)
    rw [Carrier.cells_eq, Carrier.cells_eq, hnone hb]
    refine List.perm_iff_count.2 fun x => ?_
    simp only [Option.map_some, Option.getD_some, Option.map_none, Option.getD_none, List.count_append,
      List.count_nil, hlist]
    change _ + ((s.carrier c).emitting.map _ |>.getD []).count x + _ = _
    omega
  · change (s.carrier c).state = .off ∨ (s.carrier c).state = .armed at hs
    rw [hair] at hs
    rcases hs with hs | hs <;> cases hs

/-- An allocation event on a carrier ON_AIR that has no building list while the cells are kept (R37 to R59). -/
theorem allocate_storeKept {b s : State} (h : StoreKept b s) {c : CarrierNo} (hair : (s.carrier c).state = .onAir)
    (hnone : b.cellsKept → (s.carrier c).building = none) (t : Time) : StoreKept b (s.allocate c t) := by
  unfold State.allocate
  have hA := accessTake_storeKept s c t
  have hA' := accessTake_stageKept (c := c) s t
  generalize s.accessTake c t = A at hA hA' ⊢
  obtain ⟨access, s₁⟩ := A
  have hB := subscriberTake_storeKept s₁ c
  have hB' := (subscriberTake_shape s₁ c).stageKept (c := c)
  dsimp only at hA hA' ⊢
  generalize s₁.subscriberTake c = B at hB hB' ⊢
  obtain ⟨subs, s₂⟩ := B
  generalize (s.carrier c).budget - 1 - accessSlices access - subs.length = pool
  have hV := select_storeKept ⟨s₂, s.directoryRecord c, false⟩ c pool
  have hV' := select_stageKept (c := c) ⟨s₂, s.directoryRecord c, false⟩ pool
  have hn := select_nodup ⟨s₂, s.directoryRecord c, false⟩ c pool
  dsimp only at hB hB' hV hV' ⊢
  generalize Event.select ⟨s₂, s.directoryRecord c, false⟩ c pool = V at hV hV' hn ⊢
  obtain ⟨v, survivors⟩ := V
  have hD := divide_programmes pool (s.carrier c).rotate survivors
  dsimp only at hV hV' hn ⊢
  generalize divide _ _ survivors = D at hD ⊢
  obtain ⟨filler, rotate, granted⟩ := D
  dsimp only at hD ⊢
  have hcar := (StageKept.trans _ _ _ hA' (.trans _ _ _ hB' hV')).carrier
  refine .ite _ (fun u => u.setCarrierAlert c true) ?_ fun u => setCarrierAlert_storeKept u c true
  refine StoreKept.build ?_ (hD ▸ hn) rfl ?_ (fun hb => ?_) _ _ _
  · exact h.trans _ _ _ (.trans _ _ _ hA (.trans _ _ _ hB hV))
  · rw [hcar]; exact hair
  · rw [hcar]; exact hnone hb

end Sys2Proof.Machine

/-! SUPPORT. What the output side and the boundaries keep of the cell store and of the lists: shrink completions, slices, the
end and the begin of an interval, a carrier going on air and becoming OFF (R7, R9, R62 to R66, R73, R133 to R141). -/

namespace Sys2Proof.Machine

/-! ### Shrink completions (R64 to R66) -/

theorem shrinkNext_storeKept (s : State) (c : CarrierNo) : StoreKept s (s.shrinkNext c) := by
  unfold State.shrinkNext
  split
  · exact .refl s
  · next l hl =>
    split
    · exact .refl s
    · next e after hdrop =>
      have hmem : StoreKept s { s with memory := s.memory.shrink e } :=
        { StoreKept.refl s with memory := Memory.shrink_wf e }
      have hentries : l.entries = l.entries.takeWhile (fun e => !e.busy) ++ e :: after := by
        rw [← hdrop, List.takeWhile_append_dropWhile]
      generalize l.entries.takeWhile (fun e => !e.busy) = before at hentries
      have hcells : e.unit.cells = e.shrunk.unit.cells ++ e.surplus := (List.take_append_drop _ _).symm
      refine hmem.writeCarrier (fs := s.freeCells ++ e.surplus) (fun _ _ => ?_) (fun hs hk => ?_) fun _ hfits => hfits
      · change List.Perm (_ ++ _) ((s.carrier c).cells ++ s.freeCells)
        rw [Carrier.cells_eq, Carrier.cells_eq, hl]
        refine List.perm_iff_count.2 fun x => ?_
        simp only [Option.map_some, Option.getD_some, hentries, List.flatMap_append, List.flatMap_cons,
          List.count_append, hcells]
        change _ + ((s.carrier c).emitting.map _ |>.getD []).count x + _ = _
        omega
      · exact absurd (hs hk).1 (by change (s.carrier c).building ≠ none; rw [hl]; exact nofun)

theorem shrinkTimes_storeKept : ∀ (n : Nat) (s : State) (c : CarrierNo), StoreKept s (State.shrinkTimes n s c)
  | 0, s, _ => .refl s
  | n + 1, s, c => .trans _ _ _ (shrinkNext_storeKept s c) (shrinkTimes_storeKept n _ c)

/-! ### Slices (R133, R140, R141) -/

section
variable {b s : State} (h : StoreKept b s) {c : CarrierNo} {items rest : List Item}
  (hlist : (s.carrier c).emitting = some items)
  (hroom : (∀ d, (b.carrier d).outputFits) → (s.carrier c).buffer.length < 2)
include h hlist hroom

/-- A slice is placed into a buffer with room, and the list goes on without the cells that return. -/
theorem StoreKept.placeLast {cells : List CellNo} (hcells : items.flatMap Item.cells = cells ++ rest.flatMap Item.cells)
    (slice : Slice) (emitted : List EmittedCopy) :
    StoreKept b ((s.setCarrier c { s.carrier c with
      buffer := (s.carrier c).buffer ++ [slice], emitting := some rest, emitted := emitted }).freeUp cells) := by
  refine h.writeCarrier (fun _ _ => ?_) (fun hs hk => ?_) fun hb hfits => ⟨?_, hfits.2.1, nofun⟩
  · rw [Carrier.cells_eq, Carrier.cells_eq, hlist]
    refine List.perm_iff_count.2 fun x => ?_
    simp only [Option.map_some, Option.getD_some, hcells, List.count_append, State.setCarrier_freeCells]
    omega
  · rw [(hs hk).2] at hlist; cases hlist
  · rw [List.length_append]
    exact hroom hb

/-- A slice is placed into a buffer with room, and the list goes on with its cells. -/
theorem StoreKept.placeSlice (hcells : items.flatMap Item.cells = rest.flatMap Item.cells) (slice : Slice)
    (emitted : List EmittedCopy) :
    StoreKept b (s.setCarrier c { s.carrier c with
      buffer := (s.carrier c).buffer ++ [slice], emitting := some rest, emitted := emitted }) := by
  have hplaced := h.placeLast hlist hroom (cells := []) hcells slice emitted
  rwa [State.freeUp, List.append_nil] at hplaced

end

/-- The next slice of a list, into a buffer with room (R133). -/
theorem emitSlice_storeKept {b s : State} (h : StoreKept b s) {c : CarrierNo}
    (hroom : (∀ d, (b.carrier d).outputFits) → (s.carrier c).buffer.length < 2) : StoreKept b (s.emitSlice c) := by
  unfold State.emitSlice
  split
  · exact h
  · exact h
  · next hlist => exact h.placeSlice hlist hroom (by rfl) _ _
  · next hlist =>
    split
    · exact h.placeSlice hlist hroom (by rfl) _ _
    · exact h.placeSlice hlist hroom (by rfl) _ _
  · next hlist => exact h.placeSlice hlist hroom (by rfl) _ _
  · next e capture sent rest hlist =>
    have hcount := h.trans _ _ _ (StoreKept.setProgramme (p := e.unit.programme)
      (k := { s.programme e.unit.programme with continuity := (s.programme e.unit.programme).continuity + 1 }) rfl)
    unfold State.emitProgramme
    dsimp only
    split
    · exact hcount.placeSlice hlist hroom (by rfl) _ _
    · exact hcount.placeLast hlist hroom (by rfl) _ _
  · next n rest hlist =>
    refine .trans _ _ _ (h.placeSlice hlist hroom ?_ _ _) (modCounters_storeKept _ c _)
    split <;> rfl

theorem makeRoom_storeKept (s : State) (c : CarrierNo) : StoreKept s (s.makeRoom c) := by
  unfold State.makeRoom
  dsimp only
  split
  · exact .refl s
  · exact .setCarrier ⟨rfl, rfl, rfl, fun _ h => h, by simp, id⟩

/-- The line has made room in a buffer of at most two slices (R133). -/
theorem makeRoom_room {s : State} {c : CarrierNo} (h : (s.carrier c).buffer.length ≤ 2) :
    ((s.makeRoom c).carrier c).buffer.length < 2 := by
  unfold State.makeRoom
  dsimp only
  split
  · next hr => exact of_decide_eq_true hr
  · rw [State.setCarrier_self, List.length_drop]
    omega

theorem emitTimes_storeKept : ∀ (n : Nat) (s : State) (c : CarrierNo), StoreKept s (State.emitTimes n s c)
  | 0, s, _ => .refl s
  | n + 1, s, c => by
      unfold State.emitTimes
      split
      · refine .trans _ _ _ ?_ (emitTimes_storeKept n _ c)
        exact emitSlice_storeKept (makeRoom_storeKept s c) fun hfits => makeRoom_room (hfits c).1
      · exact .refl s

/-! ### The end and the begin of an interval (R73, R134, R140) -/

/-- An empty list ends. -/
theorem clearEmitting_storeKept {s : State} {c : CarrierNo}
    (h : (s.carrier c).emitting = none ∨ (s.carrier c).emitting = some []) : StoreKept s (s.clearEmitting c) := by
  refine (StoreKept.refl s).writeCarrier (fun _ _ => ?_) (fun hs hk => ⟨(hs hk).1, rfl⟩)
    fun _ hfits => ⟨hfits.1, hfits.2.1, fun _ => rfl⟩
  rw [Carrier.cells_eq, Carrier.cells_eq]
  rcases h with h | h
  · rw [h]
  · rw [h]
    exact .refl _

theorem endInterval_storeKept (s : State) (c : CarrierNo) : StoreKept s (s.endInterval c) := by
  cases h : (s.carrier c).emitting with
  | none =>
      rw [endInterval_none h]
      exact clearEmitting_storeKept (.inl h)
  | some items =>
      rw [endInterval_some h]
      exact .trans _ _ _ (emitTimes_storeKept _ s c)
        (clearEmitting_storeKept (.inr (emitTimes_emitted _ s c items h le_rfl).emitting))

theorem fillerItems_cells (n : Nat) : (fillerItems n).flatMap Item.cells = [] := by
  unfold fillerItems
  split <;> rfl

/-- The cells of a list's entries are those of the items it becomes and those of its withdrawn entries (R73). -/
theorem entryItems_cells (s : State) (x : CellNo) : ∀ entries : List ProgrammeEntry,
    ((entries.flatMap s.entryItems).flatMap Item.cells).count x
        + ((s.withdrawnOf entries).flatMap (·.unit.cells)).count x
      = (entries.flatMap (·.unit.cells)).count x
  | [] => rfl
  | e :: entries => by
      have ih := entryItems_cells s x entries
      have one : ((s.entryItems e).flatMap Item.cells).count x
          + ((s.withdrawnOf [e]).flatMap (·.unit.cells)).count x = e.unit.cells.count x := by
        unfold State.entryItems State.withdrawnOf
        cases hcap : s.captureOf e <;> simp [hcap, fillerItems_cells, Item.cells]
      have hw : s.withdrawnOf (e :: entries) = s.withdrawnOf [e] ++ s.withdrawnOf entries :=
        List.filter_append (l₁ := [e]) entries
      rw [hw, List.flatMap_cons, List.flatMap_append, List.flatMap_append, List.flatMap_cons]
      simp only [List.count_append]
      omega

/-- The cells of an emitting list are its entries' (R134). -/
theorem itemsOf_cells (s : State) (c : CarrierNo) (l : EmissionList) (final : Bool) :
    (s.itemsOf c l final).flatMap Item.cells = (l.entries.flatMap s.entryItems).flatMap Item.cells := by
  have none : ∀ {α : Type} (f : α → Item) (xs : List α), (∀ x, (f x).cells = []) →
      (xs.map f).flatMap Item.cells = [] := fun f xs h => by rw [List.flatMap_map]; exact List.flatMap_eq_nil_iff.2 fun x _ => h x
  unfold State.itemsOf
  rw [List.flatMap_cons, List.flatMap_append, List.flatMap_append, List.flatMap_append, fillerItems_cells,
    none _ _ fun _ => rfl, none _ _ fun _ => rfl, List.append_nil]
  rfl

/-- A building list becomes the emitting list of a carrier that has none. -/
theorem beginInterval_storeKept {s : State} {c : CarrierNo} (h : (s.carrier c).emitting = none) (final : Bool) :
    StoreKept s (s.beginInterval c final) := by
  cases hl : (s.carrier c).building with
  | none => rw [beginInterval_none hl]; exact .refl s
  | some l =>
      rw [beginInterval_some hl]
      refine (StoreKept.refl s).writeCarrier (fun _ _ => ?_) (fun hs hk => ?_) fun _ hfits => ⟨hfits.1, hfits.2.1, nofun⟩
      · rw [Carrier.cells_eq, Carrier.cells_eq, hl, h]
        refine List.perm_iff_count.2 fun x => ?_
        have hx := entryItems_cells s x l.entries
        simp only [Option.map_some, Option.getD_some, Option.map_none, Option.getD_none, List.count_append,
          List.count_nil, itemsOf_cells, State.setCarrier_freeCells]
        omega
      · rw [(hs hk).1] at hl; cases hl

theorem nextInterval_storeKept (s : State) (c : CarrierNo) (final : Bool) : StoreKept s (s.nextInterval c final) := by
  rw [nextInterval_eq]
  refine .trans _ _ _ ?_ (beginInterval_storeKept ?_ final)
  · refine .trans _ (s.ended c) _ ?_ (.setCarrier ⟨rfl, rfl, rfl, fun _ h => h, le_rfl, id⟩)
    exact .trans _ _ _ (shrinkTimes_storeKept _ s c) (endInterval_storeKept _ c)
  · rw [begun_carrier]
    exact endInterval_emitting _ c

/-! ### Boundaries (R7, R9) -/

theorem advance_storeKept (s : State) (c : CarrierNo) (b : Time) : StoreKept s (s.advance c b) :=
  .setCarrier ⟨rfl, rfl, rfl, fun _ h => h, le_rfl, id⟩

theorem trimQueues_storeKept (s : State) (c : CarrierNo) : StoreKept s (s.trimQueues c) :=
  Quiet.storeKept
    { memory := rfl
      links := rfl
      freeCells := rfl
      attachOrder := rfl
      programme := fun _ => rfl
      carrier := fun _ => .refl _
      port := fun q => by
        rw [trimQueues_port]
        refine ⟨fun h => ⟨?_, fun e he => ?_⟩, Iff.rfl, rfl, id⟩
        · exact (List.length_filter_le _ _).trans (by rw [List.length_map]; exact h.1)
        · exact bne_iff_ne.1 (List.mem_filter.1 he).2
      manager := id }

theorem clearAired_storeKept (s : State) (c : CarrierNo) : StoreKept s (s.clearAired c) :=
  .of_eq rfl rfl rfl rfl rfl rfl rfl rfl

/-- A carrier in service that holds no list becomes OFF. -/
theorem carrierOff_storeKept {s : State} {c : CarrierNo}
    (h : (s.carrier c).inService → (s.carrier c).building = none ∧ (s.carrier c).emitting = none) :
    StoreKept s (s.carrierOff c) := by
  unfold State.carrierOff
  rw [servedBy_eq]
  have hstop := StoreKept.foldl stopProgramme_storeKept (s.servedBy c) s
  obtain ⟨ps, hps, -⟩ := stopProgrammes_eq (s.servedBy c) (servedBy_nodup s c) s
  have hcar : ((s.servedBy c).foldl State.stopProgramme s).carrier c = s.carrier c := by rw [hps]; rfl
  generalize (s.servedBy c).foldl State.stopProgramme s = u at hstop hcar ⊢
  refine .trans _ _ _ ?_ (recomputeAll_shape _).storeKept
  refine .trans _ _ _ (.trans _ _ _ ?_ (trimQueues_storeKept _ c)) (clearAired_storeKept _ c)
  refine hstop.trans _ _ _ (.setCarrier ⟨rfl, rfl, rfl, fun _ hs _ => ?_, le_rfl, fun _ => List.nodup_nil⟩)
  rw [hcar] at hs
  rw [hcar]
  exact h hs

theorem GroupsOnly.carrier {s t : State} (c : CarrierNo) : GroupsOnly s t → t.carrier c = s.carrier c := by
  rintro ⟨_, rfl⟩; rfl

/-- A carrier gone on air with its first interval's list (R7). -/
def Carrier.goneOnAir (k : Carrier) (items : List Item) : Carrier :=
  { k with state := .onAir, interval := 1, emitting := some items }

/-- The first interval's list holds no cell (R7, R139). -/
theorem firstInterval_spec (s : State) (c : CarrierNo) :
    ∃ items : List Item, items.flatMap Item.cells = [] ∧
      (s.setCarrier c { s.carrier c with state := .onAir, interval := 1 }).firstInterval c =
        s.setCarrier c ((s.carrier c).goneOnAir items) := by
  unfold State.firstInterval
  dsimp only
  rw [State.setCarrier_self, State.setCarrier_twice]
  refine ⟨_, ?_, rfl⟩
  exact fillerItems_cells _

/-- An ARMED carrier, which holds no list, goes on air with a list that holds no cell. -/
theorem goneOnAir_storeKept {s : State} {c : CarrierNo} (h : (s.carrier c).state = .armed) {items : List Item}
    (hitems : items.flatMap Item.cells = []) : StoreKept s (s.setCarrier c ((s.carrier c).goneOnAir items)) := by
  refine (StoreKept.refl s).writeCarrier (fun _ hk => ?_) (fun _ hs => ?_) fun _ hfits => ⟨hfits.1, hfits.2.1, nofun⟩
  · obtain ⟨hb, he⟩ := hk (.inr h)
    rw [Carrier.cells_eq, Carrier.cells_eq, hb, he]
    simp [Carrier.goneOnAir, hb, hitems]
  · rcases hs with hs | hs <;> cases hs

/-- The first boundary of an ARMED carrier (R7, R62). -/
theorem firstBoundary_storeKept {s : State} {c : CarrierNo} (h : (s.carrier c).state = .armed) (b : Time) :
    StoreKept s (s.firstBoundary c b) := by
  unfold State.firstBoundary
  obtain ⟨items, hitems, hfirst⟩ := firstInterval_spec s c
  have hkept := goneOnAir_storeKept h hitems
  have hcar := State.setCarrier_self s c ((s.carrier c).goneOnAir items)
  dsimp only
  rw [hfirst]
  generalize s.setCarrier c ((s.carrier c).goneOnAir items) = u at hkept hcar ⊢
  have hgain := hkept.trans _ _ _ (gainGroups_storeKept u c b)
  have hcar' := (gainGroups_stageKept (c := c) u b).carrier
  generalize u.gainGroups c b = w at hgain hcar' ⊢
  rw [hcar] at hcar'
  refine .trans _ _ _ ?_ (advance_storeKept _ c b)
  refine allocate_storeKept (hgain.trans _ _ _ (recomputeAll_shape w).storeKept) ?_ (fun hs => ?_) b
  · rw [(recomputeAll_shape w).carrier c, hcar']; rfl
  · rw [(recomputeAll_shape w).carrier c, hcar']
    exact (hs.2 c (.inr h)).1

theorem pushSlice_building (s : State) (c : CarrierNo) (slice : Slice) (rest : List Item) :
    ((s.pushSlice c slice rest).carrier c).building = (s.carrier c).building := by
  rw [State.pushSlice, State.setCarrier_self]

theorem pushLast_building (s : State) (c : CarrierNo) (slice : Slice) (rest : List Item) (copy : EmittedCopy) :
    ((s.pushLast c slice rest copy).carrier c).building = (s.carrier c).building := by
  rw [State.pushLast, State.setCarrier_self]

theorem emitSlice_building (s : State) (c : CarrierNo) :
    ((s.emitSlice c).carrier c).building = (s.carrier c).building := by
  unfold State.emitSlice
  split
  · rfl
  · rfl
  · exact pushSlice_building s c _ _
  · split
    · exact pushSlice_building s c _ _
    · exact pushLast_building s c _ _ _
  · exact pushLast_building s c _ _ _
  · unfold State.emitProgramme
    dsimp only
    split
    · exact pushSlice_building _ c _ _
    · exact pushSlice_building _ c _ _
  · rw [State.modCounters, State.setCarrier_self]
    exact pushSlice_building s c _ _

/-- No slice is emitted from the building list (R134). -/
theorem emitTimes_building : ∀ (n : Nat) (s : State) (c : CarrierNo),
    ((State.emitTimes n s c).carrier c).building = (s.carrier c).building
  | 0, _, _ => rfl
  | n + 1, s, c => by
      have hroom : ((s.makeRoom c).carrier c).building = (s.carrier c).building := by
        unfold State.makeRoom
        dsimp only
        split
        · rfl
        · rw [State.setCarrier_self]
      unfold State.emitTimes
      split
      · rw [emitTimes_building n, emitSlice_building, hroom]
      · rfl

theorem endInterval_building (s : State) (c : CarrierNo) :
    ((s.endInterval c).carrier c).building = (s.carrier c).building := by
  unfold State.endInterval
  dsimp only
  rw [State.setCarrier_self]
  exact emitTimes_building _ s c

/-- A boundary, by the carrier's state (R7). -/
theorem boundary_storeKept (s : State) (c : CarrierNo) : StoreKept s (s.boundary c) := by
  unfold State.boundary
  split
  · next b _ =>
    split
    · unfold State.takeBoundary
      split
      · exact .refl s
      · next h => exact firstBoundary_storeKept h b
      · next h =>
        obtain ⟨_, _, _, _, _, hcar, hnone, -⟩ := nextInterval_kept s c false
        refine .trans _ _ _ ?_ (advance_storeKept _ c b)
        refine allocate_storeKept (nextInterval_storeKept s c false) ?_ (fun _ => ?_) b
        · rw [hcar]; exact h
        · rw [hcar]; exact hnone
      · next h =>
        unfold State.drainBoundary
        split
        · exact .trans _ _ _ (nextInterval_storeKept s c true) (advance_storeKept _ c b)
        · next hb =>
          refine .trans _ _ _ (endInterval_storeKept s c) (carrierOff_storeKept fun _ => ⟨?_, endInterval_emitting s c⟩)
          rw [endInterval_building]
          simpa using hb
    · exact .refl s
  · exact .refl s

theorem shrinkCompletion_storeKept (s : State) (c : CarrierNo) : StoreKept s (s.shrinkCompletion c) := by
  unfold State.shrinkCompletion
  split
  · exact shrinkNext_storeKept s c
  · exact .refl s

theorem sliceEmission_storeKept (s : State) (c : CarrierNo) : StoreKept s (s.sliceEmission c) := by
  unfold State.sliceEmission
  split
  · next h => exact emitSlice_storeKept (.refl s) fun _ => of_decide_eq_true h
  · exact .refl s

end Sys2Proof.Machine

/-! SUPPORT. Picture unit ingest in the words of the statements: leaving LOCKED, headers, cell claims, completions (R19 to R31). -/

namespace Sys2Proof.Machine

/-! ### Leaving LOCKED (R20) -/

theorem Programme.toResync_live {k : Programme} (h : k.state = .live) : k.toResync = { k with state := .resync } := by
  simp [Programme.toResync, Programme.serving, h]

theorem Programme.toResync_queue (k : Programme) : k.toResync.queue = k.queue := by
  unfold Programme.toResync
  split <;> rfl

theorem Programme.toResync_not_live {k : Programme} (h : k.state ≠ .live) : k.toResync = k := by
  unfold Programme.toResync Programme.serving
  cases hs : k.state
  case live => exact absurd hs h
  case resync => simp [← hs]
  all_goals rfl

/-- A programme that becomes RESYNC: LIVE ones alone change. -/
theorem resync_eq (s : State) (p : ProgrammeNo) :
    s.resync p =
      { s with
        programmes :=
          if (s.programme p).state = .live then s.programmes.set p.val { s.programme p with state := .resync }
          else s.programmes } := by
  unfold State.resync
  split
  · next h => rw [Programme.toResync_live h]; rfl
  · next h => rw [Programme.toResync_not_live h, State.setProgramme_same]

theorem leaveLocked_eq (s : State) (l : LinkNo) (next : LinkState) :
    s.leaveLocked l next = s.leftLocked l (s.link l).signal next := by
  unfold State.leaveLocked State.endContext State.leftLocked
  cases h : (s.link l).context with
  | receiving u => simp only [resync_eq]; rfl
  | empty => simp only [Reassembly.cells, List.append_nil]; rfl
  | skipping n => simp only [Reassembly.cells, List.append_nil]; rfl

/-- Leaving LOCKED reads no more of the link's record than its context. -/
theorem leftLocked_setLink {s : State} {l : LinkNo} {k : IngestLink} (h : k.context = (s.link l).context)
    (signal : Bool) (next : LinkState) : (s.setLink l k).leftLocked l signal next = s.leftLocked l signal next := by
  unfold State.leftLocked
  rw [State.setLink_self, h]
  simp only [State.setLink, Vector.set_set]
  rfl

/-! ### Headers (R22 to R24) -/

theorem admitted_iff (s : State) (p : ProgrammeNo) : s.admitted p = true ↔ s.isAdmitted p := by
  unfold State.admitted State.isAdmitted State.carrierOf
  rw [Bool.and_eq_true, Programme.serving_iff]
  cases (s.programme p).definition <;> simp

theorem toSlot_code {b : Byte} {slot : Fin 8} (h : b.toNat = slotCodes[slot.val]) : toSlot b = some slot := by
  unfold toSlot
  rw [h]
  fin_cases slot <;> rfl

theorem toSlot_none {b : Byte} (h : b.toNat ∉ slotCodes.toList) : toSlot b = none := by
  unfold toSlot
  split
  case h_9 => rfl
  all_goals next hb => exact absurd (by rw [hb]; decide) h

theorem toKind_code {b : Byte} {kind : UnitKind} (h : b.toNat = kind.code) : toKind b = some kind := by
  unfold toKind
  rw [h]
  cases kind <;> rfl

theorem toKind_none {b : Byte} (h : b.toNat = 0 ∨ 3 < b.toNat) : toKind b = none := by
  unfold toKind
  split
  case h_4 => rfl
  all_goals omega

theorem takeHeader_faulty {h : UnitHeader} (hf : faultyHeader h) (s : State) (l : LinkNo) :
    s.takeHeader l h = (s.headerCounted l).setLink l { s.link l with context := .skipping h.size.toNat } := by
  unfold State.takeHeader
  split
  · next slot kind hslot hkind =>
    refine if_neg fun hsize => ?_
    rcases hf with hf | hf | hf | hf | hf
    · rw [toSlot_none hf] at hslot; cases hslot
    · rw [toKind_none (.inl hf)] at hkind; cases hkind
    · rw [toKind_none (.inr hf)] at hkind; cases hkind
    · exact absurd hsize.1 (by rw [hf]; decide)
    · exact absurd hsize.2 (Nat.not_le.2 hf)
  · rfl

theorem takeHeader_good {h : UnitHeader} {slot : Fin 8} {kind : UnitKind} {p : ProgrammeNo} {l : LinkNo}
    (hslot : h.slotCode.toNat = slotCodes[slot.val]) (hkind : h.kind.toNat = kind.code) (hpos : 1 ≤ h.size.toNat)
    (hmax : h.size.toNat ≤ 1048576) (hp : p.val = l.val * 8 + slot.val) (s : State) :
    s.takeHeader l h =
      s.setLink l { s.link l with
        context := if s.admitted p then .receiving (beginUnit p kind h) else .skipping h.size.toNat } := by
  have hprog : programmeOf l slot = p := Fin.ext hp.symm
  unfold State.takeHeader
  rw [toSlot_code hslot, toKind_code hkind]
  dsimp only
  rw [hprog]
  exact if_pos ⟨hpos, hmax⟩

theorem headerTaken_of_not {s : State} {l : LinkNo} (hk : ¬ ((s.link l).state = .locked ∧ (s.link l).context = .empty))
    (h : UnitHeader) : s.headerTaken l h = s := if_neg hk

theorem headerTaken_at {s : State} {l : LinkNo} (hk : (s.link l).state = .locked ∧ (s.link l).context = .empty)
    (h : UnitHeader) : s.headerTaken l h = s.takeHeader l h := if_pos hk

theorem syncMarkFound_not_searching {s : State} {l : LinkNo} (hk : (s.link l).state ≠ .searching) (h : UnitHeader) :
    s.syncMarkFound l h = s.headerTaken l h := by
  unfold State.syncMarkFound
  split
  · next hd => exact (headerTaken_of_not (by simp [hd]) h).symm
  · next hs => exact absurd hs hk
  · rfl

/-- The state in which a SEARCHING link that has found a sync mark takes its header. -/
def State.locked (s : State) (l : LinkNo) : State := s.setLink l { s.link l with state := .locked, context := .empty }

theorem syncMarkFound_searching {s : State} {l : LinkNo} (hk : (s.link l).state = .searching) (h : UnitHeader) :
    s.syncMarkFound l h = (s.locked l).takeHeader l h := by
  unfold State.syncMarkFound
  rw [hk]
  rfl

/-! ### Cell claims (R25, R26) -/

/-- A write leaves every other address alone, in whatever order the entries stand. -/
theorem Memory.read_write_ne {x y : Nat} (hxy : y ≠ x) (v : Byte) : ∀ m : Memory, (m.write x v).read y = m.read y
  | [] => by
      unfold Memory.write
      split
      · rfl
      · simp [Memory.read, Ne.symm hxy]
  | (a, b) :: m => by
      unfold Memory.write
      split
      · split
        · rfl
        · simp [Memory.read, Ne.symm hxy]
      · split
        · next ha =>
          have hay : a ≠ y := fun e => hxy (by rw [← e, ha])
          split <;> simp [Memory.read, hay, Ne.symm hxy]
        · rw [Memory.read, Memory.read, Memory.read_write_ne hxy v m]

theorem Memory.read_writeBytes_outside : ∀ (bs : List Byte) (m : Memory) (a y : Nat), y < a ∨ a + bs.length ≤ y →
    (m.writeBytes a bs).read y = m.read y
  | [], _, _, _, _ => rfl
  | b :: bs, m, a, y, h => by
      rw [List.length_cons] at h
      rw [Memory.writeBytes, Memory.read_writeBytes_outside bs _ (a + 1) y (by omega),
        Memory.read_write_ne (by omega)]

theorem exhaust_eq {s : State} (hfree : s.freeCells = []) (l : LinkNo) (u : PartialUnit) :
    s.exhaust l u =
      { s.setLink l { s.link l with context := .skipping (u.size - u.received) } with
        freeCells := u.cells
        programmes :=
          if (s.programme u.programme).state = .live then
            s.programmes.set u.programme.val { s.programme u.programme with state := .resync }
          else s.programmes
        manager :=
          { s.manager with
            state := .exception
            condition :=
              { s.manager.condition with
                storeExhausted := true
                storeExhaustions := min (s.manager.condition.storeExhaustions + 1) 65535 } } } := by
  unfold State.exhaust
  simp only [resync_eq, State.freeUp, hfree, List.nil_append]
  rfl

/-! ### Completion (R28 to R31) -/

/-- Where a mark ends no unit: a link that is not LOCKED, an empty context, a unit in reassembly short of its size. -/
theorem IngestLink.not_atEnd {k : IngestLink}
    (h : k.state ≠ .locked ∨ k.context = .empty ∨ ∃ u, k.context = .receiving u ∧ u.received ≠ u.size) :
    ¬ (k.state = .locked ∧ k.context.atEnd = true) := by
  rintro ⟨hst, hend⟩
  rcases h with h | h | ⟨u, h, hu⟩
  · exact h hst
  · rw [h] at hend
    cases hend
  · rw [h] at hend
    exact hu (beq_iff_eq.1 hend)

/-- The sequence check of a LIVE or RESYNC programme (R29). -/
theorem checkSequence_eq {k : Programme} (h : k.state = .live ∨ k.state = .resync) (q : BitVec 16) :
    k.checkSequence q =
      { k with
        expected := some (q + 1)
        state := if k.expected ≠ none ∧ k.expected ≠ some q then .resync else k.state } := by
  have hserve : k.toResync = { k with state := .resync } := if_pos ((Programme.serving_iff k).2 h)
  unfold Programme.checkSequence
  cases he : k.expected with
  | none => rfl
  | some e =>
      by_cases heq : e = q
      · simp [heq]
      · simp [heq, hserve]

/-- The first bridge of a queue, and the queue without it. -/
theorem find_bridge {before after : List UnitRecord} {b : UnitRecord} (hb : b.kind = .bridge)
    (hbefore : ∀ x ∈ before, x.kind ≠ .bridge) :
    (before ++ b :: after).find? (fun x => x.kind == .bridge) = some b
      ∧ (before ++ b :: after).eraseP (fun x => x.kind == .bridge) = before ++ after := by
  have hnone : ∀ x ∈ before, ¬ (x.kind == .bridge) = true := fun x hx => by simpa using hbefore x hx
  refine ⟨?_, ?_⟩
  · rw [List.find?_append, List.find?_eq_none.2 hnone, Option.none_or, List.find?_cons_of_pos (by simp [hb])]
  · rw [List.eraseP_append_right _ hnone, List.eraseP_cons_of_pos (by simp [hb])]

section
variable {s : State} {u : UnitRecord}

theorem placeUnit_room (h : (s.programme u.programme).queue.length < 8) :
    s.placeUnit u =
      s.setProgramme u.programme
        { s.programme u.programme with queue := (s.programme u.programme).queue ++ [u] } := if_pos h

theorem placeUnit_bridge (h : 8 ≤ (s.programme u.programme).queue.length) {before after : List UnitRecord}
    {b : UnitRecord} (hq : (s.programme u.programme).queue = before ++ b :: after) (hb : b.kind = .bridge)
    (hbefore : ∀ x ∈ before, x.kind ≠ .bridge) :
    s.placeUnit u =
      (s.setProgramme u.programme { s.programme u.programme with queue := before ++ after ++ [u] }).freeUp b.cells := by
  obtain ⟨hfind, herase⟩ := find_bridge hb hbefore (after := after)
  unfold State.placeUnit
  dsimp only
  rw [if_neg (show ¬ _ < Config.queueLimit from Nat.not_lt.2 h), hq, hfind, herase]

theorem placeUnit_full (h : 8 ≤ (s.programme u.programme).queue.length)
    (hnone : ∀ x ∈ (s.programme u.programme).queue, x.kind ≠ .bridge) :
    s.placeUnit u = (s.freeUp u.cells).resync u.programme := by
  have hfind : (s.programme u.programme).queue.find? (fun x => x.kind == .bridge) = none :=
    List.find?_eq_none.2 fun x hx => by simpa using hnone x hx
  unfold State.placeUnit
  dsimp only
  rw [if_neg (show ¬ _ < Config.queueLimit from Nat.not_lt.2 h), hfind]

end

end Sys2Proof.Machine

namespace Sys2Proof.Settled

open Sys2Proof.Machine

/-- Settles O39: each way out of LOCKED is `leaveLocked_eq`. -/
theorem linkStates : Obligations.LinkStates := by
  intro l s k
  refine ⟨?_, ?_, ?_, fun n hk hc => ?_, fun u hk hc hu => ?_, fun hk => ?_⟩
  · change Host.Outcome.next (s.signalDetected l) = _
    simp [State.signalDetected, State.linksHeld, k]
  · change Host.Outcome.next (s.lossOfSignal l) = _
    unfold State.lossOfSignal
    dsimp only
    rw [State.setLink_self]
    cases hst : (s.link l).state
    case locked =>
      simp only [leaveLocked_eq, State.setLink_self, if_true]
      exact congrArg _ (leftLocked_setLink (by rfl) _ _)
    all_goals simp [k]
  · change Host.Outcome.next (s.missingSync l) = _
    unfold State.missingSync
    rw [leaveLocked_eq]
  · change Host.Outcome.next (s.runaway l) = _
    rw [State.runaway, if_pos ⟨hk, by rw [hc]; rfl⟩, leaveLocked_eq]
  · change Host.Outcome.next (s.runaway l) = _
    rw [State.runaway, if_pos ⟨hk, by rw [hc]; exact beq_iff_eq.2 hu⟩, leaveLocked_eq]
  · change Host.Outcome.next (s.runaway l) = _
    rw [State.runaway, if_neg (IngestLink.not_atEnd hk)]

/-- Settles O40: a header taken by `takeHeader_faulty` and `takeHeader_good`, at a header position and after a sync mark. -/
theorem headersTaken : Obligations.HeadersTaken := by
  intro l h s k after atHeader
  have hlocked : ∀ c, k.state = .locked → ({ s.link l with context := c } : IngestLink) = ⟨k.signal, .locked, c⟩ :=
    fun c hk => by rw [← hk]
  have hat : atHeader → exec (.headerTaken l h) s = .next (s.takeHeader l h) := fun hk =>
    congrArg _ (headerTaken_at hk h)
  have hsync : k.state = .searching → exec (.syncMarkFound l h) s = .next ((s.locked l).takeHeader l h) := fun hk =>
    congrArg _ (syncMarkFound_searching hk h)
  have hself : (s.locked l).link l = ⟨k.signal, .locked, .empty⟩ := State.setLink_self _ _ _
  have htwice : ∀ k' : IngestLink, (s.locked l).setLink l k' = s.setLink l k' := State.setLink_twice _ _ _
  refine ⟨fun hk => congrArg _ (headerTaken_of_not hk h), fun hk => congrArg _ (syncMarkFound_not_searching hk h),
    fun hf => ⟨fun hk => ?_, fun hk => ?_⟩, ?_⟩
  · rw [hat hk, takeHeader_faulty hf, hlocked _ hk.1]
  · rw [hsync hk, takeHeader_faulty hf, hself]
    exact congrArg Host.Outcome.next (State.setLink_twice (s.headerCounted l) l _ _)
  · intro slot kind p hslot hkind hpos hmax hp unit
    have htake := takeHeader_good hslot hkind hpos hmax hp
    refine ⟨fun ha => ?_, fun ha => ?_⟩
    · rw [← admitted_iff] at ha
      have ha' : (s.locked l).admitted p = true := ha
      refine ⟨fun hk => ?_, fun hk => ?_⟩
      · rw [hat hk, htake, hlocked _ hk.1, ha]; rfl
      · rw [hsync hk, htake, hself, htwice, ha']; rfl
    · rw [← admitted_iff, Bool.not_eq_true] at ha
      have ha' : (s.locked l).admitted p = false := ha
      refine ⟨fun hk => ?_, fun hk => ?_⟩
      · rw [hat hk, htake, hlocked _ hk.1, ha]; rfl
      · rw [hsync hk, htake, hself, htwice, ha']; rfl

/-- Settles O41: the bytes of the stretch by `Memory.read_writeBytes`, the exhaustion by `exhaust_eq`. -/
theorem cellClaim : Obligations.CellClaim := by
  intro l stretch s k
  refine ⟨fun hnot => ?_, fun u hst hc hlt hmod hne => ?_⟩
  · change Host.Outcome.next (s.cellClaim l stretch) = _
    unfold State.cellClaim
    split
    · next u hu =>
      rw [if_neg]
      rintro ⟨hst, hlt, hmod, hne⟩
      rcases hnot u hu with h | h | h | h
      · exact h hst
      · exact Nat.not_le.2 hlt h
      · exact h hmod
      · exact hne h
    · rfl
  · have hexec : exec (.cellClaim l stretch) s = .next (match s.freeCells with
        | [] => s.exhaust l u
        | c :: rest => s.claim l u c rest stretch) := by
      change Host.Outcome.next (s.cellClaim l stretch) = _
      unfold State.cellClaim
      rw [show (s.link l).context = .receiving u from hc]
      exact congrArg _ (if_pos ⟨hst, hlt, hmod, hne⟩)
    refine ⟨fun c rest hfree => ?_, fun hfree => ?_⟩
    · rw [hexec, hfree]
      refine ⟨_, rfl, rfl, fun hwf i hi => ?_, fun a ha => ?_⟩
      · refine (Memory.read_writeBytes _ (cellBase c) _ hwf).trans ?_
        have hle : cellBase c ≤ c.val * 2048 + i := Nat.le_add_right _ _
        have hsub : c.val * 2048 + i - cellBase c = i := Nat.add_sub_cancel_left _ _
        rw [if_pos hle, hsub]
        exact congrArg (fun x : Option Byte => x.getD _) (List.getElem?_eq_getElem hi)
      · exact Memory.read_writeBytes_outside _ _ _ _ ha
    · rw [hexec, hfree]
      exact congrArg _ (exhaust_eq hfree l u)

/-- Settles O42: the sequence check by `checkSequence_eq`, the queue by the three lemmas on `placeUnit`. -/
theorem unitCompletion : Obligations.UnitCompletion := by
  intro l s k done
  refine ⟨fun hk => ?_, fun n hst hc => ?_, fun u hst hc hu => ?_⟩
  · change Host.Outcome.next (s.unitCompletion l) = _
    rw [State.unitCompletion, if_neg (IngestLink.not_atEnd hk)]
  · change Host.Outcome.next (s.unitCompletion l) = _
    unfold State.unitCompletion
    dsimp only
    rw [show (s.link l).context = .skipping n from hc]
    exact congrArg _ (if_pos ⟨hst, rfl⟩)
  · have hexec : exec (.unitCompletion l) s = .next (done.completeUnit u) := by
      change Host.Outcome.next (s.unitCompletion l) = _
      unfold State.unitCompletion
      dsimp only
      rw [show (s.link l).context = .receiving u from hc]
      exact congrArg _ (if_pos ⟨hst, beq_iff_eq.2 hu⟩)
    refine ⟨fun ha => ?_, fun ha => ?_⟩
    · rw [← admitted_iff] at ha
      exact hexec.trans (congrArg _ (if_neg ha))
    · intro p unit checked
      have hchecked : done.completeUnit u = (done.setProgramme u.programme checked).placeUnit unit := by
        unfold State.completeUnit
        rw [if_pos (show done.admitted u.programme = true from (admitted_iff s u.programme).2 ha)]
        exact congrArg (fun k => (done.setProgramme u.programme k).placeUnit unit) (checkSequence_eq ha.1 u.sequence)
      have hself : (done.setProgramme u.programme checked).programme unit.programme = checked :=
        State.setProgramme_self _ _ _
      rw [hexec, hchecked]
      refine ⟨fun hq => ?_, fun before b after hq hsplit hb hbefore => ?_, fun hq hnone => ?_⟩
      · rw [placeUnit_room (by rw [hself]; exact hq), hself]
        exact congrArg _ (State.setProgramme_twice _ _ _ _)
      · rw [placeUnit_bridge (by rw [hself]; exact hq) (by rw [hself]; exact hsplit) hb hbefore, hself]
        exact congrArg (fun t => Host.Outcome.next (t.freeUp b.cells)) (State.setProgramme_twice _ _ _ _)
      · rw [placeUnit_full (by rw [hself]; exact hq) (by rw [hself]; exact hnone), State.resync,
          State.freeUp_programme, hself]
        have hserve : checked.serving = true := by
          refine (Programme.serving_iff checked).2 ?_
          dsimp only [checked]
          split
          · exact .inr rfl
          · exact ha.1
        rw [show checked.toResync = { checked with state := .resync } from if_pos hserve]
        exact congrArg (fun t => Host.Outcome.next (t.freeUp u.cells)) (State.setProgramme_twice _ _ _ _)

end Sys2Proof.Settled

/-! SUPPORT. What ingest, the resets, the lines and the clock keep of the cell store and of the lists (R19 to R31, R133, R145,
R146, R154, R155). -/

namespace Sys2Proof.Machine

/-! ### Ingest: contexts and links (R19 to R24) -/

theorem setMemory_storeKept {s : State} {m : Memory} (h : s.memory.wf = true → m.wf = true) :
    StoreKept s { s with memory := m } := { StoreKept.refl s with memory := h }

theorem resync_storeKept (s : State) (p : ProgrammeNo) : StoreKept s (s.resync p) :=
  .setProgramme (Programme.toResync_queue _)

theorem countHeaderError_storeKept (s : State) (l : LinkNo) : StoreKept s (s.countHeaderError l) :=
  .of_eq rfl rfl rfl rfl rfl rfl rfl rfl

/-- A link's record is written over but for its context. -/
theorem StoreKept.setLink {s : State} {l : LinkNo} {k : IngestLink} (hc : k.context = (s.link l).context)
    (hl : k.state ≠ .locked → (s.link l).state ≠ .locked) : StoreKept s (s.setLink l k) :=
  (StoreKept.refl s).writeLink (fun _ => by rw [hc]) fun hs => ⟨fun hk => hc ▸ hs.1 (hl hk), hc ▸ hs.2⟩

/-- A LOCKED link without a context begins one that holds no cell. -/
theorem beginContext_storeKept {s : State} {l : LinkNo} (hst : (s.link l).state = .locked)
    (hempty : (s.link l).context = .empty) {context : Reassembly} (hcells : context.cells = [])
    (hsize : ∀ u, context = .receiving u → 1 ≤ u.size ∧ u.size ≤ 1048576) :
    StoreKept s (s.setLink l { s.link l with context := context }) :=
  (StoreKept.refl s).writeLink (fun _ => by rw [hcells, hempty]; exact .refl _)
    fun _ => ⟨fun hk => absurd hst hk, hsize⟩

/-- A context that receives no unit holds no cell. -/
theorem Reassembly.cells_of_not_receiving {r : Reassembly} (h : ∀ u, r ≠ .receiving u) : r.cells = [] := by
  cases r with
  | receiving u => exact absurd rfl (h u)
  | empty => rfl
  | skipping n => rfl

/-- A context that holds `cells` is left without a cell, and they come to the tail of the free list. -/
theorem endContext_storeKept {s : State} {l : LinkNo} {cells : List CellNo} (hcells : (s.link l).context.cells = cells)
    {k : IngestLink} (hk : k.context = .empty) :
    StoreKept s { s.setLink l k with freeCells := s.freeCells ++ cells } :=
  (StoreKept.refl s).writeLink
    (fun _ => by
      rw [hk, hcells]
      exact List.perm_append_comm (l₁ := s.freeCells))
    fun _ => ⟨fun _ => hk, fun u hu => by rw [hk] at hu; cases hu⟩

/-- A context that receives no unit is left empty. -/
theorem clearContext_storeKept {s : State} {l : LinkNo} (h : ∀ u, (s.link l).context ≠ .receiving u)
    {k : IngestLink} (hk : k.context = .empty) : StoreKept s (s.setLink l k) := by
  have hends := endContext_storeKept (Reassembly.cells_of_not_receiving h) hk
  rw [List.append_nil] at hends
  exact hends

theorem signalDetected_storeKept (s : State) (l : LinkNo) : StoreKept s (s.signalDetected l) := by
  refine .setLink rfl fun hk => ?_
  dsimp only at hk
  split at hk
  · next h => rw [h.1]; decide
  · exact hk

theorem leaveLocked_storeKept (s : State) (l : LinkNo) (next : LinkState) : StoreKept s (s.leaveLocked l next) := by
  unfold State.leaveLocked State.endContext
  split
  · next u hu =>
    refine .trans _ _ _ ?_ (managerCause_storeKept _ _)
    exact .trans _ _ _ (endContext_storeKept (by rw [hu]; rfl) rfl) (resync_storeKept _ u.programme)
  · next hu => exact .trans _ _ _ (clearContext_storeKept hu rfl) (managerCause_storeKept _ _)

theorem lossOfSignal_storeKept (s : State) (l : LinkNo) : StoreKept s (s.lossOfSignal l) := by
  have off : StoreKept s (s.setLink l { s.link l with signal := false }) := .setLink rfl id
  unfold State.lossOfSignal
  dsimp only
  split
  · exact off
  · next h => exact .trans _ _ _ off (.setLink rfl fun _ => by rw [h]; decide)
  · exact .trans _ _ _ off (leaveLocked_storeKept _ l _)

theorem missingSync_storeKept (s : State) (l : LinkNo) : StoreKept s (s.missingSync l) := by
  unfold State.missingSync
  split
  · exact leaveLocked_storeKept s l _
  · exact .refl s

theorem runaway_storeKept (s : State) (l : LinkNo) : StoreKept s (s.runaway l) := by
  unfold State.runaway
  split
  · exact leaveLocked_storeKept s l _
  · exact .refl s

theorem takeHeader_storeKept {s : State} {l : LinkNo} (hst : (s.link l).state = .locked)
    (hempty : (s.link l).context = .empty) (h : UnitHeader) : StoreKept s (s.takeHeader l h) := by
  have skip : StoreKept s ((s.countHeaderError l).setLink l { s.link l with context := .skipping h.size.toNat }) :=
    .trans _ _ _ (countHeaderError_storeKept s l)
      (beginContext_storeKept (s := s.countHeaderError l) (context := .skipping h.size.toNat) hst hempty rfl nofun)
  unfold State.takeHeader
  split
  · split
    · next hsize =>
      dsimp only
      refine beginContext_storeKept hst hempty ?_ fun u hu => ?_
      · split <;> rfl
      · split at hu
        · cases hu; exact hsize
        · cases hu
    · exact skip
  · exact skip

theorem headerTaken_storeKept (s : State) (l : LinkNo) (h : UnitHeader) : StoreKept s (s.headerTaken l h) := by
  unfold State.headerTaken
  split
  · next hk => exact takeHeader_storeKept hk.1 hk.2 h
  · exact .refl s

theorem syncMarkFound_storeKept (s : State) (l : LinkNo) (h : UnitHeader) : StoreKept s (s.syncMarkFound l h) := by
  by_cases hk : (s.link l).state = .searching
  · have hlocked : StoreKept s (s.locked l) :=
      (StoreKept.refl s).writeLink
        (fun hs => by
          rw [(hs l).1 (by rw [hk]; decide)])
        fun _ => ⟨fun _ => rfl, nofun⟩
    have hself := State.setLink_self s l { s.link l with state := .locked, context := .empty }
    rw [syncMarkFound_searching hk]
    exact .trans _ _ _ hlocked
      (takeHeader_storeKept (by rw [State.locked, hself]) (by rw [State.locked, hself]) h)
  · rw [syncMarkFound_not_searching hk]
    exact headerTaken_storeKept s l h

/-! ### Ingest: cells and units (R25 to R31) -/

theorem exhaust_storeKept {s : State} {l : LinkNo} {u : PartialUnit} (h : (s.link l).context = .receiving u) :
    StoreKept s (s.exhaust l u) := by
  have hskip : StoreKept s { s.setLink l { s.link l with context := .skipping (u.size - u.received) } with
      freeCells := s.freeCells ++ u.cells } :=
    (StoreKept.refl s).writeLink
      (fun _ => by
        rw [h]
        exact List.perm_append_comm (l₁ := s.freeCells))
      fun hs => ⟨fun hk => (nomatch h.symm.trans (hs.1 hk)), nofun⟩
  unfold State.exhaust
  exact .trans _ _ _ (.trans _ _ _ hskip (resync_storeKept _ u.programme)) (managerCause_storeKept _ _)

theorem claim_storeKept {s : State} {l : LinkNo} {u : PartialUnit} (h : (s.link l).context = .receiving u) {c : CellNo}
    {rest : List CellNo} (hfree : s.freeCells = c :: rest) (stretch : List Byte) :
    StoreKept s (s.claim l u c rest stretch) := by
  unfold State.claim
  refine .trans _ _ _ (setMemory_storeKept (Memory.writeBytes_wf _ _))
    (.writeLink (.refl _) (fun _ => ?_) fun hs => ⟨fun hk => ?_, fun v hv => ?_⟩)
  · change (u.cells ++ [c] ++ rest).Perm ((s.link l).context.cells ++ s.freeCells)
    rw [h, hfree, List.append_assoc]
    exact .refl _
  · exact nomatch h.symm.trans (hs.1 hk)
  · cases hv
    exact hs.2 u h

theorem cellClaim_storeKept (s : State) (l : LinkNo) (stretch : List Byte) : StoreKept s (s.cellClaim l stretch) := by
  unfold State.cellClaim
  split
  · next u hu =>
    split
    · split
      · exact exhaust_storeKept hu
      · next hfree => exact claim_storeKept hu hfree stretch
    · exact .refl s
  · exact .refl s

theorem checkSequence_queue (k : Programme) (q : BitVec 16) : (k.checkSequence q).queue = k.queue := by
  unfold Programme.checkSequence
  dsimp only
  split
  · split
    · rfl
    · exact Programme.toResync_queue k
  · rfl

/-- A unit whose cells have come to the tail of the free list takes them to its queue, or leaves them there (R30, R31). -/
theorem placeUnit_storeKept {b s : State} {u : UnitRecord} (h : StoreKept b (s.freeUp u.cells))
    (hsize : b.contextsFit → 1 ≤ u.size ∧ u.size ≤ 1048576) : StoreKept b (s.placeUnit u) := by
  have own : ∀ {us : List UnitRecord}, (∀ x ∈ us, x.programme = u.programme ∧ 1 ≤ x.size ∧ x.size ≤ 1048576) →
      b.contextsFit → ∀ x ∈ us ++ [u], x.programme = u.programme ∧ 1 ≤ x.size ∧ x.size ≤ 1048576 := by
    intro us hus hb x hx
    rcases List.mem_append.1 hx with hx | hx
    · exact hus x hx
    · rw [List.mem_singleton.1 hx]
      exact ⟨rfl, hsize hb⟩
  unfold State.placeUnit
  dsimp only
  split
  · next hroom =>
    refine h.writeProgramme (fs := s.freeCells) ?_ fun hb hq => ⟨?_, own hq.2 hb⟩
    · refine List.perm_iff_count.2 fun x => ?_
      simp only [unitCells_append, List.count_append, State.freeUp_programme, State.freeUp_freeCells]
      simp [unitCells]
      omega
    · rw [List.length_append]
      exact hroom
  · next hfull =>
    split
    · next v hv =>
      obtain ⟨hkind, before, after, hq, hbefore⟩ := List.find?_eq_some_iff_append.1 hv
      have herase := (find_bridge (after := after) (beq_iff_eq.1 hkind) fun x hx => by simpa using hbefore x hx).2
      rw [hq, herase]
      refine h.writeProgramme (fs := s.freeCells ++ v.cells) ?_ fun hb hfits => ?_
      · refine List.perm_iff_count.2 fun x => ?_
        rw [State.freeUp_programme, hq]
        simp [unitCells]
        omega
      · rw [State.freeUp_programme, Programme.queueFits, hq] at hfits
        refine ⟨?_, own (fun x hx => hfits.2 x ?_) hb⟩
        · have hlen := hfits.1
          simp only [List.length_append, List.length_cons, List.length_nil] at hlen ⊢
          omega
        · simp only [List.mem_append, List.mem_cons] at hx ⊢
          tauto
    · exact .trans _ _ _ h (resync_storeKept _ _)

theorem unitCompletion_storeKept (s : State) (l : LinkNo) : StoreKept s (s.unitCompletion l) := by
  unfold State.unitCompletion
  dsimp only
  split
  · next hk =>
    split
    · next u hu =>
      have hfree : StoreKept s ((s.setLink l { s.link l with context := .empty }).freeUp u.cells) :=
        endContext_storeKept (by rw [hu]; rfl) rfl
      unfold State.completeUnit
      split
      · refine placeUnit_storeKept ?_ fun hs => (hs l).2 u hu
        exact .trans _ _ _ hfree (.setProgramme (p := u.programme) (checkSequence_queue _ _))
      · exact hfree
    · next hu => exact clearContext_storeKept hu rfl
  · exact .refl s

/-! ### Resets (R154, R155) -/

/-- The tables, the free list and the attach order list hold what a reset leaves, and nothing waits on a line. -/
structure State.Blank (t : State) : Prop where
  freeCells : t.freeCells = allCells
  carrier : ∀ c, t.carrier c = Carrier.reset
  programme : ∀ p, t.programme p = Programme.reset
  context : ∀ l, (t.link l).context = .empty
  attachOrder : t.attachOrder = []
  port : ∀ q, (t.port q).state = .detached ∧ (t.port q).offer = none ∧ (t.port q).queue = []
  waiting : ∀ q, (t.line q).waiting = none

section
variable {t : State} (h : t.Blank)
include h

theorem State.Blank.cellsKept : t.cellsKept := by
  refine ⟨?_, fun c _ => by rw [h.carrier]; exact ⟨rfl, rfl⟩⟩
  rw [heldCells_eq, h.freeCells, List.flatMap_eq_nil_iff.2 fun l _ => by rw [h.context]; rfl,
    List.flatMap_eq_nil_iff.2 fun p _ => by rw [h.programme]; rfl,
    List.flatMap_eq_nil_iff.2 fun c _ => by rw [h.carrier]; rfl]
  simp only [List.append_nil]
  exact .refl _

theorem State.Blank.contextsFit : t.contextsFit := fun l => by
  rw [h.context]
  exact ⟨fun _ => rfl, nofun⟩

theorem State.Blank.unitsFit : t.unitsFit := fun p => by
  rw [h.programme]
  exact ⟨Nat.zero_le _, nofun⟩

theorem State.Blank.queueFits (q : PortNo) : (t.port q).queueFits := by
  unfold AccessPort.queueFits
  rw [(h.port q).2.2]
  exact ⟨Nat.zero_le _, nofun⟩

theorem State.Blank.attachedOnce : t.attachedOnce := by
  refine ⟨h.attachOrder ▸ List.nodup_nil, fun q => ?_⟩
  obtain ⟨hs, ho, -⟩ := h.port q
  rw [h.attachOrder, hs, ho]
  simp

theorem State.Blank.outputFits (c : CarrierNo) : (t.carrier c).outputFits := by
  rw [h.carrier]
  exact ⟨Nat.zero_le _, List.nodup_nil, fun _ => rfl⟩

theorem State.Blank.waitsRefusal (q : PortId) : (t.line q).waitsRefusal := fun r hr => by
  rw [h.waiting] at hr
  cases hr

/-- What a reset leaves is within every limit, whatever was there before. -/
theorem State.Blank.storeKept {s : State} (hm : t.memory = s.memory) : StoreKept s t where
  memory hs := hm ▸ hs
  contexts _ := h.contextsFit
  cells _ _ := h.cellsKept
  units _ _ := h.unitsFit
  ports _ := h.queueFits
  attached _ := h.attachedOnce
  outputs _ := h.outputFits
  lines _ := h.waitsRefusal

end

theorem reset_blank : State.reset.Blank where
  freeCells := rfl
  carrier c := Vector.getElem_replicate _
  programme p := Vector.getElem_replicate _
  context l := by rw [show State.reset.link l = IngestLink.reset from Vector.getElem_replicate _]; rfl
  attachOrder := rfl
  port q := by rw [show State.reset.port q = AccessPort.reset from Vector.getElem_replicate _]; exact ⟨rfl, rfl, rfl⟩
  waiting q := by
    cases q with
    | manager => rfl
    | access p =>
      change (State.reset.port p).line.waiting = none
      rw [show State.reset.port p = AccessPort.reset from Vector.getElem_replicate _]
      rfl

theorem resetBlocks_blank (s : State) : s.resetBlocks.Blank := by
  have hport : ∀ q, s.resetBlocks.port q = { AccessPort.reset with line := (s.port q).line.resetKeeping } := fun q =>
    Vector.getElem_map ..
  exact
    { freeCells := rfl
      carrier := reset_blank.carrier
      programme := reset_blank.programme
      context := fun l => by
        rw [show s.resetBlocks.link l = { IngestLink.reset with signal := (s.link l).signal } from Vector.getElem_map ..]
        rfl
      attachOrder := rfl
      port := fun q => by rw [hport]; exact ⟨rfl, rfl, rfl⟩
      waiting := fun q => by
        cases q with
        | manager => rfl
        | access p =>
          change (s.resetBlocks.port p).line.waiting = none
          rw [hport]
          rfl }

theorem resetBlocks_storeKept (s : State) : StoreKept s s.resetBlocks := (resetBlocks_blank s).storeKept rfl

theorem powerOn_storeKept (s : State) (straps : BitVec 4) : StoreKept s (s.powerOn straps) :=
  .trans _ _ _ (resetBlocks_storeKept s) (.of_eq rfl rfl rfl rfl rfl rfl rfl rfl)

theorem holdReset_storeKept (s : State) : StoreKept s s.holdReset :=
  .trans _ _ _ (resetBlocks_storeKept s) (.of_eq rfl rfl rfl rfl rfl rfl rfl rfl)

/-! ### Lines (R145, R146, R149) -/

/-- A line is written over with at most a refusal waiting. -/
theorem StoreKept.setLine {s : State} {q : PortId} {ln : OrderLine}
    (h : (s.line q).waitsRefusal → ln.waitsRefusal) : StoreKept s (s.setLine q ln) := by
  cases q with
  | manager =>
    exact Quiet.storeKept
      { memory := rfl
        links := rfl
        freeCells := rfl
        attachOrder := rfl
        programme := fun _ => rfl
        carrier := fun _ => .refl _
        port := fun _ => .refl _
        manager := h }
  | access p => exact .setPort ⟨id, Iff.rfl, rfl, h⟩

theorem countRefusal_storeKept (s : State) (q : PortId) : StoreKept s (s.countRefusal q) := by
  cases q with
  | manager => exact .of_eq rfl rfl rfl rfl rfl rfl rfl rfl
  | access p => exact .setPort (.of_eq Iff.rfl rfl rfl rfl)

theorem waitsRefusal_none {ln : OrderLine} (h : ln.waiting = none) : ln.waitsRefusal := fun r hr => by
  rw [h] at hr
  cases hr

theorem send_storeKept (s : State) (q : PortId) (o : Option Order) (r : Reply) : StoreKept s (s.send q o r) :=
  .setLine id

theorem refuse_storeKept (s : State) (q : PortId) (code : Nat) (r : RefusalCode) : StoreKept s (s.refuse q code r) :=
  .trans _ _ _ (countRefusal_storeKept s q) (send_storeKept _ q _ _)

theorem answer_storeKept (s : State) (q : PortId) (o : Order) (r : Response) : StoreKept s (s.answer q o r) := by
  cases r with
  | done b => exact send_storeKept s q _ _
  | refused r => exact .trans _ _ _ (countRefusal_storeKept s q) (send_storeKept _ q _ _)

theorem refuseBusy_storeKept (s : State) (q : PortId) (code : Nat) (r : RefusalCode) :
    StoreKept s (s.refuseBusy q code r) := by
  unfold State.refuseBusy
  dsimp only
  split
  · exact countRefusal_storeKept s q
  · refine .trans _ _ _ (countRefusal_storeKept s q) (.setLine fun _ w hw => ?_)
    cases hw
    exact ⟨r, rfl⟩

theorem replySent_storeKept (s : State) (q : PortId) : StoreKept s (s.replySent q) := by
  refine .setLine fun h => ?_
  unfold OrderLine.sent
  split
  · exact waitsRefusal_none rfl
  · exact h

theorem linkUp_storeKept (s : State) (q : PortId) : StoreKept s (s.linkUp q) := .setLine id

theorem linkDown_storeKept (s : State) (q : PortId) : StoreKept s (s.linkDown q) := by
  have lost : ∀ q, StoreKept s (s.setLine q ((s.line q).lost s.time)) := fun q =>
    .setLine fun _ => waitsRefusal_none rfl
  unfold State.linkDown
  split
  · unfold State.managerLinkDown
    split
    · exact lost .manager
    · refine .trans _ _ _ (.setLine (q := .manager)
        (ln := { s.manager.line.lost s.time with inHand := s.manager.line.inHand }) fun _ => waitsRefusal_none rfl) ?_
      exact .of_eq rfl rfl rfl rfl rfl rfl rfl rfl
  · next p =>
    unfold State.accessLinkDown
    dsimp only
    split
    · exact lost (.access p)
    · exact .trans _ _ _ (lost (.access p)) (detachPort_storeKept _ p)

theorem restartPart_storeKept (s : State) : StoreKept s s.restartPart := by
  refine .trans _ _ _ (resetBlocks_storeKept s) ?_
  refine .trans _ _ _ (.setLine (q := .manager) (ln := { s.resetBlocks.manager.line with
    up := s.manager.line.up, inHand := some .restartPart }) id) ?_
  exact .of_eq rfl rfl rfl rfl rfl rfl rfl rfl

theorem restartCompletion_storeKept (s : State) : StoreKept s s.restartCompletion := by
  have idle : StoreKept s { s with restart := .idle } := .of_eq rfl rfl rfl rfl rfl rfl rfl rfl
  unfold State.restartCompletion
  split
  · exact .refl s
  · dsimp only
    split
    · exact .trans _ _ _ idle (send_storeKept _ _ _ _)
    · exact .trans _ _ _ idle (.setLine id)

/-! ### The clock (R1, R133) -/

theorem Carrier.drain_quiet (k : Carrier) : k.Quiet k.drain := by
  unfold Carrier.drain
  split
  · exact .refl k
  · next rest hb =>
    dsimp only
    split
    · exact ⟨rfl, rfl, rfl, fun _ h => h, by rw [hb]; exact Nat.le_succ _, id⟩
    · exact ⟨rfl, rfl, rfl, fun _ h => h, le_rfl, id⟩

theorem tick_storeKept (s : State) : StoreKept s s.tick := by
  have drains : ∀ t : State, StoreKept t { t with carriers := t.carriers.map Carrier.drain } := fun t =>
    Quiet.storeKept
      { memory := rfl
        links := rfl
        freeCells := rfl
        attachOrder := rfl
        programme := fun _ => rfl
        carrier := fun c => by
          rw [show ({ t with carriers := t.carriers.map Carrier.drain } : State).carrier c = (t.carrier c).drain from
            Vector.getElem_map ..]
          exact Carrier.drain_quiet _
        port := fun _ => .refl _
        manager := id }
  have hclock : StoreKept s s.tickClock := by
    unfold State.tickClock
    split
    · exact .of_eq rfl rfl rfl rfl rfl rfl rfl rfl
    · exact .of_eq rfl rfl rfl rfl rfl rfl rfl rfl
  have hcarriers : s.tickClock.carriers = s.carriers := by
    unfold State.tickClock
    split <;> rfl
  unfold State.tick
  split
  · exact .refl s
  · have hdrain := drains s.tickClock
    rw [hcarriers] at hdrain
    exact .trans _ _ _ hclock hdrain

theorem idle_storeKept (s : State) : StoreKept s s.idle := by
  unfold State.idle
  split
  · exact tick_storeKept s
  · exact .of_eq rfl rfl rfl rfl rfl rfl rfl rfl

end Sys2Proof.Machine

/-! SUPPORT. The reset state is within every limit (R32, R154). -/

namespace Sys2Proof.Machine

theorem State.Blank.listsFit {t : State} (h : t.Blank) : t.listsFit := by
  obtain ⟨hqueues, hsizes⟩ := unitsFit_iff.1 h.unitsFit
  exact ⟨hqueues, hsizes, h.contextsFit, h.queueFits, h.attachedOnce, h.outputFits, h.waitsRefusal⟩

/-- A FREE group without a key, a packet or a definition is as the key schedule and the plan resolver promise. -/
theorem Group.reset_fits : Group.reset.fits := by
  have noSlot : ∀ ph, Group.reset.slot ph = none := fun ph => by cases ph <;> rfl
  refine ⟨⟨rfl, rfl⟩, ⟨nofun, nofun, nofun, by decide, by decide, by decide⟩, fun ph k hk => ?_,
    ⟨by decide, nofun, fun _ => ⟨rfl, rfl⟩, nofun, nofun⟩, fun p => ?_⟩
  · rw [noSlot] at hk
    cases hk
  · exact iff_of_true (Vector.getElem_replicate _) nofun

theorem reset_group (g : GroupNo) : State.reset.group g = Group.reset := Vector.getElem_replicate _

theorem reset_startFits (g : GroupNo) : State.reset.startFits g := fun h => by
  rw [reset_group] at h
  cases h

end Sys2Proof.Machine

namespace Sys2Proof.Settled
open Sys2Proof.Machine

/-- Settles O58: the tables of the reset state hold empty records, and the free list every cell. -/
theorem resetMeetsInvariants : Obligations.ResetMeetsInvariants :=
  ⟨reset_blank.cellsKept, recordsFit_of_reset rfl rfl, fun g => ⟨reset_group g ▸ Group.reset_fits, reset_startFits g⟩,
    reset_blank.listsFit, State.reset_memory_wf⟩

end Sys2Proof.Settled

/-! SUPPORT. What the orders keep of the cell store and of the lists, and so every command. -/

namespace Sys2Proof.Machine

/-! ### A frame and its order (R146, R147) -/

/-- A frame keeps what its acceptance keeps. -/
theorem takeFrame_storeKept {s : State} {p : PortId} {code : Nat} {r : RefusalCode} {judge : State → State}
    (h : StoreKept s (judge s)) : StoreKept s (s.takeFrame p code r judge) := by
  unfold State.takeFrame
  split
  · exact .refl s
  · split
    · exact .refl s
    · split
      · exact refuseBusy_storeKept s p code r
      · exact h

/-- An order frame keeps what its effect keeps, where the order passes its checks. -/
theorem takeOrder_storeKept {s : State} {f : Frame} {o : Order} {effect : State → State × Response}
    (h : s.judge f o = none → StoreKept s (effect s).1) : StoreKept s (s.takeOrder f o effect) := by
  rcases takeOrder_cases s f o effect with he | ⟨-, he⟩ | he | ⟨r, -, he⟩ | ⟨hj, he⟩ <;> rw [he]
  · exact .refl s
  · exact countRefusal_storeKept s _
  · exact refuseBusy_storeKept s _ _ _
  · exact refuse_storeKept s _ _ r
  · exact .trans _ _ _ (h hj) (answer_storeKept _ _ o _)

theorem takeAccessOrder_storeKept {s : State} {f : Frame} {o : Order} {effect : PortNo → State → State × Response}
    (h : ∀ p, f.port = .access p → s.judge f o = none → StoreKept s (effect p s).1) :
    StoreKept s (s.takeOrder f o (onAccess f effect)) := by
  refine takeOrder_storeKept fun hj => ?_
  unfold onAccess
  split
  · next p hp => exact h p hp hj
  · exact .refl s

/-- An order that a DETACHED port is refused passes its checks on an attached port alone (R147). -/
theorem attached_of_judge {s : State} {f : Frame} {o : Order} {p : PortNo} (hp : f.port = .access p)
    (ho : o.whileDetached = false) (hj : s.judge f o = none) : (s.port p).state ≠ .detached := fun hd => by
  have hdet : s.portDetached f.port = true := by rw [hp]; exact beq_iff_eq.2 hd
  unfold State.judge at hj
  rw [hdet, ho] at hj
  split at hj <;> simp at hj

/-- What an order does past a check is kept where its effect is kept; a refusal changes nothing. -/
theorem StoreKept.unlessRefused {s : State} {b : Prop} [Decidable b] {r : RefusalCode} {x : State × Response}
    (h : ¬ b → StoreKept s x.1) : StoreKept s (if b then refused s r else x).1 := by
  split
  · exact .refl s
  · next hb => exact h hb

theorem StoreKept.of_state {s t : State} (h : t = s) : StoreKept s t := h ▸ .refl s

section
variable (s : State)

theorem takeRestart_storeKept (f : Frame) : StoreKept s (s.takeRestart f) := by
  refine takeFrame_storeKept ?_
  split
  · exact refuse_storeKept s _ _ _
  · exact restartPart_storeKept s

/-! ### Carriers (R4 to R9, R11) -/

/-- A carrier is written over in its definition, its allowances, its counters and its clocks, or moves to a state that is in
service or from OFF. -/
theorem Carrier.Quiet.of_eq {k k' : Carrier} (hb : k'.building = k.building) (he : k'.emitting = k.emitting)
    (hc : k'.emitted = k.emitted) (hs : k'.state = k.state ∨ k.state = .off) (hbuf : k'.buffer = k.buffer)
    (hcar : k'.carousel = k.carousel) : k.Quiet k' where
  building := hb
  emitting := he
  emitted := hc
  service hk hin := by
    refine fun _ => hb ▸ he ▸ hin ?_
    exact hs.elim (fun e => e ▸ hk) .inl
  buffer := hbuf ▸ le_rfl
  carousel h := hcar ▸ h

theorem defineCarrier_storeKept (carrier rate interval reserve : Nat) :
    StoreKept s (defineCarrier carrier rate interval reserve s).1 := by
  unfold defineCarrier
  split
  · exact .refl s
  · exact .unlessRefused fun _ => .unlessRefused fun _ => .unlessRefused fun _ => .unlessRefused fun _ =>
      .setCarrier (.of_eq rfl rfl rfl (.inl rfl) rfl rfl)

theorem setCarrierOn_storeKept (carrier : Nat) (target : Selector) : StoreKept s (setCarrierOn carrier target s).1 := by
  unfold setCarrierOn
  split
  · dsimp only
    split
    · next h => exact .setCarrier (.of_eq rfl rfl rfl (.inr h.1) rfl rfl)
    · exact .refl s
  · exact .refl s

theorem setCarrierOff_storeKept (carrier : Nat) : StoreKept s (setCarrierOff carrier s).1 := by
  unfold setCarrierOff
  split
  · exact .refl s
  · next c _ =>
    dsimp only
    split
    · next h =>
      dsimp only
      exact carrierOff_storeKept fun hin => hin (.inr h)
    · dsimp only
      refine .trans _ _ _ (.setCarrier ?_) (recomputeAll_shape _).storeKept
      exact ⟨rfl, rfl, rfl, nofun, le_rfl, fun _ => List.nodup_nil⟩
    · exact .refl s
    · exact .refl s

theorem setAllowance_storeKept (port carrier allowance : Nat) :
    StoreKept s (setAllowance port carrier allowance s).1 := by
  unfold setAllowance
  split
  · exact .unlessRefused fun _ => .unlessRefused fun _ => .unlessRefused fun _ =>
      .setCarrier (.of_eq rfl rfl rfl (.inl rfl) rfl rfl)
  · exact .refl s

/-! ### Programmes (R14 to R16) -/

theorem Programme.define_queue (k : Programme) (d : ProgrammeDef) : (k.define d).queue = k.queue := by
  unfold Programme.define
  split <;> rfl

theorem defineProgramme_storeKept (programme carrier group weight floor cap : Nat) :
    StoreKept s (defineProgramme programme carrier group weight floor cap s).1 := by
  unfold defineProgramme
  split
  · refine .unlessRefused fun _ => ?_
    split
    · exact .refl s
    · exact .unlessRefused fun _ => .unlessRefused fun _ => .unlessRefused fun _ => .unlessRefused fun _ =>
        .setProgramme (Programme.define_queue _ _)
  · exact .refl s

theorem goLive_storeKept (p : ProgrammeNo) : StoreKept s (s.goLive p) := by
  have resync : StoreKept s (s.setProgramme p { s.programme p with state := .resync, expected := none }) :=
    .setProgramme rfl
  unfold State.goLive
  dsimp only
  split
  · split
    · next d _ _ g _ =>
      refine .trans _ _ _ ?_ (recompute_storeKept _ g)
      exact resync.ite _ (fun t => t.gainGroup d.carrier g s.time) fun t => gainGroup_storeKept t _ _ _
    · exact resync
  · exact resync

theorem setProgrammeLive_storeKept (programme : Nat) (target : Selector) :
    StoreKept s (setProgrammeLive programme target s).1 := by
  unfold setProgrammeLive
  split
  · split
    · exact goLive_storeKept s _
    · exact .refl s
  · exact .refl s

theorem goIdle_storeKept (p : ProgrammeNo) : StoreKept s (s.goIdle p) := by
  have idle := StoreKept.trans _ _ _ (emptyQueue_storeKept s p)
    (.setProgramme (p := p) (k := { (s.emptyQueue p).programme p with state := .idle, held := 0 }) rfl)
  unfold State.goIdle
  dsimp only
  split
  · split
    · refine .trans _ _ _ ?_ (recompute_storeKept _ _)
      split
      · exact idle
      · exact .trans _ _ _ idle (loseGroup_storeKept _ _ _)
    · exact idle
  · exact idle

theorem setProgrammeIdle_storeKept (programme : Nat) : StoreKept s (setProgrammeIdle programme s).1 := by
  unfold setProgrammeIdle
  split
  · exact .refl s
  · split
    · exact goIdle_storeKept s _
    · exact .refl s

theorem setProgrammeUnused_storeKept (programme : Nat) : StoreKept s (setProgrammeUnused programme s).1 := by
  unfold setProgrammeUnused
  split
  · exact .refl s
  · dsimp only
    split
    · exact .setProgramme rfl
    · exact .refl s

/-! ### Groups (R80 to R83) -/

theorem defineGroup_storeKept (group : Nat) (roster : BitVec 8) (preference : List Nat) (repeatMs limit policy : Nat) :
    StoreKept s (defineGroup group roster preference repeatMs limit policy s).1 := by
  unfold defineGroup
  split
  · refine .trans _ _ _ ?_ (resolve_storeKept _ _)
    split
    · exact setGroup_storeKept s _ _
    · exact redefine_storeKept s _ _
  · exact .refl s

theorem releaseGroup_storeKept (group : Nat) : StoreKept s (releaseGroup group s).1 := by
  unfold releaseGroup
  split
  · exact .refl s
  · split
    · exact .refl s
    · exact release_storeKept s _

theorem restartGroupOrder_storeKept (group : Nat) : StoreKept s (restartGroup group s).1 := by
  unfold restartGroup
  split
  · exact .refl s
  · split
    · exact restartGroup_storeKept s _
    · exact .refl s

/-! ### Access ports (R84, R87, R88, R99 to R103, R108) -/

theorem detach_storeKept (p : PortNo) : StoreKept s (detach p s).1 := by
  unfold detach
  dsimp only
  exact detachPort_storeKept s p

theorem planAck_storeKept (group number : Nat) (o : Offer) {p : PortNo} (h : (s.port p).state ≠ .detached) :
    StoreKept s (planAck group number o p s).1 := by
  unfold planAck
  split
  · exact .refl s
  · refine .unlessRefused fun _ => .unlessRefused fun _ => .unlessRefused fun _ => ?_
    dsimp only
    split
    · exact join_storeKept s _ p
    · exact .trans _ _ _ (setOffer_storeKept h o) (resolveFor_storeKept _ p)

theorem fetchPending_storeKept (group : Nat) (p : PortNo) : StoreKept s (fetchPending group p s).1 := by
  unfold fetchPending
  split
  · refine .unlessRefused fun _ => ?_
    split
    · exact setKeyWaiting_storeKept s p _ _
    · exact .refl s
  · exact .refl s

theorem submitAccess_storeKept (group : Nat) (serial : Serial) (body : List Byte) (p : PortNo) :
    StoreKept s (submitAccess group serial body p s).1 := by
  unfold submitAccess
  split
  · exact .refl s
  · refine .unlessRefused fun _ => ?_
    split
    · exact .refl s
    · split
      · dsimp only
        exact storePacket_storeKept s _ _ _ p body
      · exact .refl s

/-! ### Subscriber entries (R125 to R128) -/

theorem openBatch_storeKept (present count : Nat) (p : PortNo) : StoreKept s (openBatch present count p s).1 := by
  unfold openBatch
  exact .unlessRefused fun _ => .setPort (.of_eq Iff.rfl rfl rfl rfl)

/-- An entry that names a carrier joins a queue with room for it. -/
theorem enqueue_quiet {k : AccessPort} {e : SubscriberEntry} (count : Nat) (he : e.remaining ≠ 0)
    (hroom : k.queue.length < 64) : k.Quiet (k.enqueue e count) where
  queue := fun ⟨_, hall⟩ => by
    have hmem : ∀ x, x ∈ (k.enqueue e count).queue → x = e ∨ x ∈ k.queue := fun x hx => by
      unfold AccessPort.enqueue at hx
      split at hx <;> simpa [or_comm] using hx
    refine ⟨?_, fun x hx => (hmem x hx).elim (fun h => h ▸ he) (hall x)⟩
    unfold AccessPort.enqueue
    split <;> simp <;> omega
  detached := Iff.rfl
  offer := rfl
  line := id

theorem submitSubscriber_storeKept (body : List Byte) (mask : BitVec 8) (urgent : Nat) (p : PortNo) :
    StoreKept s (submitSubscriber body mask urgent p s).1 := by
  unfold submitSubscriber
  split
  · dsimp only
    split
    · exact .refl s
    · exact setBatchEnd_storeKept s p _
    · exact .unlessRefused fun _ => .unlessRefused fun hcarrier => .unlessRefused fun hroom =>
        .setPort (enqueue_quiet _ hcarrier (Nat.lt_of_not_le hroom))
  · exact .refl s

/-! ### Conditions and alerts (R151 to R153) -/

theorem PortState.afterRead_detached (k : PortState) : k.afterRead = .detached ↔ k = .detached := by
  cases k <;> decide

theorem readCondition_storeKept (f : Frame) : StoreKept s (readCondition f s).1 := by
  unfold readCondition
  split
  · exact .of_eq rfl rfl rfl rfl rfl rfl rfl rfl
  · exact .setPort (.of_eq (PortState.afterRead_detached _) rfl rfl rfl)

theorem acknowledgeBatchEnd_storeKept (f : Frame) (kind : Selector) :
    StoreKept s (acknowledgeBatchEnd f kind s).1 := by
  unfold acknowledgeBatchEnd
  split
  · exact setBatchEnd_storeKept s _ _
  · exact .refl s

theorem acknowledgeGroupAlert_storeKept (f : Frame) (object : Nat) :
    StoreKept s (acknowledgeGroupAlert f object s).1 := by
  unfold acknowledgeGroupAlert
  split
  · dsimp only
    split
    · exact .refl s
    · exact setGroupAlert_storeKept s _ _
  · exact .refl s

theorem acknowledgeCarrierAlert_storeKept (f : Frame) (object : Nat) :
    StoreKept s (acknowledgeCarrierAlert f object s).1 := by
  unfold acknowledgeCarrierAlert
  split
  · dsimp only
    split
    · exact .refl s
    · exact setCarrierAlert_storeKept s _ _
  · exact .refl s

/-! ### The orders that only report -/

theorem readCarrier_state (carrier : Nat) : (readCarrier carrier s).1 = s := by unfold readCarrier; split <;> rfl

theorem readProgramme_state (programme : Nat) : (readProgramme programme s).1 = s := by
  unfold readProgramme; split <;> rfl

theorem readGroup_state (group : Nat) : (readGroup group s).1 = s := by unfold readGroup; split <;> rfl

theorem fetchActive_state (group : Nat) (selector : Selector) (p : PortNo) : (fetchActive group selector p s).1 = s := by
  unfold fetchActive
  split
  · split
    · rfl
    · split <;> rfl
  · rfl

theorem probeGroup_state (group : Nat) (p : PortNo) : (probeGroup group p s).1 = s := by
  unfold probeGroup; split <;> rfl

theorem readSummary_state (f : Frame) : (readSummary f s).1 = s := by unfold readSummary; split <;> rfl

end

/-! ### Every command -/

/-- No command loses, doubles or invents a cell, or takes a list over its limit. -/
theorem exec_storeKept (c : Instr) (s : State) : ∃ t, exec c s = .next t ∧ StoreKept s t := by
  cases c
  case defineCarrier => exact ⟨_, rfl, takeOrder_storeKept fun _ => defineCarrier_storeKept s _ _ _ _⟩
  case setCarrierOn => exact ⟨_, rfl, takeOrder_storeKept fun _ => setCarrierOn_storeKept s _ _⟩
  case setCarrierOff => exact ⟨_, rfl, takeOrder_storeKept fun _ => setCarrierOff_storeKept s _⟩
  case readCarrier => exact ⟨_, rfl, takeOrder_storeKept fun _ => .of_state (readCarrier_state s _)⟩
  case defineProgramme => exact ⟨_, rfl, takeOrder_storeKept fun _ => defineProgramme_storeKept s _ _ _ _ _ _⟩
  case setProgrammeLive => exact ⟨_, rfl, takeOrder_storeKept fun _ => setProgrammeLive_storeKept s _ _⟩
  case setProgrammeIdle => exact ⟨_, rfl, takeOrder_storeKept fun _ => setProgrammeIdle_storeKept s _⟩
  case setProgrammeUnused => exact ⟨_, rfl, takeOrder_storeKept fun _ => setProgrammeUnused_storeKept s _⟩
  case readProgramme => exact ⟨_, rfl, takeOrder_storeKept fun _ => .of_state (readProgramme_state s _)⟩
  case defineGroup => exact ⟨_, rfl, takeOrder_storeKept fun _ => defineGroup_storeKept s _ _ _ _ _ _⟩
  case releaseGroup => exact ⟨_, rfl, takeOrder_storeKept fun _ => releaseGroup_storeKept s _⟩
  case restartGroup => exact ⟨_, rfl, takeOrder_storeKept fun _ => restartGroupOrder_storeKept s _⟩
  case readGroup => exact ⟨_, rfl, takeOrder_storeKept fun _ => .of_state (readGroup_state s _)⟩
  case setAllowance => exact ⟨_, rfl, takeOrder_storeKept fun _ => setAllowance_storeKept s _ _ _⟩
  case restartPart => exact ⟨_, rfl, takeRestart_storeKept s _⟩
  case restartCompletion => exact ⟨_, rfl, restartCompletion_storeKept s⟩
  case attach => exact ⟨_, rfl, takeAccessOrder_storeKept fun p _ _ => attach_storeKept s _ p⟩
  case detach => exact ⟨_, rfl, takeAccessOrder_storeKept fun p _ _ => detach_storeKept s p⟩
  case planAck =>
    exact ⟨_, rfl, takeAccessOrder_storeKept fun _ hp hj => planAck_storeKept s _ _ _ (attached_of_judge hp rfl hj)⟩
  case fetchKeyActive => exact ⟨_, rfl, takeAccessOrder_storeKept fun p _ _ => .of_state (fetchActive_state s _ _ p)⟩
  case fetchKeyPending => exact ⟨_, rfl, takeAccessOrder_storeKept fun p _ _ => fetchPending_storeKept s _ p⟩
  case submitAccess => exact ⟨_, rfl, takeAccessOrder_storeKept fun p _ _ => submitAccess_storeKept s _ _ _ p⟩
  case probeGroup => exact ⟨_, rfl, takeAccessOrder_storeKept fun p _ _ => .of_state (probeGroup_state s _ p)⟩
  case openBatch => exact ⟨_, rfl, takeAccessOrder_storeKept fun p _ _ => openBatch_storeKept s _ _ p⟩
  case submitSubscriber => exact ⟨_, rfl, takeAccessOrder_storeKept fun p _ _ => submitSubscriber_storeKept s _ _ _ p⟩
  case readTime => exact ⟨_, rfl, takeOrder_storeKept fun _ => .refl s⟩
  case readCondition => exact ⟨_, rfl, takeOrder_storeKept fun _ => readCondition_storeKept s _⟩
  case readSummary => exact ⟨_, rfl, takeOrder_storeKept fun _ => .of_state (readSummary_state s _)⟩
  case acknowledgeBatchEnd => exact ⟨_, rfl, takeOrder_storeKept fun _ => acknowledgeBatchEnd_storeKept s _ _⟩
  case acknowledgeGroupAlert => exact ⟨_, rfl, takeOrder_storeKept fun _ => acknowledgeGroupAlert_storeKept s _ _⟩
  case acknowledgeCarrierAlert => exact ⟨_, rfl, takeOrder_storeKept fun _ => acknowledgeCarrierAlert_storeKept s _ _⟩
  case unknownOrderCode => exact ⟨_, rfl, takeFrame_storeKept (refuse_storeKept s _ _ _)⟩
  case framingFailure => exact ⟨_, rfl, takeFrame_storeKept (refuse_storeKept s _ _ _)⟩
  case replySent => exact ⟨_, rfl, replySent_storeKept s _⟩
  case orderLinkUp => exact ⟨_, rfl, linkUp_storeKept s _⟩
  case orderLinkDown => exact ⟨_, rfl, linkDown_storeKept s _⟩
  case signalDetected => exact ⟨_, rfl, signalDetected_storeKept s _⟩
  case lossOfSignal => exact ⟨_, rfl, lossOfSignal_storeKept s _⟩
  case syncMarkFound => exact ⟨_, rfl, syncMarkFound_storeKept s _ _⟩
  case headerTaken => exact ⟨_, rfl, headerTaken_storeKept s _ _⟩
  case cellClaim => exact ⟨_, rfl, cellClaim_storeKept s _ _⟩
  case missingSyncMark => exact ⟨_, rfl, missingSync_storeKept s _⟩
  case runawayUnit => exact ⟨_, rfl, runaway_storeKept s _⟩
  case unitCompletion => exact ⟨_, rfl, unitCompletion_storeKept s _⟩
  case boundary => exact ⟨_, rfl, boundary_storeKept s _⟩
  case shrinkCompletion => exact ⟨_, rfl, shrinkCompletion_storeKept s _⟩
  case sliceEmission => exact ⟨_, rfl, sliceEmission_storeKept s _⟩
  case drawEvent => exact ⟨_, rfl, drawEvent_storeKept s _⟩
  case startEvent => exact ⟨_, rfl, startEvent_storeKept s _⟩
  case changeoverEvent => exact ⟨_, rfl, changeover_storeKept s _⟩
  case powerOn => exact ⟨_, rfl, powerOn_storeKept s _⟩
  case resetInputLow => exact ⟨_, rfl, holdReset_storeKept s⟩

/-- A step runs the command at the front of the queue, or lets the clock run. -/
theorem step_storeKept {s t : State} (h : step s = .next t) : StoreKept s t := by
  unfold step at h
  split at h
  · next c rest _ =>
    obtain ⟨u, hu, hkept⟩ := exec_storeKept c { s with pending := rest }
    cases hu.symm.trans h
    exact .trans _ _ _ (StoreKept.of_eq (t := { s with pending := rest }) rfl rfl rfl rfl rfl rfl rfl rfl) hkept
  · cases h
    exact idle_storeKept s

end Sys2Proof.Machine

namespace Sys2Proof.Settled
open Sys2Proof.Machine

/-- Settles O53: what a step keeps of the store (`step_storeKept`), read for the cells, the contexts and the memory. -/
theorem cellsAreKept : Obligations.CellsAreKept := fun _ _ hstep =>
  have h := step_storeKept hstep
  ⟨fun hcells hcontexts => ⟨h.cells hcontexts hcells, h.contexts hcontexts⟩, h.memory⟩

/-- Settles O56: what a step keeps of the lists (`step_storeKept`). -/
theorem listsAreKept : Obligations.ListsAreKept := fun _ _ hlists hstep => (step_storeKept hstep).listsFit hlists

end Sys2Proof.Settled

/-! SUPPORT. The take of a subscriber queue (R124, R129): which entries a scan passes, what it leaves of them, and the queue
that stands after it. -/

namespace Sys2Proof.Machine

/-- An entry names a carrier while its set holds it (R124). -/
def SubscriberEntry.names (c : CarrierNo) (e : SubscriberEntry) : Bool := hasItem e.remaining c

/-- An entry with the carrier taken out of its set (R129). -/
def SubscriberEntry.unnamed (c : CarrierNo) (e : SubscriberEntry) : SubscriberEntry :=
  { e with remaining := dropItem e.remaining c }

theorem SubscriberEntry.unnamed_of_not_named {c : CarrierNo} {e : SubscriberEntry} (h : e.names c = false) :
    e.unnamed c = e := by
  have hdrop : dropItem e.remaining c = e.remaining := set_ext fun i => by
    rw [hasItem_dropItem]
    by_cases hi : i = c
    · subst hi; simpa [names] using h
    · simp [hi]
  rw [unnamed, hdrop]

theorem SubscriberEntry.unnamed_unnamed (c : CarrierNo) (e : SubscriberEntry) : (e.unnamed c).unnamed c = e.unnamed c :=
  unnamed_of_not_named (by simp [names, unnamed])

/-- The entries that a scan leaves of those it has passed (R129). -/
def leftOf (c : CarrierNo) (scanned : List SubscriberEntry) : List SubscriberEntry :=
  (scanned.map (SubscriberEntry.unnamed c)).filter (fun e => e.remaining != 0)

theorem leftOf_cons (c : CarrierNo) (e : SubscriberEntry) (es : List SubscriberEntry) :
    leftOf c (e :: es) = if dropItem e.remaining c = 0 then leftOf c es else e.unnamed c :: leftOf c es := by
  unfold leftOf
  rw [List.map_cons, List.filter_cons]
  by_cases h : dropItem e.remaining c = 0
  · rw [if_pos h, if_neg (by simpa [SubscriberEntry.unnamed] using h)]
  · rw [if_neg h, if_pos (by simpa [SubscriberEntry.unnamed] using h)]

/-- An entry that names the carrier is taken, and spends one of the allowance (R129). -/
theorem scanQueue_cons_named {c : CarrierNo} {e : SubscriberEntry} (h : e.names c = true) (p : PortNo) (n : Nat)
    (es : List SubscriberEntry) :
    scanQueue p c (n + 1) (e :: es) =
      (⟨p, e.body, e.urgent⟩ :: (scanQueue p c n es).1,
        if dropItem e.remaining c = 0 then (scanQueue p c n es).2 else e.unnamed c :: (scanQueue p c n es).2) :=
  if_pos h

/-- An entry that does not name the carrier is passed (R129). -/
theorem scanQueue_cons_not_named {c : CarrierNo} {e : SubscriberEntry} (h : ¬ e.names c = true) (p : PortNo) (n : Nat)
    (es : List SubscriberEntry) :
    scanQueue p c (n + 1) (e :: es) = ((scanQueue p c (n + 1) es).1, e :: (scanQueue p c (n + 1) es).2) :=
  if_neg h

/-- A scan passes a first part of the queue: it ends with the allowance or with the queue (R129). -/
theorem scanQueue_split (p : PortNo) (c : CarrierNo) : ∀ (n : Nat) (es : List SubscriberEntry),
    (∀ e ∈ es, e.remaining ≠ 0) → ∃ scanned behind, es = scanned ++ behind
      ∧ (scanned.filter (SubscriberEntry.names c)).length ≤ n
      ∧ ((scanned.filter (SubscriberEntry.names c)).length < n → behind = [])
      ∧ scanQueue p c n es =
          ((scanned.filter (SubscriberEntry.names c)).map (fun e => ⟨p, e.body, e.urgent⟩),
            leftOf c scanned ++ behind)
  | n, [], _ => ⟨[], [], rfl, Nat.zero_le n, fun _ => rfl, by cases n <;> rfl⟩
  | 0, e :: es, _ => ⟨[], e :: es, rfl, le_rfl, nofun, rfl⟩
  | n + 1, e :: es, h => by
      have ht : ∀ x ∈ es, x.remaining ≠ 0 := fun x hx => h x (List.mem_cons_of_mem e hx)
      by_cases hn : e.names c = true
      · obtain ⟨scanned, behind, rfl, hle, hlt, hscan⟩ := scanQueue_split p c n es ht
        refine ⟨e :: scanned, behind, rfl, by simpa [hn] using hle, fun hl => hlt (by simpa [hn] using hl), ?_⟩
        rw [scanQueue_cons_named hn, hscan, leftOf_cons, List.filter_cons_of_pos hn]
        split <;> rfl
      · have hn' : e.names c = false := by simpa using hn
        obtain ⟨scanned, behind, rfl, hle, hlt, hscan⟩ := scanQueue_split p c (n + 1) es ht
        refine ⟨e :: scanned, behind, rfl, by simpa [hn'] using hle, fun hl => hlt (by simpa [hn'] using hl), ?_⟩
        have hsame := SubscriberEntry.unnamed_of_not_named hn'
        have hz : dropItem e.remaining c ≠ 0 := fun h0 => h e (by simp) ((congrArg (·.remaining) hsame).symm.trans h0)
        rw [scanQueue_cons_not_named hn, hscan, leftOf_cons, if_neg hz, hsame, List.filter_cons_of_neg hn]
        rfl

/-- No entry that a scan has passed names the carrier any longer. -/
theorem leftOf_filter_self (c : CarrierNo) (scanned : List SubscriberEntry) :
    (leftOf c scanned).filter (SubscriberEntry.names c) = [] := by
  refine List.filter_eq_nil_iff.2 fun e he => ?_
  obtain ⟨x, -, rfl⟩ := List.mem_map.1 (List.mem_of_mem_filter he)
  simp [SubscriberEntry.names, SubscriberEntry.unnamed]

/-- The entries that name another carrier stay in their places (R129). -/
theorem leftOf_filter_other {c d : CarrierNo} (h : d ≠ c) (scanned : List SubscriberEntry) :
    ((leftOf c scanned).filter (SubscriberEntry.names d)).map (SubscriberEntry.unnamed c) =
      (scanned.filter (SubscriberEntry.names d)).map (SubscriberEntry.unnamed c) := by
  have hnamed : ∀ e : SubscriberEntry, (e.unnamed c).names d = e.names d := fun e => by
    simp [SubscriberEntry.names, SubscriberEntry.unnamed, h]
  induction scanned with
  | nil => rfl
  | cons e scanned ih =>
      rw [leftOf_cons]
      by_cases he : e.names d = true
      · have hz : dropItem e.remaining c ≠ 0 := fun h0 => by
          have hn := (hnamed e).trans he
          simp [SubscriberEntry.names, SubscriberEntry.unnamed, h0] at hn
        rw [if_neg hz, List.filter_cons_of_pos ((hnamed e).trans he), List.filter_cons_of_pos he, List.map_cons,
          List.map_cons, SubscriberEntry.unnamed_unnamed, ih]
      · rw [List.filter_cons_of_neg he, ← ih]
        split
        · rfl
        · rw [List.filter_cons_of_neg (by rwa [hnamed])]

/-- A first part that ends with the number taken or with the list is what is taken of it. -/
theorem take_drop_of_split {α : Type} {n : Nat} {first rest : List α} (hle : first.length ≤ n)
    (hlt : first.length < n → rest = []) : (first ++ rest).take n = first ∧ (first ++ rest).drop n = rest := by
  rcases Nat.lt_or_eq_of_le hle with h | rfl
  · rw [hlt h]; simp [hle]
  · simp

/-- What a take takes and leaves of a queue, and that it writes the queue alone (R124, R129). -/
theorem takeFrom_spec {c : CarrierNo} {p : PortNo} {s : State} (hq : ∀ e ∈ (s.port p).queue, e.remaining ≠ 0) :
    ∃ scanned behind, (s.port p).queue = scanned ++ behind
      ∧ (scanned.filter (SubscriberEntry.names c)).length ≤ (s.carrier c).allowances[p.val]
      ∧ ((scanned.filter (SubscriberEntry.names c)).length < (s.carrier c).allowances[p.val] → behind = [])
      ∧ s.takeFrom c p =
          ((scanned.filter (SubscriberEntry.names c)).map (fun e => ⟨p, e.body, e.urgent⟩),
            s.setPort p { s.port p with queue := leftOf c scanned ++ behind })
      ∧ ∀ e ∈ leftOf c scanned ++ behind, e.remaining ≠ 0 := by
  obtain ⟨scanned, behind, hsplit, hle, hlt, hscan⟩ := scanQueue_split p c (s.carrier c).allowances[p.val] _ hq
  refine ⟨scanned, behind, hsplit, hle, hlt, ?_, ?_⟩
  · simp only [State.takeFrom, hscan]
  · have hleft := scanQueue_remaining p c (s.carrier c).allowances[p.val] _ hq
    rwa [hscan] at hleft

end Sys2Proof.Machine

namespace Sys2Proof.Settled

open Sys2Proof.Machine

/-- Settles O38: where the scan ends (`takeFrom_spec`), and what it leaves of the entries it has passed. -/
theorem subscriberTake : Obligations.SubscriberTake := by
  intro c p s hq
  obtain ⟨scanned, behind, hsplit, hle, hlt, htake, hremaining⟩ := takeFrom_spec (c := c) hq
  obtain ⟨htaken, hdropped⟩ := take_drop_of_split (rest := behind.filter (SubscriberEntry.names c)) hle fun h => by
    rw [hlt h]; rfl
  dsimp only
  rw [htake, State.setPort_self]
  refine ⟨⟨scanned, behind, hsplit, hle, fun h e he => ?_, rfl, rfl⟩, ?_, ?_, fun d hd => ?_, hremaining, rfl⟩
  · rw [hlt h] at he; cases he
  · rw [hsplit, List.filter_append]
    exact congrArg _ htaken.symm
  · rw [hsplit, List.filter_append, List.filter_append]
    exact (congrArg (· ++ _) (leftOf_filter_self c scanned)).trans hdropped.symm
  · rw [hsplit, List.filter_append, List.filter_append, List.map_append, List.map_append]
    exact congrArg (· ++ _) (leftOf_filter_other hd scanned)

end Sys2Proof.Settled

/-! SUPPORT. Blanking and the resync walk of an allocation event, each as one equation in the words of the statements (R43,
R44). -/

namespace Sys2Proof.Machine

/-- The programmes that stage 3 looks at are the LIVE and RESYNC programmes of the carrier (R43, R44). -/
theorem mem_servedBy {s : State} {c : CarrierNo} {p : ProgrammeNo} :
    p ∈ s.servedBy c ↔ (s.programme p).names c = true ∧ (s.programme p).serving = true := by
  rw [← servedBy_eq, programmesOf_eq_naming, List.mem_filter, mem_naming, Programme.names_iff, decide_eq_true_iff]

/-- A group blanks its programmes when STARTING, PLANNING, or FROZEN under BLANK (R43). -/
theorem Group.blanks_iff (g : Group) :
    g.blanks = true ↔ g.state = .starting ∨ g.state = .planning
      ∨ (g.state = .frozen ∧ g.definition.map (·.policy) = some .blank) := by
  unfold Group.blanks
  cases g.state <;> simp

/-- A programme is blanked when its group blanks (R43). -/
theorem isBlanked_iff (s : State) (p : ProgrammeNo) :
    s.isBlanked p = true ↔ ∃ g, (s.programme p).definition.bind (·.group) = some g ∧ (s.group g).blanks = true := by
  unfold State.isBlanked Programme.group
  cases (s.programme p).definition.bind (·.group) <;> simp

section
variable (c : CarrierNo) (v : Event) (p : ProgrammeNo)

/-- Stage 3 leaves the programmes alone that are not LIVE or RESYNC on the carrier. -/
theorem stage3_not_served (h : p ∉ v.state.servedBy c) : Event.stage3 c v p = v := by
  rw [mem_servedBy, ← Bool.and_eq_true] at h
  exact if_neg h

theorem stage3_blanked (hs : p ∈ v.state.servedBy c) (hb : v.state.isBlanked p = true) :
    Event.stage3 c v p = v.blank c p := by
  rw [mem_servedBy, ← Bool.and_eq_true] at hs
  exact (if_pos hs).trans (if_pos hb)

theorem stage3_not_blanked (hs : p ∈ v.state.servedBy c) (hb : ¬ v.state.isBlanked p = true) :
    Event.stage3 c v p =
      if (v.state.programme p).state = .resync ∧ (v.state.programme p).queue ≠ [] then v.walk c p else v := by
  rw [mem_servedBy, ← Bool.and_eq_true] at hs
  refine (if_pos hs).trans ((if_neg hb).trans ?_)
  by_cases hr : (v.state.programme p).state = .resync <;> cases hq : (v.state.programme p).queue <;> simp [hr]

/-- A blanked programme: its queue returns to the free list, its record is RESYNC and empty with held count 0, and the
carrier counts its units (R43). -/
theorem blank_eq :
    v.blank c p =
      { v with
        state :=
          { (v.state.setProgramme p { v.state.programme p with queue := [], state := .resync, held := 0 }).countResync c
              (v.state.programme p).queue.length with
            freeCells := v.state.freeCells ++ (v.state.programme p).queue.flatMap (·.cells) }
        directory := markBlanked p v.directory } := by
  simp only [Event.blank, State.emptyQueue, State.countResync, State.setCarrier_programme, State.freeUp_programme,
    State.setProgramme_self]
  simp only [State.freeUp, State.setProgramme, State.setCarrier, Vector.set_set, unitCells]
  rfl

/-- The queue falls into the units ahead of its first anchor and the rest (R44). -/
theorem takeWhile_dropWhile_notAnchor {gone left : List UnitRecord} (hg : ∀ u ∈ gone, u.kind ≠ .anchor)
    (hl : ∀ u, left.head? = some u → u.kind = .anchor) :
    (gone ++ left).takeWhile UnitRecord.notAnchor = gone ∧ (gone ++ left).dropWhile UnitRecord.notAnchor = left := by
  have hgone : ∀ u ∈ gone, u.notAnchor = true := fun u hu => bne_iff_ne.2 (hg u hu)
  rw [List.takeWhile_append_of_pos hgone, List.dropWhile_append_of_pos hgone]
  cases left with
  | nil => simp
  | cons u left => simp [UnitRecord.notAnchor, hl u rfl]

/-- The walk: the units ahead of the first anchor return to the free list and are counted, and an anchor at the head makes
the programme LIVE (R44). -/
theorem walk_eq {gone left : List UnitRecord} (hq : (v.state.programme p).queue = gone ++ left)
    (hg : ∀ u ∈ gone, u.kind ≠ .anchor) (hl : ∀ u, left.head? = some u → u.kind = .anchor) :
    v.walk c p =
      { v with
        state :=
          { (v.state.setProgramme p
              { v.state.programme p with
                queue := left, state := if left = [] then .resync else .live }).countResync c gone.length with
            freeCells := v.state.freeCells ++ gone.flatMap (·.cells) }
        directory := if gone = [] then v.directory else markRepeat p v.directory } := by
  obtain ⟨htake, hdrop⟩ := takeWhile_dropWhile_notAnchor hg hl
  simp only [Event.walk, hq, htake, hdrop, List.isEmpty_iff]
  rfl

end

end Sys2Proof.Machine

namespace Sys2Proof.Settled

open Sys2Proof.Machine

/-- Settles O46: stage 3 by its three cases, blanking by `blank_eq`, the walk by `walk_eq`. -/
theorem blankingAndWalk : Obligations.BlankingAndWalk := by
  intro c p v s k flagged counted blanks
  have hblanks : s.isBlanked p = true ↔ blanks := by
    simp only [isBlanked_iff, Group.blanks_iff]
    rfl
  refine ⟨stage3_not_served c v p, fun hs hb => ?_, fun hs hb hk => ?_, fun gone left hs hb hk hne hq hg hl => ?_⟩
  · exact (stage3_blanked c v p hs (hblanks.2 hb)).trans (blank_eq c v p)
  · rw [stage3_not_blanked c v p hs (mt hblanks.1 hb), if_neg]
    rintro ⟨hr, hq⟩
    rcases hk with h | h
    · cases hr.symm.trans h
    · exact hq h
  · rw [stage3_not_blanked c v p hs (mt hblanks.1 hb), if_pos ⟨hk, hne⟩]
    exact walk_eq c v p hq hg hl

end Sys2Proof.Settled

/-! SUPPORT. The minimum pass of an allocation event (R45 to R51): the candidates, the order in which they are demoted, what
a demotion does, and the survivors. -/

namespace Sys2Proof.Machine

/-! ### The candidates (R45, R46) -/

/-- A LIVE programme of the carrier with a unit at the head of its queue makes a candidate (R45). -/
theorem candidate_eq_some_iff {s : State} {c : CarrierNo} {p : ProgrammeNo} {x : Candidate} :
    s.candidate c p = some x ↔ ∃ d u rest, (s.programme p).state = .live ∧ (s.programme p).definition = some d
      ∧ d.carrier = c ∧ (s.programme p).queue = u :: rest ∧ x = candidateOf p d u := by
  unfold State.candidate Programme.names
  generalize s.programme p = k
  obtain ⟨state, definition, -, -, -, queue⟩ := k
  cases definition with
  | none => simp
  | some d =>
      cases queue with
      | nil => simp
      | cons u rest => by_cases hs : state = .live <;> by_cases hc : d.carrier = c <;> simp [hs, hc, eq_comm (b := x)]

theorem mem_candidatesOf {s : State} {c : CarrierNo} {x : Candidate} :
    x ∈ s.candidatesOf c ↔ ∃ p d u rest, (s.programme p).state = .live ∧ (s.programme p).definition = some d
      ∧ d.carrier = c ∧ (s.programme p).queue = u :: rest ∧ x = candidateOf p d u := by
  simp only [State.candidatesOf, List.mem_filterMap, List.mem_finRange, true_and, candidate_eq_some_iff]

/-- Candidates in ascending programme number, one for a programme. -/
abbrev Ascending (cs : List Candidate) : Prop := cs.Pairwise (fun x y => x.programme < y.programme)

theorem ascending_nodup {cs : List Candidate} (h : Ascending cs) : (cs.map (·.programme)).Nodup :=
  List.pairwise_map.2 (h.imp fun hlt => ne_of_lt hlt)

/-- The order rests on the programme numbers alone. -/
theorem Ascending.congr {cs ds : List Candidate} (h : Ascending cs)
    (hd : ds.map (·.programme) = cs.map (·.programme)) : Ascending ds := by
  have hp := List.pairwise_map.2 h
  rw [← hd] at hp
  exact List.pairwise_map.1 hp

/-- The candidates stand in ascending programme number (R45). -/
theorem candidatesOf_ascending (s : State) (c : CarrierNo) : Ascending (s.candidatesOf c) := by
  rw [Ascending, State.candidatesOf, List.pairwise_filterMap]
  refine (List.pairwise_lt_finRange 48).imp fun {p q} hpq x hx y hy => ?_
  rwa [candidate_programme hx, candidate_programme hy]

/-! ### The order of demotion (R47) -/

theorem UnitKind.step_inj {k l : UnitKind} : k.step = l.step ↔ k = l := by
  cases k <;> cases l <;> decide

theorem demotesBefore_iff {x y : Candidate} :
    demotesBefore x y = true ↔ x.kind.step < y.kind.step ∨ (x.kind.step = y.kind.step ∧
      (x.weight < y.weight ∨ (x.weight = y.weight ∧ y.programme.val ≤ x.programme.val))) := by
  simp [demotesBefore]

/-- The demotable candidates in their order of demotion. -/
def demotables (cs : List Candidate) : List Candidate := sortBy demotesBefore (cs.filter (·.demotable))

theorem demotables_perm (cs : List Candidate) : (demotables cs).Perm (cs.filter (·.demotable)) := sortBy_perm _ _

theorem demotables_sorted (cs : List Candidate) : (demotables cs).Pairwise (fun x y => demotesBefore x y = true) := by
  refine sortBy_sorted _ (fun x y => ?_) (fun x y z hxy hyz => ?_) _
  · rw [demotesBefore_iff, demotesBefore_iff]; omega
  · rw [demotesBefore_iff] at hxy hyz ⊢; omega

theorem grantSum_cons (x : Candidate) (xs : List Candidate) : grantSum (x :: xs) = x.grant + grantSum xs := rfl

theorem grantSum_append (xs ys : List Candidate) : grantSum (xs ++ ys) = grantSum xs + grantSum ys := by
  simp [grantSum]

/-- Where a demotable candidate is spared, the pass has stopped: what is left of the sum is within the pool (R47). -/
theorem demoteWhile_enough {pool : Nat} {spared : List Candidate} (hne : spared ≠ []) :
    ∀ (xs : List Candidate) (sum : Nat), demoteWhile pool sum xs ++ spared = xs →
      sum ≤ pool + grantSum (demoteWhile pool sum xs)
  | [], sum, h => absurd (List.append_eq_nil_iff.1 h).2 hne
  | x :: xs, sum, h => by
      unfold demoteWhile at h ⊢
      split
      · omega
      · next hsum =>
          rw [if_neg hsum, List.cons_append, List.cons.injEq] at h
          have := demoteWhile_enough hne xs (sum - x.grant) h.2
          rw [grantSum_cons]
          omega

/-- The last candidate demoted is demoted since what the others before it leave of the sum is above the pool (R47). -/
theorem demoteWhile_needed {pool : Nat} {last : Candidate} :
    ∀ (xs first : List Candidate) (sum : Nat), demoteWhile pool sum xs = first ++ [last] → pool + grantSum first < sum
  | [], first, sum, h => by simp [demoteWhile] at h
  | x :: xs, first, sum, h => by
      unfold demoteWhile at h
      split at h
      · simp at h
      · next hsum =>
          cases first with
          | nil => exact Nat.lt_of_not_le hsum
          | cons y first =>
              rw [List.cons_append, List.cons.injEq] at h
              have := demoteWhile_needed xs first (sum - x.grant) h.2
              rw [grantSum_cons, ← h.1]
              omega

/-- The demotions are a first part of the demotable candidates in their order (R47). -/
theorem demotions_spared (pool : Nat) (cs : List Candidate) : ∃ spared, demotions pool cs ++ spared = demotables cs
    ∧ (spared ≠ [] → grantSum cs ≤ pool + grantSum (demotions pool cs)) := by
  obtain ⟨spared, h⟩ := demoteWhile_prefix pool (grantSum cs) (demotables cs)
  exact ⟨spared, h, fun hne => demoteWhile_enough hne _ _ h⟩

/-- A demoted candidate is a candidate. -/
theorem demotions_subset (pool : Nat) (cs : List Candidate) : demotions pool cs ⊆ cs := fun _ hx =>
  List.mem_of_mem_filter ((demotables_perm cs).subset ((demoteWhile_prefix pool _ _).subset hx))

/-! ### A demotion (R48 to R50) -/

/-- The head unit leaves its queue for the free list. -/
theorem dropHead_eq {s : State} {p : ProgrammeNo} {u : UnitRecord} {rest : List UnitRecord}
    (h : (s.programme p).queue = u :: rest) :
    s.dropHead p = (s.setProgramme p { s.programme p with queue := rest }).freeUp u.cells := by
  simp [State.dropHead, h, unitCells]

section
variable {c : CarrierNo} {v : Event} {x : Candidate} {u : UnitRecord} {rest : List UnitRecord}

theorem demote_bridge (hk : x.kind = .bridge) (h : (v.state.programme x.programme).queue = u :: rest) :
    Event.demote c v x =
      { v with
        state :=
          ((v.state.setProgramme x.programme { v.state.programme x.programme with queue := rest }).modCounters c
            (fun n => { n with bridgesDropped := count32 n.bridgesDropped })).freeUp u.cells
        directory := markRepeat x.programme v.directory } := by
  simp only [Event.demote, hk, Event.dropBridge, dropHead_eq h]
  rfl

theorem demote_forward (hk : x.kind = .forward) (h : (v.state.programme x.programme).queue = u :: rest) :
    Event.demote c v x =
      { v with
        state :=
          ((v.state.setProgramme x.programme
              { v.state.programme x.programme with queue := rest, state := .resync }).modCounters c
            (fun n => { n with forwardsDropped := count32 n.forwardsDropped })).freeUp u.cells
        directory := markRepeat x.programme v.directory } := by
  simp only [Event.demote, hk, Event.dropForward, dropHead_eq h, State.modCounters, State.setCarrier_programme,
    State.freeUp_programme, State.setProgramme_self]
  simp only [State.freeUp, State.setProgramme, State.setCarrier, Vector.set_set]
  rfl

theorem demote_held (hk : x.kind = .anchor) (h : (v.state.programme x.programme).held < 2) :
    Event.demote c v x =
      { state :=
          (v.state.setProgramme x.programme
              { v.state.programme x.programme with held := (v.state.programme x.programme).held + 1 }).modCounters c
            (fun n => { n with anchorsHeld := count32 n.anchorsHeld })
        directory := markHeld x.programme v.directory
        degraded := true } := by
  simp only [Event.demote, hk, if_pos h]
  rfl

theorem demote_discarded (hk : x.kind = .anchor) (hh : 2 ≤ (v.state.programme x.programme).held)
    (h : (v.state.programme x.programme).queue = u :: rest) :
    Event.demote c v x =
      { state :=
          ((v.state.setProgramme x.programme
              { v.state.programme x.programme with queue := rest, state := .resync, held := 0 }).modCounters c
            (fun n => { n with anchorsDiscarded := count32 n.anchorsDiscarded })).freeUp u.cells
        directory := markRepeat x.programme v.directory
        degraded := true } := by
  simp only [Event.demote, hk, if_neg (Nat.not_lt.2 hh), Event.discardAnchor, dropHead_eq h, State.modCounters,
    State.setCarrier_programme, State.freeUp_programme, State.setProgramme_self]
  simp only [State.freeUp, State.setProgramme, State.setCarrier, Vector.set_set]
  rfl

end

/-! ### The survivors (R51) -/

theorem mem_survivorsOf {cs gone : List Candidate} {x : Candidate} :
    x ∈ survivorsOf cs gone ↔ x ∈ cs ∧ ∀ y ∈ gone, y.programme ≠ x.programme := by
  simp [survivorsOf]

theorem survivorsOf_eq (cs gone : List Candidate) :
    survivorsOf cs gone = cs.filter (fun x => decide (∀ y ∈ gone, y.programme ≠ x.programme)) :=
  List.filter_congr fun x _ => by rw [Bool.eq_iff_iff]; simp

theorem clearHeld_programme (s : State) (x : Candidate) (p : ProgrammeNo) :
    (clearHeld s x).programme p =
      if x.programme = p ∧ x.kind = .anchor then { s.programme p with held := 0 } else s.programme p := by
  unfold clearHeld
  by_cases hk : x.kind = .anchor
  · rw [if_pos hk, State.setProgramme_programme]
    by_cases hp : p = x.programme
    · subst hp; simp [hk]
    · simp [hp, Ne.symm hp]
  · simp [hk]

/-- Held counts cleared one after another: programme records alone are written, the survivors' with an anchor (R51). -/
theorem clearHelds_eq : ∀ (xs : List Candidate) (s : State),
    xs.foldl clearHeld s = { s with programmes := (xs.foldl clearHeld s).programmes }
      ∧ ∀ p, (xs.foldl clearHeld s).programme p =
        if ∃ x ∈ xs, x.programme = p ∧ x.kind = .anchor then { s.programme p with held := 0 } else s.programme p
  | [], s => ⟨rfl, by simp⟩
  | x :: xs, s => by
      obtain ⟨hstate, hprog⟩ := clearHelds_eq xs (clearHeld s x)
      have hx : clearHeld s x = { s with programmes := (clearHeld s x).programmes } := by
        unfold clearHeld
        split <;> rfl
      rw [List.foldl_cons]
      refine ⟨hstate.trans (by rw [hx]), fun p => ?_⟩
      rw [hprog, clearHeld_programme]
      by_cases h1 : x.programme = p ∧ x.kind = .anchor <;>
        by_cases h2 : ∃ y ∈ xs, y.programme = p ∧ y.kind = .anchor <;> simp [h1, h2]

/-! ### Stages 3 and 4 together (R43 to R51) -/

namespace Event
variable (w : Event) (c : CarrierNo) (pool : Nat)

/-- The candidates that the minimum pass demotes after blanking and the walks (R47). -/
def gone : List Candidate := demotions pool (w.state.candidatesOf c)

/-- The event after the demotions (R48 to R50). -/
def demoted : Event := (w.gone c pool).foldl (Event.demote c) w

/-- The candidates that remain (R51). -/
def survivors : List Candidate := survivorsOf (w.state.candidatesOf c) (w.gone c pool)

/-- Stage 4 after an event `w` that stage 3 has left. -/
theorem select_eq {v w : Event} {c : CarrierNo} (h : (List.finRange 48).foldl (Event.stage3 c) v = w) (pool : Nat) :
    v.select c pool =
      ({ w.demoted c pool with state := (w.survivors c pool).foldl clearHeld (w.demoted c pool).state },
        w.survivors c pool) := by
  subst h; rfl

end Event

end Sys2Proof.Machine

namespace Sys2Proof.Settled

open Sys2Proof.Machine

/-- Settles O47: the candidates, what a selection writes beside its demotions, where the demotions end, each demotion. -/
theorem demotions : Obligations.Demotions := by
  refine ⟨fun c s => ⟨candidatesOf_ascending s c, fun x => ?_⟩, fun c pool v => ?_, fun pool cs => ?_,
    ?_⟩
  · exact mem_candidatesOf
  · dsimp only
    generalize hw : (List.finRange 48).foldl (Event.stage3 c) v = w
    obtain ⟨hstate, hprog⟩ := clearHelds_eq (w.survivors c pool) (w.demoted c pool).state
    rw [Event.select_eq hw]
    exact ⟨survivorsOf_eq _ _, hprog, congrArg (fun t => { w.demoted c pool with state := t }) hstate⟩
  · obtain ⟨spared, hspared, henough⟩ := demotions_spared pool cs
    refine ⟨⟨spared, ?_, ?_, henough⟩, demoteWhile_nil _ _ _, fun first last h => demoteWhile_needed _ _ _ h⟩
    · rw [hspared]; exact demotables_perm cs
    · rw [hspared]
      refine (demotables_sorted cs).imp fun {x y} h => ?_
      rw [demotesBefore_iff, UnitKind.step_inj] at h
      exact h
  · intro c v x u queue _ _ _ _ hq
    exact ⟨fun hk => demote_bridge hk hq, fun hk => demote_forward hk hq, fun hk hh => demote_held hk hh,
      fun hk hh => demote_discarded hk hh hq⟩

end Sys2Proof.Settled

/-! SUPPORT. The division of the pool among the survivors (R51 to R56): the share rounds and the remainder pass, what they
give away, and that grants rise within their caps. -/

namespace Sys2Proof.Machine

/-! ### The share rounds (R52, R53) -/

theorem shareTake_mul_le (pool weight : Nat) (x : Candidate) : shareTake pool weight x * weight ≤ pool * x.product := by
  unfold shareTake
  split
  · exact (Nat.mul_le_mul_right _ (Nat.min_le_left _ _)).trans (Nat.div_mul_le_self _ _)
  · simp

/-- A member takes no more than the room below its cap (R52). -/
theorem shareTake_le_room (pool weight : Nat) (x : Candidate) : shareTake pool weight x ≤ x.cap - x.grant := by
  unfold shareTake
  split
  · exact Nat.min_le_right _ _
  · exact Nat.zero_le _

theorem openWeight_cons (x : Candidate) (xs : List Candidate) :
    openWeight (x :: xs) = (if x.isOpen then x.product else 0) + openWeight xs := by
  unfold openWeight
  cases h : x.isOpen <;> simp [h]

theorem shareTakes_mul_le (pool weight : Nat) : ∀ cs : List Candidate,
    (cs.map (shareTake pool weight)).sum * weight ≤ pool * openWeight cs
  | [] => by simp
  | x :: xs => by
      have htail := shareTakes_mul_le pool weight xs
      have hhead : shareTake pool weight x * weight ≤ pool * (if x.isOpen then x.product else 0) := by
        by_cases h : x.isOpen = true
        · rw [if_pos h]; exact shareTake_mul_le pool weight x
        · simp [shareTake, h]
      rw [List.map_cons, List.sum_cons, Nat.add_mul, openWeight_cons, Nat.mul_add]
      exact Nat.add_le_add hhead htail

/-- The takes of a round, all from the same pool, stay within it (R52). -/
theorem roundTakes_le (pool : Nat) (cs : List Candidate) : roundTakes pool cs ≤ pool := by
  unfold roundTakes
  rcases Nat.eq_zero_or_pos (openWeight cs) with h | h
  · have hzero : ∀ x ∈ cs, shareTake pool (openWeight cs) x = 0 := fun x _ => by simp [shareTake, h]
    rw [List.map_congr_left hzero]
    simp
  · exact Nat.le_of_mul_le_mul_right (shareTakes_mul_le pool _ cs) h

theorem filter_length_lt_iff {α : Type} {P Q : α → Bool} (h : ∀ x, Q x = true → P x = true) : ∀ l : List α,
    (l.filter Q).length < (l.filter P).length ↔ ∃ x ∈ l, P x = true ∧ ¬ Q x = true
  | [] => by simp
  | x :: l => by
      have hle : (l.filter Q).length ≤ (l.filter P).length := (List.monotone_filter_right l h).length_le
      have ih := filter_length_lt_iff h l
      by_cases hq : Q x = true
      · simp [h x hq, hq, ih]
      · by_cases hp : P x = true
        · simpa [hp, hq] using Nat.lt_succ_of_le hle
        · simp [hp, hq, ih]

/-- A member reaches its cap in a round exactly where it takes the whole room below it (R53). -/
theorem reachedCap_iff (pool : Nat) (cs : List Candidate) :
    reachedCap cs (shareRound pool cs) = true ↔
      ∃ x ∈ cs, x.grant < x.cap ∧ x.grant + shareTake pool (openWeight cs) x = x.cap := by
  have hroom := shareTake_le_room pool (openWeight cs)
  have hafter : ((shareRound pool cs).filter (·.isOpen)).length =
      (cs.filter (fun x => decide (x.grant + shareTake pool (openWeight cs) x < x.cap))).length := by
    rw [shareRound, List.filter_map, List.length_map]
    rfl
  rw [reachedCap, decide_eq_true_iff, hafter, filter_length_lt_iff fun x hx => by
    simp only [Candidate.isOpen, decide_eq_true_eq] at hx ⊢; omega]
  refine exists_congr fun x => and_congr_right fun _ => ?_
  have := hroom x
  simp only [Candidate.isOpen, decide_eq_true_eq]
  omega

theorem shareRounds_succ (n pool : Nat) (cs : List Candidate) :
    shareRounds (n + 1) pool cs =
      if pool = 0 ∨ ∀ x ∈ cs, x.cap ≤ x.grant then (pool, cs)
      else if ∃ x ∈ cs, x.grant < x.cap ∧ x.grant + shareTake pool (openWeight cs) x = x.cap then
        shareRounds n (pool - roundTakes pool cs) (shareRound pool cs)
      else (pool - roundTakes pool cs, shareRound pool cs) := by
  have hclosed : cs.all (fun x => !x.isOpen) = true ↔ ∀ x ∈ cs, x.cap ≤ x.grant := by simp [Candidate.isOpen]
  rw [shareRounds]
  simp only [hclosed, reachedCap_iff]

/-! ### The remainder pass (R54, R55) -/

/-- How far a candidate lies behind the pointer, from 47 round to 0. -/
def Candidate.distance (pos : ProgrammeNo) (x : Candidate) : Nat := (x.programme.val + 48 - pos.val) % 48

theorem Candidate.distance_inj {pos : ProgrammeNo} {x y : Candidate} (h : x.distance pos = y.distance pos) :
    x.programme = y.programme := by
  unfold distance at h
  exact Fin.ext (by omega)

theorem Candidate.distance_of_le {pos : ProgrammeNo} {x : Candidate} (h : pos ≤ x.programme) :
    x.distance pos = x.programme.val - pos.val := by
  have hval : pos.val ≤ x.programme.val := h
  unfold distance
  omega

theorem Candidate.distance_of_lt {pos : ProgrammeNo} {x : Candidate} (h : x.programme < pos) :
    x.distance pos = x.programme.val + 48 - pos.val := by
  have hval : x.programme.val < pos.val := h
  unfold distance
  omega

/-- In ascending order, what is found first lies before every other that meets the condition. -/
theorem find_first {cs : List Candidate} (hcs : Ascending cs)
    {f : Candidate → Bool} {x : Candidate} (h : cs.find? f = some x) :
    x ∈ cs ∧ f x = true ∧ ∀ y ∈ cs, f y = true → x.programme ≤ y.programme := by
  obtain ⟨hx, before, behind, rfl, hbefore⟩ := List.find?_eq_some_iff_append.1 h
  refine ⟨by simp, hx, fun y hy hfy => ?_⟩
  rcases List.mem_append.1 hy with hy | hy
  · exact absurd hfy (by simpa using hbefore y hy)
  · rcases List.mem_cons.1 hy with rfl | hy
    · exact le_rfl
    · exact le_of_lt ((List.pairwise_cons.1 (List.pairwise_append.1 hcs).2.1).1 y hy)

/-- With no member in the open set there is no recipient. -/
theorem nextRecipient_none {pos : ProgrammeNo} {cs : List Candidate} (h : nextRecipient pos cs = none) :
    ∀ x ∈ cs, x.cap ≤ x.grant := by
  unfold nextRecipient at h
  split at h
  · cases h
  · simpa [Candidate.isOpen] using h

/-- The recipient is a member of the open set, the first at or after the pointer (R54, R55). -/
theorem nextRecipient_some {pos : ProgrammeNo} {cs : List Candidate}
    (hcs : Ascending cs) {x : Candidate} (h : nextRecipient pos cs = some x) :
    x ∈ cs ∧ x.grant < x.cap ∧ ∀ y ∈ cs, y.grant < y.cap → x.distance pos ≤ y.distance pos := by
  unfold nextRecipient at h
  split at h
  · next y hy =>
      cases h
      obtain ⟨hx, hf, hfirst⟩ := find_first hcs hy
      simp only [Candidate.isOpen, Bool.and_eq_true, decide_eq_true_eq] at hf hfirst
      refine ⟨hx, hf.1, fun y hy hopen => ?_⟩
      rw [Candidate.distance_of_le hf.2]
      by_cases hpos : pos ≤ y.programme
      · rw [Candidate.distance_of_le hpos]
        exact Nat.sub_le_sub_right (hfirst y hy ⟨hopen, hpos⟩) _
      · rw [Candidate.distance_of_lt (not_le.1 hpos)]
        exact Nat.sub_le_sub_right (by omega) _
  · next hnone =>
      obtain ⟨hx, hf, hfirst⟩ := find_first hcs h
      simp only [Candidate.isOpen, decide_eq_true_eq] at hf hfirst
      have hbelow : ∀ y ∈ cs, y.grant < y.cap → y.programme < pos := by
        simpa [Candidate.isOpen] using hnone
      refine ⟨hx, hf, fun y hy hopen => ?_⟩
      rw [Candidate.distance_of_lt (hbelow x hx hf), Candidate.distance_of_lt (hbelow y hy hopen)]
      exact Nat.sub_le_sub_right (Nat.add_le_add_right (hfirst y hy hopen) _) _

theorem afterProgramme_eq (p : ProgrammeNo) : afterProgramme p = if p.val = 47 then 0 else p + 1 := by
  revert p; decide

/-- With the open set empty the rest of the pool is filler, and the pointer stays (R55, R56). -/
theorem remainderPass_closed {cs : List Candidate} (h : ∀ x ∈ cs, x.cap ≤ x.grant) (n : Nat) (pos : ProgrammeNo) :
    remainderPass n pos cs = (n, pos, cs) := by
  have hopen : ∀ f : Candidate → Bool, cs.find? (fun x => x.isOpen && f x) = none := fun f => by
    rw [List.find?_eq_none]
    intro x hx
    simp [Candidate.isOpen, h x hx]
  have hnone : nextRecipient pos cs = none := by
    unfold nextRecipient
    rw [hopen]
    simpa using hopen fun _ => true
  cases n with
  | zero => rfl
  | succ n => rw [remainderPass, hnone]

/-- A slice goes to the member of the open set that is nearest behind the pointer (R54, R55). -/
theorem remainderPass_open {cs : List Candidate} (hcs : Ascending cs)
    {pos : ProgrammeNo} {x : Candidate} (hx : x ∈ cs) (hopen : x.grant < x.cap)
    (hnear : ∀ y ∈ cs, y.grant < y.cap → x.distance pos ≤ y.distance pos) (n : Nat) :
    remainderPass (n + 1) pos cs = remainderPass n (afterProgramme x.programme) (giveSlice x.programme cs) := by
  cases hr : nextRecipient pos cs with
  | none => exact absurd hopen (Nat.not_lt.2 (nextRecipient_none hr x hx))
  | some y =>
      obtain ⟨hy, hyopen, hynear⟩ := nextRecipient_some hcs hr
      have hxy := Candidate.distance_inj (Nat.le_antisymm (hnear y hy hyopen) (hynear x hx hopen))
      rw [remainderPass, hr, hxy]

/-! ### What is given away (R52 to R56) -/

theorem grantSum_shareRound (pool : Nat) (cs : List Candidate) :
    grantSum (shareRound pool cs) = grantSum cs + roundTakes pool cs := by
  unfold grantSum shareRound roundTakes
  rw [List.map_map, ← List.sum_map_add]
  rfl

/-- What the rounds take from the pool they add to the grants. -/
theorem shareRounds_sum : ∀ (n pool : Nat) (cs : List Candidate),
    (shareRounds n pool cs).1 + grantSum (shareRounds n pool cs).2 = pool + grantSum cs
  | 0, _, _ => rfl
  | n + 1, pool, cs => by
      have hround := grantSum_shareRound pool cs
      have hle := roundTakes_le pool cs
      rw [shareRounds_succ]
      split
      · rfl
      · split
        · rw [shareRounds_sum n]; omega
        · dsimp only; omega

theorem giveSlice_of_absent {p : ProgrammeNo} {cs : List Candidate} (h : ∀ x ∈ cs, x.programme ≠ p) :
    giveSlice p cs = cs := by
  unfold giveSlice
  exact (List.map_congr_left fun x hx => if_neg (h x hx)).trans (List.map_id cs)

theorem grantSum_giveSlice : ∀ {cs : List Candidate} {x : Candidate}, (cs.map (·.programme)).Nodup → x ∈ cs →
    grantSum (giveSlice x.programme cs) = grantSum cs + 1
  | y :: cs, x, hn, hx => by
      obtain ⟨hy, hn⟩ := List.nodup_cons.1 hn
      have hcons : giveSlice x.programme (y :: cs) =
          (if y.programme = x.programme then { y with grant := y.grant + 1 } else y) :: giveSlice x.programme cs := rfl
      rw [hcons, grantSum_cons, grantSum_cons]
      rcases List.mem_cons.1 hx with rfl | hx
      · rw [giveSlice_of_absent fun z hz e => hy (List.mem_map.2 ⟨z, hz, e⟩), if_pos rfl]
        dsimp only; omega
      · rw [if_neg fun e => hy (List.mem_map.2 ⟨x, hx, e.symm⟩), grantSum_giveSlice hn hx, Nat.add_assoc]

theorem giveSlice_ascending {cs : List Candidate} (h : Ascending cs) (p : ProgrammeNo) : Ascending (giveSlice p cs) :=
  h.congr (giveSlice_programmes p cs)

theorem shareRounds_ascending {cs : List Candidate} (h : Ascending cs) (n pool : Nat) :
    Ascending (shareRounds n pool cs).2 := h.congr (shareRounds_programmes n pool cs)

/-- The pass gives each slice of the pool to a grant or leaves it as filler (R54 to R56). -/
theorem remainderPass_sum : ∀ (n : Nat) (pos : ProgrammeNo) (cs : List Candidate),
    Ascending cs →
      (remainderPass n pos cs).1 + grantSum (remainderPass n pos cs).2.2 = n + grantSum cs
  | 0, _, _, _ => rfl
  | n + 1, pos, cs, hcs => by
      rw [remainderPass]
      split
      · rfl
      · next x hx =>
          rw [remainderPass_sum n _ _ (giveSlice_ascending hcs _),
            grantSum_giveSlice (ascending_nodup hcs) (nextRecipient_some hcs hx).1]
          omega

theorem divide_eq (pool : Nat) (pos : ProgrammeNo) (cs : List Candidate) :
    divide pool pos cs =
      remainderPass (shareRounds 4 (pool - grantSum cs) cs).1 pos (shareRounds 4 (pool - grantSum cs) cs).2 := rfl

/-- The grants and the filler together are the pool (R51 to R56). -/
theorem divide_sum {pool : Nat} {cs : List Candidate} (hcs : Ascending cs)
    (hpool : grantSum cs ≤ pool) (pos : ProgrammeNo) :
    (divide pool pos cs).1 + grantSum (divide pool pos cs).2.2 = pool := by
  rw [divide_eq, remainderPass_sum _ _ _ (shareRounds_ascending hcs _ _), shareRounds_sum]
  omega

/-! ### Grants rise within their caps (R52, R54) -/

/-- `y` is `x` with a grant that has risen within the cap. -/
structure Candidate.Raised (x y : Candidate) : Prop where
  same : y = { x with grant := y.grant }
  grew : x.grant ≤ y.grant
  capped : x.grant ≤ x.cap → y.grant ≤ x.cap

theorem Candidate.Raised.refl (x : Candidate) : x.Raised x := ⟨rfl, le_rfl, id⟩

theorem Candidate.Raised.trans {x y z : Candidate} (h : x.Raised y) (h' : y.Raised z) : x.Raised z where
  same := by rw [h'.same, h.same]
  grew := h.grew.trans h'.grew
  capped hx := by
    have hcap : y.cap = x.cap := by rw [h.same]
    exact hcap ▸ h'.capped (hcap ▸ h.capped hx)

/-- Each member of a list comes from one of another whose grant it has raised. -/
def RaisedFrom (cs ds : List Candidate) : Prop := ∀ y ∈ ds, ∃ x ∈ cs, x.Raised y

theorem RaisedFrom.refl (cs : List Candidate) : RaisedFrom cs cs := fun y hy => ⟨y, hy, .refl y⟩

theorem RaisedFrom.trans {cs ds es : List Candidate} (h : RaisedFrom cs ds) (h' : RaisedFrom ds es) : RaisedFrom cs es :=
  fun z hz =>
    let ⟨y, hy, hyz⟩ := h' z hz
    let ⟨x, hx, hxy⟩ := h y hy
    ⟨x, hx, hxy.trans hyz⟩

theorem shareRound_raised (pool : Nat) (cs : List Candidate) : RaisedFrom cs (shareRound pool cs) := fun y hy => by
  obtain ⟨x, hx, rfl⟩ := List.mem_map.1 hy
  have := shareTake_le_room pool (openWeight cs) x
  exact ⟨x, hx, rfl, Nat.le_add_right _ _, fun _ => by dsimp only; omega⟩

theorem shareRounds_raised : ∀ (n pool : Nat) (cs : List Candidate), RaisedFrom cs (shareRounds n pool cs).2
  | 0, _, cs => .refl cs
  | n + 1, pool, cs => by
      rw [shareRounds_succ]
      split
      · exact .refl cs
      · split
        · exact (shareRound_raised pool cs).trans (shareRounds_raised n _ _)
        · exact shareRound_raised pool cs

theorem giveSlice_raised {cs : List Candidate} {x : Candidate} (hn : (cs.map (·.programme)).Nodup) (hx : x ∈ cs)
    (hopen : x.grant < x.cap) : RaisedFrom cs (giveSlice x.programme cs) := fun y hy => by
  obtain ⟨z, hz, rfl⟩ := List.mem_map.1 hy
  refine ⟨z, hz, ?_⟩
  split
  · next h =>
      cases List.inj_on_of_nodup_map hn hz hx h
      exact ⟨rfl, Nat.le_succ _, fun _ => hopen⟩
  · exact .refl z

theorem remainderPass_raised : ∀ (n : Nat) (pos : ProgrammeNo) (cs : List Candidate),
    Ascending cs → RaisedFrom cs (remainderPass n pos cs).2.2
  | 0, _, cs, _ => .refl cs
  | n + 1, pos, cs, hcs => by
      rw [remainderPass]
      split
      · exact .refl cs
      · next x hx =>
          obtain ⟨hmem, hopen, -⟩ := nextRecipient_some hcs hx
          exact (giveSlice_raised (ascending_nodup hcs) hmem hopen).trans
            (remainderPass_raised n _ _ (giveSlice_ascending hcs _))

/-- The division raises grants within their caps and changes nothing else (R51 to R56). -/
theorem divide_raised {cs : List Candidate} (hcs : Ascending cs) (pool : Nat)
    (pos : ProgrammeNo) : RaisedFrom cs (divide pool pos cs).2.2 := by
  rw [divide_eq]
  exact (shareRounds_raised _ _ cs).trans (remainderPass_raised _ _ _ (shareRounds_ascending hcs _ _))

end Sys2Proof.Machine

/-! SUPPORT. An allocation event stage by stage (R38 to R59): the takes, what the stages leave of the queues, the survivors
and their grants, the list built. -/

namespace Sys2Proof.Machine

/-! ### The takes within their reservations (R40, R41, R118, R129) -/

theorem takeEntries_slices (c : CarrierNo) (b : Time) : ∀ (es : List CarouselEntry) (acc : List AccessCopy × State),
    accessSlices (es.foldl (takeEntry c b) acc).1 = accessSlices acc.1 + (es.map (·.slices)).sum
  | [], _ => rfl
  | e :: es, acc => by
      rw [List.foldl_cons, takeEntries_slices c b es]
      simp [takeEntry, accessSlices, State.accessCopy, Nat.add_assoc]

/-- The carousel take stays within the access reserve (R40, R118). -/
theorem accessTake_slices_le (s : State) (c : CarrierNo) (b : Time) :
    accessSlices (s.accessTake c b).1 ≤ (s.carrier c).spec.reserve := by
  rw [State.accessTake, takeEntries_slices]
  simpa [accessSlices, State.carouselTake] using takeWithin_sum (s.carrier c).spec.reserve _

/-- The takes of ports 0 to 3, one after another (R41). -/
def State.portTakes (s : State) (c : CarrierNo) : List SubscriberCopy × State :=
  let port0 := s.takeFrom c 0
  let port1 := port0.2.takeFrom c 1
  let port2 := port1.2.takeFrom c 2
  let port3 := port2.2.takeFrom c 3
  (port0.1 ++ port1.1 ++ port2.1 ++ port3.1, port3.2)

theorem subscriberTake_eq (s : State) (c : CarrierNo) : s.subscriberTake c = s.portTakes c := rfl

theorem takeFrom_length_le (s : State) (c : CarrierNo) (p : PortNo) :
    (s.takeFrom c p).1.length ≤ (s.carrier c).allowances[p.val] := by
  refine (scanQueue_length p c _ _).trans_le (Nat.min_le_left _ _)

theorem sum_toList_four : ∀ v : Vector Nat 4, v.toList.sum = v[0] + v[1] + v[2] + v[3]
  | ⟨⟨[a, b, c, d]⟩, _⟩ => by simp [Nat.add_assoc]

/-- The subscriber take stays within the four allowances (R41). -/
theorem portTakes_length_le (s : State) (c : CarrierNo) :
    (s.portTakes c).1.length ≤ (s.carrier c).allowances.toList.sum := by
  have h0 := takeFrom_length_le s c 0
  have h1 := takeFrom_length_le (s.takeFrom c 0).2 c 1
  have h2 := takeFrom_length_le ((s.takeFrom c 0).2.takeFrom c 1).2 c 2
  have h3 := takeFrom_length_le (((s.takeFrom c 0).2.takeFrom c 1).2.takeFrom c 2).2 c 3
  simp only [State.portTakes, List.length_append, sum_toList_four]
  exact Nat.add_le_add (Nat.add_le_add (Nat.add_le_add h0 h1) h2) h3

/-! ### What the stages leave of the queues and of the manager port -/

/-- From `s` to `t` each queue has lost units from its head at most, and the manager port is as it was. -/
structure QueuesShrink (s t : State) : Prop where
  queue : ∀ p, (t.programme p).queue <:+ (s.programme p).queue
  manager : t.manager = s.manager

theorem QueuesShrink.refl (s : State) : QueuesShrink s s := ⟨fun _ => List.suffix_rfl, rfl⟩

theorem QueuesShrink.trans (s t u : State) (h : QueuesShrink s t) (h' : QueuesShrink t u) : QueuesShrink s u :=
  ⟨fun p => (h'.queue p).trans (h.queue p), h'.manager.trans h.manager⟩

theorem QueuesShrink.of_eq {s t : State} (hp : t.programmes = s.programmes) (hm : t.manager = s.manager) :
    QueuesShrink s t where
  queue p := by simp only [State.programme, hp, List.suffix_rfl]
  manager := hm

theorem QueuesShrink.setProgramme {s : State} {p : ProgrammeNo} {k : Programme}
    (h : k.queue <:+ (s.programme p).queue) : QueuesShrink s (s.setProgramme p k) where
  queue q := by
    rw [State.setProgramme_programme]
    split
    · next hq => exact hq ▸ h
    · exact List.suffix_rfl
  manager := rfl

theorem takeEntry_queuesShrink (c : CarrierNo) (b : Time) (acc : List AccessCopy × State) (e : CarouselEntry) :
    QueuesShrink acc.2 (takeEntry c b acc e).2 := by
  have hair : ∀ (s : State) g ph m, QueuesShrink s (s.reportAiring g ph m c) := fun s g ph m => by
    obtain ⟨gs, h⟩ := reportAiring_shape s g ph m c
    rw [h]
    exact .of_eq rfl rfl
  refine .trans _ _ _ ?_ (hair _ _ _ _)
  exact .of_eq rfl rfl

theorem accessTake_queuesShrink (s : State) (c : CarrierNo) (b : Time) : QueuesShrink s (s.accessTake c b).2 :=
  foldl_rel (fun x y : List AccessCopy × State => QueuesShrink x.2 y.2) (fun _ => .refl _) (fun _ _ _ => .trans _ _ _) _
    (takeEntry_queuesShrink c b) _ ([], s)

theorem takeFrom_queuesShrink (s : State) (c : CarrierNo) (p : PortNo) : QueuesShrink s (s.takeFrom c p).2 :=
  .of_eq rfl rfl

theorem portTakes_queuesShrink (s : State) (c : CarrierNo) : QueuesShrink s (s.portTakes c).2 := by
  refine .trans _ _ _ ?_ (takeFrom_queuesShrink _ c 3)
  refine .trans _ _ _ ?_ (takeFrom_queuesShrink _ c 2)
  exact .trans _ _ _ (takeFrom_queuesShrink s c 0) (takeFrom_queuesShrink _ c 1)

theorem dropHead_queuesShrink (s : State) (p : ProgrammeNo) : QueuesShrink s (s.dropHead p) :=
  .trans _ _ _ (.setProgramme (List.drop_suffix 1 _)) (.of_eq rfl rfl)

theorem stage3_queuesShrink (c : CarrierNo) (v : Event) (p : ProgrammeNo) :
    QueuesShrink v.state (Event.stage3 c v p).state := by
  unfold Event.stage3
  dsimp only
  split
  · split
    · rw [blank_eq]
      refine .trans _ _ _ (.setProgramme (p := p) ?_) (.of_eq rfl rfl)
      exact List.nil_suffix
    · split
      · refine .trans _ _ _ (.setProgramme (p := p) ?_) (.of_eq rfl rfl)
        exact List.dropWhile_suffix _
      · exact .refl _
  · exact .refl _

theorem demote_queuesShrink (c : CarrierNo) (v : Event) (x : Candidate) :
    QueuesShrink v.state (Event.demote c v x).state := by
  have drop : ∀ f : Counters → Counters, QueuesShrink v.state ((v.state.dropHead x.programme).modCounters c f) :=
    fun f => .trans _ _ _ (dropHead_queuesShrink _ _) (.of_eq rfl rfl)
  unfold Event.demote Event.dropBridge
  split
  · dsimp only
    exact drop _
  · exact .trans _ _ _ (drop _) (.setProgramme List.suffix_rfl)
  · split
    · refine .trans _ _ _ ?_ (.setProgramme List.suffix_rfl)
      exact .of_eq rfl rfl
    · exact .trans _ _ _ (drop _) (.setProgramme List.suffix_rfl)

theorem clearHeld_queuesShrink (s : State) (x : Candidate) : QueuesShrink s (clearHeld s x) := by
  unfold clearHeld
  split
  · exact .setProgramme List.suffix_rfl
  · exact .refl s

theorem select_queuesShrink (v : Event) (c : CarrierNo) (pool : Nat) :
    QueuesShrink v.state (v.select c pool).1.state := by
  have events : ∀ {α : Type} (f : Event → α → Event), (∀ v a, QueuesShrink v.state (f v a).state) →
      ∀ (l : List α) (v : Event), QueuesShrink v.state (l.foldl f v).state := fun f h l v =>
    foldl_rel (fun v w : Event => QueuesShrink v.state w.state) (fun _ => .refl _) (fun _ _ _ => .trans _ _ _) f h l v
  generalize hw : (List.finRange 48).foldl (Event.stage3 c) v = w
  rw [Event.select_eq hw]
  have hdemoted : QueuesShrink w.state (w.demoted c pool).state := events _ (demote_queuesShrink c) _ w
  exact .trans _ _ _ (hw ▸ events _ (stage3_queuesShrink c) _ v)
    (.trans _ _ _ hdemoted (foldl_rel QueuesShrink .refl .trans _ clearHeld_queuesShrink _ _))

/-! ### The degraded flag (R50, R59) -/

theorem stage3_degraded (c : CarrierNo) (v : Event) (p : ProgrammeNo) : (Event.stage3 c v p).degraded = v.degraded := by
  unfold Event.stage3
  dsimp only
  split
  · split
    · rfl
    · split <;> rfl
  · rfl

theorem demote_degraded (c : CarrierNo) (v : Event) (x : Candidate) :
    (Event.demote c v x).degraded = true ↔ v.degraded = true ∨ x.kind = .anchor := by
  unfold Event.demote
  cases x.kind
  case bridge => simp [Event.dropBridge]
  case forward => simp [Event.dropForward]
  case anchor =>
    dsimp only
    split <;> simp [Event.holdAnchor, Event.discardAnchor]

theorem demotes_degraded (c : CarrierNo) : ∀ (l : List Candidate) (v : Event),
    (l.foldl (Event.demote c) v).degraded = true ↔ v.degraded = true ∨ ∃ x ∈ l, x.kind = .anchor
  | [], v => by simp
  | x :: l, v => by
      rw [List.foldl_cons, demotes_degraded c l, demote_degraded]
      simp [or_assoc]

/-- A selection is degraded exactly where it has held or discarded an anchor (R59). -/
theorem select_degraded (v : Event) (c : CarrierNo) (pool : Nat) :
    (v.select c pool).1.degraded = true ↔ v.degraded = true ∨
      ∃ x ∈ demotions pool (((List.finRange 48).foldl (Event.stage3 c) v).state.candidatesOf c), x.kind = .anchor := by
  have hw3 := foldl_keeps Event.degraded (Event.stage3 c) (stage3_degraded c) (List.finRange 48) v
  generalize hw : (List.finRange 48).foldl (Event.stage3 c) v = w at hw3 ⊢
  rw [Event.select_eq hw, ← hw3]
  exact demotes_degraded c _ w

/-! ### The survivors (R45, R46, R51) -/

/-- The candidate is the one that its programme's head unit makes in this state. -/
def State.stands (s : State) (c : CarrierNo) (x : Candidate) : Prop :=
  ∃ d u rest, (s.programme x.programme).definition = some d ∧ d.carrier = c
    ∧ (s.programme x.programme).queue = u :: rest ∧ x = candidateOf x.programme d u

theorem stands_of_candidate {s : State} {c : CarrierNo} {x : Candidate} (h : x ∈ s.candidatesOf c) : s.stands c x := by
  obtain ⟨p, d, u, rest, -, hd, hc, hq, rfl⟩ := mem_candidatesOf.1 h
  exact ⟨d, u, rest, hd, hc, hq, rfl⟩

theorem stands_congr {s t : State} {c : CarrierNo} {x : Candidate}
    (hd : (t.programme x.programme).definition = (s.programme x.programme).definition)
    (hq : (t.programme x.programme).queue = (s.programme x.programme).queue) (h : s.stands c x) : t.stands c x := by
  unfold State.stands
  rwa [hd, hq]

theorem demote_programme_ne (c : CarrierNo) (v : Event) {x : Candidate} {p : ProgrammeNo} (h : x.programme ≠ p) :
    (Event.demote c v x).state.programme p = v.state.programme p := by
  unfold Event.demote
  split
  · simp [Event.dropBridge, State.modCounters, State.dropHead, h.symm]
  · simp [Event.dropForward, State.modCounters, State.dropHead, h.symm]
  · split
    · simp [Event.holdAnchor, State.modCounters, h.symm]
    · simp [Event.discardAnchor, State.modCounters, State.dropHead, h.symm]

/-- Demotions touch the programmes of the demoted candidates alone. -/
theorem demotes_programme (c : CarrierNo) {p : ProgrammeNo} : ∀ (l : List Candidate) (v : Event),
    (∀ x ∈ l, x.programme ≠ p) → (l.foldl (Event.demote c) v).state.programme p = v.state.programme p
  | [], _, _ => rfl
  | x :: l, v, h => by
      rw [List.foldl_cons, demotes_programme c l _ fun y hy => h y (List.mem_cons_of_mem x hy),
        demote_programme_ne c v (h x (by simp))]

/-- Each survivor still stands after the minimum pass: its unit heads its queue. -/
theorem select_stands {v : Event} {c : CarrierNo} {pool : Nat} {x : Candidate} (hx : x ∈ (v.select c pool).2) :
    (v.select c pool).1.state.stands c x := by
  generalize hw : (List.finRange 48).foldl (Event.stage3 c) v = w
  rw [Event.select_eq hw] at hx ⊢
  obtain ⟨hcand, hgone⟩ := mem_survivorsOf.1 hx
  have hdemoted : (w.demoted c pool).state.programme x.programme = w.state.programme x.programme :=
    demotes_programme c _ w hgone
  have hclear := (clearHelds_eq (w.survivors c pool) (w.demoted c pool).state).2 x.programme
  refine stands_congr ?_ ?_ (stands_of_candidate hcand)
  · rw [hclear, hdemoted]; split <;> rfl
  · rw [hclear, hdemoted]; split <;> rfl

theorem select_ascending (v : Event) (c : CarrierNo) (pool : Nat) :
    Ascending (v.select c pool).2 := by
  generalize hw : (List.finRange 48).foldl (Event.stage3 c) v = w
  rw [Event.select_eq hw]
  exact (candidatesOf_ascending _ c).filter _

/-- The sum over different members of a list is at most the sum over the list. -/
theorem sum_map_le_of_subset {α : Type} (f : α → Nat) {l m : List α} (hn : l.Nodup) (h : l ⊆ m) :
    (l.map f).sum ≤ (m.map f).sum := by
  obtain ⟨k, hk, hsub⟩ := hn.subperm h
  rw [← (hk.map f).sum_eq]
  exact (hsub.map f).sum_le_sum fun _ _ => Nat.zero_le _

theorem grantSum_gone_survivors (w : Event) (c : CarrierNo) (pool : Nat) :
    grantSum (w.gone c pool) + grantSum (w.survivors c pool) ≤ grantSum (w.state.candidatesOf c) := by
  have hcs : (w.state.candidatesOf c).Nodup := (candidatesOf_nodup w.state c).of_map
  have hgone : (w.gone c pool).Nodup :=
    ((demotables_perm _).nodup_iff.2 (hcs.filter _)).sublist (demoteWhile_prefix pool _ _).sublist
  rw [← grantSum_append]
  refine sum_map_le_of_subset _ (hgone.append (hcs.filter _) fun x hx hs => ?_) (List.append_subset.2 ⟨?_, ?_⟩)
  · exact (mem_survivorsOf.1 hs).2 x hx rfl
  · exact demotions_subset pool _
  · exact List.filter_subset_self _

/-- A survivor that cannot be demoted has a minimum grant within its floor (R46, R47). -/
theorem grant_le_floor {s : State} {c : CarrierNo} {x : Candidate} (h : s.stands c x) (hd : ¬ x.demotable = true) :
    x.grant ≤ x.floor := by
  obtain ⟨d, u, rest, -, -, -, hx⟩ := h
  have hgrant : x.grant = min x.demand (max x.floor x.need) := by rw [hx]; rfl
  have hneed : x.need ≤ x.floor := by simpa [Candidate.demotable] using hd
  omega

/-- The minimum grants of the survivors are within the pool once their floors are (R47). -/
theorem select_within {v : Event} {c : CarrierNo} {pool : Nat} (h : ((v.select c pool).2.map (·.floor)).sum ≤ pool) :
    grantSum (v.select c pool).2 ≤ pool := by
  generalize hw : (List.finRange 48).foldl (Event.stage3 c) v = w
  rw [Event.select_eq hw] at h ⊢
  obtain ⟨spared, hspared, henough⟩ := demotions_spared pool (w.state.candidatesOf c)
  have hsum := grantSum_gone_survivors w c pool
  by_cases hne : spared = []
  · have hfloor : ∀ x ∈ w.survivors c pool, x.grant ≤ x.floor := fun x hx => by
      obtain ⟨hcand, hgone⟩ := mem_survivorsOf.1 hx
      refine grant_le_floor (stands_of_candidate hcand) fun hd => hgone x ?_ rfl
      rw [hne, List.append_nil] at hspared
      rw [Event.gone, hspared, (demotables_perm _).mem_iff]
      exact List.mem_filter.2 ⟨hcand, hd⟩
    exact (List.sum_le_sum hfloor).trans h
  · have henough := henough hne
    unfold Event.gone at hsum
    dsimp only
    omega

/-- The floors of different programmes with a candidate are committed with the reservations (R11). -/
theorem floors_committed {s : State} {c : CarrierNo} {d : CarrierDef} (hfit : s.recordsFit)
    (hd : (s.carrier c).definition = some d) {xs : List Candidate} (hn : (xs.map (·.programme)).Nodup)
    (hx : ∀ x ∈ xs, s.stands c x) :
    1 + d.reserve + (s.carrier c).allowances.toList.sum + (xs.map (·.floor)).sum ≤ d.guaranteed := by
  obtain ⟨⟨hcar, hun, -⟩, -⟩ := hfit
  obtain ⟨-, hcommitted, -⟩ := hcar c d hd
  refine le_trans (Nat.add_le_add_left ?_ _) hcommitted
  have hnaming : xs.map (·.programme) ⊆ s.naming c := fun p hp => by
    obtain ⟨x, hxs, rfl⟩ := List.mem_map.1 hp
    obtain ⟨k, u, rest, hk, hc, -⟩ := hx x hxs
    exact mem_naming.2 ⟨fun e => absurd hk (by simp [hun _ e]), by simp [hk, hc]⟩
  refine le_trans (le_of_eq ?_) (sum_map_le_of_subset _ hn hnaming)
  rw [List.map_map]
  refine congrArg List.sum (List.map_congr_left fun x hxs => ?_)
  obtain ⟨k, u, rest, hk, -, -, he⟩ := hx x hxs
  simp only [Function.comp, hk]
  rw [he]
  rfl

/-! ### Units leave their queues for the list (R57) -/

theorem leaveQueues_programme : ∀ (xs : List Candidate), (xs.map (·.programme)).Nodup → ∀ (s : State) (p : ProgrammeNo),
    (xs.foldl State.leaveQueue s).programme p =
      if p ∈ xs.map (·.programme) then { s.programme p with queue := (s.programme p).queue.tail } else s.programme p
  | [], _, _, _ => rfl
  | x :: xs, hn, s, p => by
      obtain ⟨hx, hn⟩ := List.nodup_cons.1 hn
      rw [List.foldl_cons, leaveQueues_programme xs hn, State.leaveQueue, List.drop_one]
      by_cases hp : p = x.programme
      · subst hp; simp [hx]
      · simp [hp]

theorem entryOf_some {s : State} {x : Candidate} {u : UnitRecord} {rest : List UnitRecord}
    (h : (s.programme x.programme).queue = u :: rest) :
    s.entryOf x =
      some
        { group := (s.programme x.programme).group
          unit := u
          grant := x.grant
          step := shrinkStep x.demand x.grant
          state := if shrinkStep x.demand x.grant = 16 then .ready else .shrinking } := by
  simp only [State.entryOf, h]

/-- Each of the granted units has its entry: the head of its queue, its programme's group, its grant (R57). -/
theorem entries_map {s : State} : ∀ {xs : List Candidate}, (∀ x ∈ xs, (s.programme x.programme).queue ≠ []) →
    (xs.filterMap s.entryOf).map (fun e => (some e.unit, e.group, e.grant)) =
      xs.map (fun x => ((s.programme x.programme).queue.head?, (s.programme x.programme).group, x.grant))
  | [], _ => rfl
  | x :: xs, h => by
      obtain ⟨u, rest, hq⟩ := List.exists_cons_of_ne_nil (h x (by simp))
      rw [List.filterMap_cons_some (entryOf_some hq), List.map_cons, List.map_cons,
        entries_map fun y hy => h y (List.mem_cons_of_mem x hy), hq]
      rfl

/-- The grants of the entries sum to the grants. -/
theorem entries_grants {s : State} {xs : List Candidate} (h : ∀ x ∈ xs, (s.programme x.programme).queue ≠ []) :
    ((xs.filterMap s.entryOf).map (·.grant)).sum = grantSum xs := by
  have hmap := congrArg (List.map (fun t => t.2.2)) (entries_map h)
  rw [List.map_map, List.map_map] at hmap
  exact congrArg List.sum hmap

end Sys2Proof.Machine

/-! SUPPORT. The allocation event as a whole (R38 to R59): its stages in the words of the statements, the list it builds,
and what it writes beside them. -/

namespace Sys2Proof.Machine

namespace State
variable (s : State) (c : CarrierNo) (b : Time) (d : CarrierDef)

/-- The directory record that the event starts, in the words of the statements (R39). -/
def startDirectory : List DirectoryEntry :=
  (s.naming c).map (fun p => ⟨p, (s.programme p).definition.bind (·.group), false, false, false⟩)

/-- F + Q × T (R38). -/
def eventTotal : Nat := (s.carrier c).fraction + d.rate * d.interval

/-- What the directory slice and the takes leave of the budget (R42). -/
def eventPool : Nat :=
  s.eventTotal c d / 2048000000 - 1 - accessSlices (s.accessTake c b).1 - ((s.accessTake c b).2.portTakes c).1.length

/-- The event after the takes (R40, R41). -/
def eventTaken : Event := ⟨((s.accessTake c b).2.portTakes c).2, s.startDirectory c, false⟩

/-- The event after the minimum pass, and its survivors (R43 to R51). -/
@[irreducible] def eventChosen : Event × List Candidate := (s.eventTaken c b).select c (s.eventPool c b d)

/-- The filler, the rotate pointer and the grants (R51 to R56). -/
@[irreducible] def eventGiven : Nat × ProgrammeNo × List Candidate :=
  divide (s.eventPool c b d) (s.carrier c).rotate (s.eventChosen c b d).2

/-- The list that the event builds (R57). -/
def eventList : EmissionList where
  directory := (s.eventChosen c b d).1.directory
  access := (s.accessTake c b).1
  subscribers := ((s.accessTake c b).2.portTakes c).1
  entries := (s.eventGiven c b d).2.2.filterMap (s.eventChosen c b d).1.state.entryOf
  filler := (s.eventGiven c b d).1

/-- The state in which the survivors' head units have left their queues (R57). -/
def eventLeft : State := (s.eventGiven c b d).2.2.foldl State.leaveQueue (s.eventChosen c b d).1.state

/-- The carrier record with what the event writes on it (R38, R55, R57, R59). -/
def eventCarrier : Carrier :=
  { (s.eventLeft c b d).carrier c with
    fraction := s.eventTotal c d % 2048000000
    rotate := (s.eventGiven c b d).2.1
    degraded := (s.eventChosen c b d).1.degraded
    building := some (s.eventList c b d) }

theorem eventList_entries :
    (s.eventList c b d).entries = (s.eventGiven c b d).2.2.filterMap (s.eventChosen c b d).1.state.entryOf := rfl

end State

theorem directoryRecord_eq (s : State) (c : CarrierNo) : s.directoryRecord c = s.startDirectory c := by
  unfold State.directoryRecord
  rw [programmesOf_eq_naming]
  rfl

/-- An allocation event by its stages (R37 to R59). -/
theorem allocate_eq (s : State) (c : CarrierNo) (b : Time) :
    s.allocate c b =
      if (s.eventChosen c b (s.carrier c).spec).1.degraded then
        ((s.eventLeft c b (s.carrier c).spec).setCarrier c (s.eventCarrier c b (s.carrier c).spec)).setCarrierAlert c true
      else (s.eventLeft c b (s.carrier c).spec).setCarrier c (s.eventCarrier c b (s.carrier c).spec) := by
  have hbudget : (s.carrier c).budget = s.eventTotal c (s.carrier c).spec / 2048000000 := rfl
  unfold State.allocate State.eventCarrier State.eventLeft State.eventList State.eventGiven State.eventChosen
    State.eventPool State.eventTaken
  rw [directoryRecord_eq]
  generalize s.accessTake c b = A
  obtain ⟨access, s₁⟩ := A
  dsimp only
  rw [subscriberTake_eq]
  generalize s₁.portTakes c = B
  obtain ⟨subs, s₂⟩ := B
  dsimp only
  rw [hbudget]
  generalize Event.select _ c _ = V
  obtain ⟨v, survivors⟩ := V
  dsimp only
  generalize divide _ _ survivors = D
  obtain ⟨filler, rotate, granted⟩ := D
  rfl

section
variable (s : State) (c : CarrierNo) (b : Time) (d : CarrierDef)

theorem eventTaken_stageKept : StageKept c s (s.eventTaken c b).state := by
  have hports := (subscriberTake_shape (s.accessTake c b).2 c).stageKept (c := c)
  rw [subscriberTake_eq] at hports
  unfold State.eventTaken
  dsimp only
  exact (accessTake_stageKept s b).trans _ _ _ hports

theorem eventTaken_queuesShrink : QueuesShrink s (s.eventTaken c b).state := by
  unfold State.eventTaken
  dsimp only
  exact (accessTake_queuesShrink s c b).trans _ _ _ (portTakes_queuesShrink (s.accessTake c b).2 c)

theorem eventChosen_stageKept : StageKept c s (s.eventChosen c b d).1.state := by
  unfold State.eventChosen
  exact (eventTaken_stageKept s c b).trans _ _ _ (select_stageKept (s.eventTaken c b) (s.eventPool c b d))

theorem eventChosen_queuesShrink : QueuesShrink s (s.eventChosen c b d).1.state := by
  unfold State.eventChosen
  exact (eventTaken_queuesShrink s c b).trans _ _ _ (select_queuesShrink (s.eventTaken c b) c (s.eventPool c b d))

theorem eventChosen_ascending : Ascending (s.eventChosen c b d).2 := by
  unfold State.eventChosen
  exact select_ascending _ _ _

theorem eventGiven_raised : RaisedFrom (s.eventChosen c b d).2 (s.eventGiven c b d).2.2 := by
  unfold State.eventGiven
  exact divide_raised (eventChosen_ascending s c b d) _ _

theorem eventGiven_programmes :
    (s.eventGiven c b d).2.2.map (·.programme) = (s.eventChosen c b d).2.map (·.programme) := by
  unfold State.eventGiven
  exact divide_programmes _ _ _

theorem eventChosen_stands {x : Candidate} (hx : x ∈ (s.eventChosen c b d).2) :
    (s.eventChosen c b d).1.state.stands c x := by
  unfold State.eventChosen at hx ⊢
  exact select_stands hx

/-- A programme with a grant has a unit at the head of its queue. -/
theorem eventGiven_queue {y : Candidate} (hy : y ∈ (s.eventGiven c b d).2.2) :
    ((s.eventChosen c b d).1.state.programme y.programme).queue ≠ [] := by
  obtain ⟨x, hx, hxy⟩ := eventGiven_raised s c b d y hy
  obtain ⟨k, u, rest, -, -, hq, -⟩ := eventChosen_stands _ _ _ _ hx
  rw [hxy.same]
  exact fun h => List.cons_ne_nil u rest (hq.symm.trans h)

theorem eventLeft_eq : s.eventLeft c b d =
    { (s.eventChosen c b d).1.state with programmes := (s.eventLeft c b d).programmes } := by
  obtain ⟨ps, h⟩ := leaveQueues_eq (s.eventGiven c b d).2.2 (s.eventChosen c b d).1.state
  unfold State.eventLeft
  rw [h]

theorem eventLeft_carrier (e : CarrierNo) :
    (s.eventLeft c b d).carrier e = (s.eventChosen c b d).1.state.carrier e := by
  rw [eventLeft_eq]
  rfl

theorem eventLeft_programme (p : ProgrammeNo) :
    (s.eventLeft c b d).programme p =
      if ∃ x ∈ (s.eventChosen c b d).2, x.programme = p then
        { (s.eventChosen c b d).1.state.programme p with
          queue := ((s.eventChosen c b d).1.state.programme p).queue.tail }
      else (s.eventChosen c b d).1.state.programme p := by
  have hn := ascending_nodup (eventChosen_ascending s c b d)
  rw [← eventGiven_programmes] at hn
  rw [State.eventLeft, leaveQueues_programme _ hn, eventGiven_programmes]
  simp only [List.mem_map]

end

section
variable {s : State} {c : CarrierNo} {d : CarrierDef}

theorem spec_eq (hd : (s.carrier c).definition = some d) : (s.carrier c).spec = d := by
  simp [Carrier.spec, hd]

/-- The budget is S_min or S_min + 1 (R38). -/
theorem eventTotal_budget (hfit : s.recordsFit) (hd : (s.carrier c).definition = some d) :
    s.eventTotal c d / 2048000000 = d.guaranteed ∨ s.eventTotal c d / 2048000000 = d.guaranteed + 1 := by
  have hguaranteed := (hfit.1.1 c d hd).1
  have hfraction : (s.carrier c).fraction < 2048000000 := hfit.2.2 c
  unfold State.eventTotal
  omega

theorem eventAccess_le (hd : (s.carrier c).definition = some d) (b : Time) :
    accessSlices (s.accessTake c b).1 ≤ d.reserve := spec_eq hd ▸ accessTake_slices_le s c b

theorem eventSubscribers_le (b : Time) :
    ((s.accessTake c b).2.portTakes c).1.length ≤ (s.carrier c).allowances.toList.sum := by
  have hkept := (accessTake_stageKept (c := c) s b).carrier
  have hle := portTakes_length_le (s.accessTake c b).2 c
  rwa [hkept] at hle

/-- The floors of the survivors are within the pool (R11, R42). -/
theorem eventChosen_floors (hfit : s.recordsFit) (hd : (s.carrier c).definition = some d) (b : Time) :
    1 + accessSlices (s.accessTake c b).1 + ((s.accessTake c b).2.portTakes c).1.length
      + ((s.eventChosen c b d).2.map (·.floor)).sum ≤ s.eventTotal c d / 2048000000 := by
  have hkept := eventChosen_stageKept s c b d
  have hd' : ((s.eventChosen c b d).1.state.carrier c).definition = some d := by rw [hkept.carrier]; exact hd
  have hfloors := floors_committed (hkept.recordsKept.recordsFit hfit) hd'
    (ascending_nodup (eventChosen_ascending s c b d)) fun x hx => eventChosen_stands _ _ _ _ hx
  rw [hkept.carrier] at hfloors
  have haccess := eventAccess_le hd b
  have hsubscribers := eventSubscribers_le (s := s) (c := c) b
  have hbudget := eventTotal_budget hfit hd
  dsimp only at hfloors
  omega

/-- The list fills the budget exactly (R58). -/
theorem eventList_slices (hfit : s.recordsFit) (hd : (s.carrier c).definition = some d) (b : Time) :
    (s.eventList c b d).slices = s.eventTotal c d / 2048000000 := by
  have hfloors := eventChosen_floors hfit hd b
  have hpool : s.eventPool c b d = s.eventTotal c d / 2048000000 - 1 - accessSlices (s.accessTake c b).1
    - ((s.accessTake c b).2.portTakes c).1.length := rfl
  have hwithin : grantSum (s.eventChosen c b d).2 ≤ s.eventPool c b d := by
    have hle : ((s.eventChosen c b d).2.map (·.floor)).sum ≤ s.eventPool c b d := by omega
    unfold State.eventChosen at hle ⊢
    exact select_within hle
  have hsum : (s.eventGiven c b d).1 + grantSum (s.eventGiven c b d).2.2 = s.eventPool c b d := by
    unfold State.eventGiven
    exact divide_sum (eventChosen_ascending s c b d) hwithin _
  have hgrants := entries_grants fun y hy => eventGiven_queue s c b d hy
  unfold EmissionList.slices State.eventList
  rw [hgrants]
  dsimp only
  omega

end

/-! ### An entry of the list (R57, R63) -/

/-- The entry of a programme of definition `k` with head unit `u` and grant `g`. -/
def entryWith (k : ProgrammeDef) (u : UnitRecord) (g : Nat) : ProgrammeEntry where
  group := k.group
  unit := u
  grant := g
  step := shrinkStep (demandOf u.size) g
  state := if shrinkStep (demandOf u.size) g = 16 then .ready else .shrinking

/-- A grant makes an entry from the head unit of a programme of the carrier, and lies between the minimum grant and the
effective cap (R45, R46, R57). -/
theorem eventGiven_entry {s : State} {c : CarrierNo} {b : Time} {d : CarrierDef} (hfit : s.recordsFit) {y : Candidate}
    (hy : y ∈ (s.eventGiven c b d).2.2) :
    ∃ k u, (s.eventChosen c b d).1.state.entryOf y = some (entryWith k u y.grant)
      ∧ (s.programme y.programme).definition = some k ∧ k.carrier = c ∧ u ∈ (s.programme y.programme).queue
      ∧ minimumGrant (demandOf u.size) (needOf (demandOf u.size)) k.floor ≤ y.grant
      ∧ y.grant ≤ effectiveCap (demandOf u.size) (needOf (demandOf u.size)) k.cap := by
  obtain ⟨x, hx, hxy⟩ := eventGiven_raised s c b d y hy
  obtain ⟨k, u, rest, hk, hc, hqueue, hxc⟩ := eventChosen_stands _ _ _ _ hx
  have hprog : y.programme = x.programme := by rw [hxy.same]
  have hdemand : y.demand = demandOf u.size := by rw [hxy.same, hxc]; rfl
  have hmin : x.grant = minimumGrant (demandOf u.size) (needOf (demandOf u.size)) k.floor := by rw [hxc]; rfl
  have hcap : x.cap = effectiveCap (demandOf u.size) (needOf (demandOf u.size)) k.cap := by rw [hxc]; rfl
  rw [← hprog] at hk hqueue
  have hdef : (s.programme y.programme).definition = some k := by
    rw [← ((eventChosen_stageKept s c b d).programme y.programme).definition]; exact hk
  have hfloor : k.floor ≤ k.cap := (hfit.1.2.2 _ k hdef).1
  have hroom : x.grant ≤ x.cap := by
    rw [hmin, hcap, minimumGrant, effectiveCap]
    omega
  refine ⟨k, u, ?_, hdef, hc, ?_, hmin ▸ hxy.grew, hcap ▸ hxy.capped hroom⟩
  · rw [entryOf_some hqueue, hdemand, Programme.group, hk]
    rfl
  · exact ((eventChosen_queuesShrink s c b d).queue y.programme).subset (hqueue ▸ List.mem_cons_self)

/-- Entries stand in ascending programme number, one for each programme with a grant (R57). -/
theorem eventList_ascending {s : State} {c : CarrierNo} {b : Time} {d : CarrierDef} (hfit : s.recordsFit)
    (hq : s.queuesFit) :
    (s.eventList c b d).entries.Pairwise (fun x y => x.unit.programme < y.unit.programme) := by
  have hgiven := (eventChosen_ascending s c b d).congr (eventGiven_programmes s c b d)
  have hunit : ∀ y ∈ (s.eventGiven c b d).2.2, ∀ e, (s.eventChosen c b d).1.state.entryOf y = some e →
      e.unit.programme = y.programme := fun y hy e he => by
    obtain ⟨k, u, hentry, -, -, hu, -⟩ := eventGiven_entry hfit hy
    rw [← Option.some.inj (hentry.symm.trans he)]
    exact (hq y.programme).2 u hu
  rw [State.eventList_entries, List.pairwise_filterMap]
  refine hgiven.imp_of_mem fun {x y} hx hy hlt e he f hf => ?_
  rwa [hunit x hx e he, hunit y hy f hf]

/-- A grant between a fourth of the demand and the demand has a shrink step of 16 to 64 (R57). -/
theorem shrinkStep_bounds {demand grant : Nat} (hpos : 1 ≤ demand) (hle : grant ≤ demand)
    (hneed : needOf demand ≤ grant) : 16 ≤ shrinkStep demand grant ∧ shrinkStep demand grant ≤ 64 := by
  have hquarter : demand ≤ grant * 4 := (ceilDiv_le_iff (by decide)).1 hneed
  have hgrant : 0 < grant := by omega
  constructor
  · by_contra h
    have := (ceilDiv_le_iff hgrant).1 (Nat.le_of_lt_succ (Nat.lt_of_not_le h))
    omega
  · exact (ceilDiv_le_iff hgrant).2 (by omega)

/-- The grant, the shrink step and the state of an entry whose grant lies between the minimum grant and the effective cap
(R45, R46, R57, R63). -/
theorem entryWith_bounds {k : ProgrammeDef} {u : UnitRecord} {g : Nat} (hsize : 1 ≤ u.size)
    (hmin : minimumGrant (demandOf u.size) (needOf (demandOf u.size)) k.floor ≤ g)
    (hcap : g ≤ effectiveCap (demandOf u.size) (needOf (demandOf u.size)) k.cap) :
    needOf (demandOf u.size) ≤ g ∧ g ≤ demandOf u.size ∧ g ≤ max k.cap (needOf (demandOf u.size))
      ∧ min (demandOf u.size) k.floor ≤ g
      ∧ 16 ≤ (entryWith k u g).step ∧ (entryWith k u g).step ≤ 64
      ∧ ((entryWith k u g).state = .ready ↔ (entryWith k u g).step = 16) := by
  have hpos : 1 ≤ demandOf u.size := ceilDiv_pos (by decide) hsize
  have hneed : needOf (demandOf u.size) ≤ demandOf u.size := (ceilDiv_le_iff (by decide)).2 (by omega)
  unfold minimumGrant at hmin
  unfold effectiveCap at hcap
  have hlow : needOf (demandOf u.size) ≤ g := by omega
  have hhigh : g ≤ demandOf u.size := by omega
  obtain ⟨hstep, hstep'⟩ := shrinkStep_bounds hpos hhigh hlow
  refine ⟨hlow, hhigh, by omega, by omega, hstep, hstep', ?_⟩
  unfold entryWith
  dsimp only
  split <;> simp [*]

/-! ### What the event writes (R37, R57, R59) -/

section
variable (s : State) (c : CarrierNo) (b : Time)

/-- What an event writes beside its stages: the carrier's record, and CARRIER_ALERT where it is degraded (R57, R59). -/
theorem allocate_writes : s.allocate c b =
    { (s.eventChosen c b (s.carrier c).spec).1.state with
      programmes := (s.eventLeft c b (s.carrier c).spec).programmes
      carriers :=
        (s.eventChosen c b (s.carrier c).spec).1.state.carriers.set c.val (s.eventCarrier c b (s.carrier c).spec)
      manager :=
        if (s.eventChosen c b (s.carrier c).spec).1.degraded then
          { s.manager with carrierAlert := s.manager.carrierAlert.set c.val true }
        else s.manager } := by
  have hmanager := (eventChosen_queuesShrink s c b (s.carrier c).spec).manager
  have hleft := eventLeft_eq s c b (s.carrier c).spec
  rw [allocate_eq, ← hmanager]
  generalize s.eventCarrier c b (s.carrier c).spec = k
  generalize s.eventLeft c b (s.carrier c).spec = u at hleft ⊢
  generalize s.eventChosen c b (s.carrier c).spec = chosen at hleft ⊢
  rw [hleft]
  split <;> rfl

theorem allocate_carrier_event : (s.allocate c b).carrier c = s.eventCarrier c b (s.carrier c).spec := by
  rw [allocate_writes]
  simp [State.carrier]

theorem allocate_building : ((s.allocate c b).carrier c).building = some (s.eventList c b (s.carrier c).spec) := by
  rw [allocate_carrier_event]
  rfl

end

end Sys2Proof.Machine

/-! The allocation event (R38 to R59): the statements on its budget and on its grants. -/

namespace Sys2Proof.Settled

open Sys2Proof.Machine

/-- Settles O49: the rounds by `shareRounds_succ`, the pass by `remainderPass_open`, the entries by `eventGiven_entry`. -/
theorem grantsOfAList : Obligations.GrantsOfAList := by
  refine ⟨fun n pool cs => ?_, fun n pos cs hcs => ⟨rfl, fun h => remainderPass_closed h n pos, fun x hx hopen hnear => ?_⟩,
    fun c b s hfit hq hsizes list hlist => ?_⟩
  · intro weight take after left
    have htake : take = shareTake pool (openWeight cs) := funext fun x => by
      by_cases h : x.grant < x.cap <;> simp [take, weight, openWeight, shareTake, Candidate.isOpen, h]
    have hleft : left = pool - roundTakes pool cs := by rw [roundTakes, ← htake]
    have hafter : after = shareRound pool cs := by simp only [after, shareRound, htake]
    rw [hleft, hafter, htake]
    exact ⟨roundTakes_le pool cs, rfl, shareRounds_succ n pool cs⟩
  · rw [remainderPass_open hcs hx hopen hnear, afterProgramme_eq]
    rfl
  · rw [allocate_building] at hlist
    obtain rfl := Option.some.inj hlist
    refine ⟨eventList_ascending hfit hq, fun e he => ?_⟩
    rw [State.eventList_entries] at he
    obtain ⟨y, hy, hentry⟩ := List.mem_filterMap.1 he
    obtain ⟨k, u, hwith, hdef, hc, hu, hmin, hcap⟩ := eventGiven_entry hfit hy
    obtain rfl := Option.some.inj (hwith.symm.trans hentry)
    have hprog : u.programme = y.programme := (hq y.programme).2 u hu
    have hsize : 1 ≤ u.size := (hsizes y.programme u hu).1
    obtain ⟨hlow, hhigh, hmax, hfloor, hstep, hstep', hready⟩ := entryWith_bounds hsize hmin hcap
    exact ⟨hlow, hhigh, ⟨k, hprog ▸ hdef, hc, rfl, hmax, hfloor⟩, rfl, hstep, hstep', hready⟩

/-- Settles O48: the budget by `eventList_slices`, the stages by `allocate_writes`. -/
theorem intervalsAreFilled : Obligations.IntervalsAreFilled := by
  intro c b d s hfit hd k total t access port0 port1 port2 port3 subscribers directory pool chosen v shared given
  have hspec := spec_eq hd
  have hports : access.2.portTakes c = (subscribers, port3.2) := by
    unfold State.portTakes
    rfl
  have hdirectory : directory = s.startDirectory c := rfl
  have htaken : (⟨port3.2, directory, false⟩ : Event) = s.eventTaken c b := by
    unfold State.eventTaken
    rw [hports, ← hdirectory]
  have hpool : pool = s.eventPool c b d := by
    unfold State.eventPool
    rw [hports]
    rfl
  have hchosen : chosen = s.eventChosen c b d := by
    unfold State.eventChosen
    rw [← htaken, ← hpool]
  have hgiven : given = s.eventGiven c b d := by
    unfold State.eventGiven
    rw [← hchosen, ← hpool, divide_eq]
    rfl
  have hv : v = (s.eventChosen c b d).1 := congrArg Prod.fst hchosen
  have hwrites : t = _ := allocate_writes s c b
  have hcarrier : t.carrier c = _ := allocate_carrier_event s c b
  rw [hspec] at hwrites hcarrier
  have hprogrammes : t.programmes = (s.eventLeft c b d).programmes := by rw [hwrites]
  have hmanager : t.manager = _ := congrArg State.manager hwrites
  have hslices := eventList_slices hfit hd b
  rw [hcarrier, hchosen, hgiven, hv]
  refine ⟨s.eventList c b d, rfl, hslices, hslices ▸ eventTotal_budget hfit hd, rfl, eventAccess_le hd b,
    eventSubscribers_le b, rfl, rfl, congrArg Prod.fst hports, rfl, ?_, rfl, rfl, ?_, hmanager, fun p => ?_, ?_, ?_⟩
  · exact entries_map fun y hy => eventGiven_queue s c b d hy
  · rw [← hchosen]
    exact (select_degraded ⟨port3.2, directory, false⟩ c pool).trans (or_iff_right Bool.false_ne_true)
  · exact (congrArg (·[p.val]) hprogrammes).trans (eventLeft_programme s c b d p)
  · unfold State.eventCarrier
    rw [eventLeft_carrier]
  · rw [hprogrammes, hmanager]
    exact hwrites

end Sys2Proof.Settled

/-! SUPPORT. A shrink completion (R62 to R66): what the kept cells hold after it, and which entry it comes to. -/

namespace Sys2Proof.Machine

/-! ### A body in its cells (R25, R65) -/

/-- A byte outside a body's cells reads as before, in whatever order the entries of the memory stand. -/
theorem writeBody_read_off : ∀ (cells : List CellNo) (m : Memory) (body : List Byte) (a : Nat),
    (∀ x ∈ cells, a < cellBase x ∨ cellBase x + Config.cellBytes ≤ a) → (writeBody m cells body).read a = m.read a
  | [], _, _, _, _ => rfl
  | c :: cs, m, body, a, h => by
      have hlen : (body.take Config.cellBytes).length ≤ Config.cellBytes := List.length_take_le _ _
      have hc := h c List.mem_cons_self
      rw [writeBody, writeBody_read_off cs _ _ a fun x hx => h x (List.mem_cons_of_mem c hx),
        Memory.read_writeBytes_outside _ _ _ _ (by omega)]

/-- Different cells have no address in common. -/
theorem cellBase_disjoint {x y : CellNo} (h : y ≠ x) {i : Nat} (hi : i < Config.cellBytes) :
    cellBase x + i < cellBase y ∨ cellBase y + Config.cellBytes ≤ cellBase x + i := by
  have hne : y.val ≠ x.val := fun e => h (Fin.ext e)
  unfold cellBase Config.cellBytes at *
  omega

theorem bodyByte_cons_head (m : Memory) (c : CellNo) (cs : List CellNo) {i : Nat} (h : i < Config.cellBytes) :
    bodyByte m (c :: cs) i = m.read (cellBase c + i) := by
  simp [bodyByte, Nat.div_eq_of_lt h, Nat.mod_eq_of_lt h]

theorem bodyByte_cons_tail (m : Memory) (c : CellNo) (cs : List CellNo) (i : Nat) :
    bodyByte m (c :: cs) (Config.cellBytes + i) = bodyByte m cs i := by
  have hdiv : (Config.cellBytes + i) / Config.cellBytes = i / Config.cellBytes + 1 :=
    Nat.add_div_left i (by decide)
  simp [bodyByte, hdiv]

/-- A body written into distinct cells is read back from them, byte by byte. -/
theorem bodyByte_writeBody : ∀ {cells : List CellNo} {m : Memory} {body : List Byte} {i : Nat} {b : Byte},
    m.wf = true → cells.Nodup → i < cells.length * Config.cellBytes → body[i]? = some b →
      bodyByte (writeBody m cells body) cells i = b
  | [], _, _, i, _, _, _, hi, _ => by simp at hi
  | c :: cs, m, body, i, b, hwf, hnodup, hi, hb => by
      obtain ⟨hc, hcs⟩ := List.nodup_cons.1 hnodup
      rw [writeBody]
      by_cases hhead : i < Config.cellBytes
      · have hoff : ∀ x ∈ cs, cellBase c + i < cellBase x ∨ cellBase x + Config.cellBytes ≤ cellBase c + i :=
          fun x hx => cellBase_disjoint (fun (e : x = c) => hc (e ▸ hx)) hhead
        rw [bodyByte_cons_head _ _ _ hhead, writeBody_read_off _ _ _ _ hoff, Memory.read_writeBytes _ _ _ hwf]
        simp [List.getElem?_take_of_lt hhead, hb]
      · obtain ⟨j, rfl⟩ := Nat.exists_eq_add_of_le (Nat.le_of_not_lt hhead)
        have hj : j < cs.length * Config.cellBytes := by rw [List.length_cons, Nat.succ_mul] at hi; omega
        rw [bodyByte_cons_tail]
        exact bodyByte_writeBody (Memory.writeBytes_wf _ _ hwf) hcs hj (List.getElem?_drop.trans hb)

/-- The whole of a body is read back from the distinct cells it fits into. -/
theorem bodyBytes_writeBody {m : Memory} {cells : List CellNo} {body : List Byte} (hwf : m.wf = true)
    (hnodup : cells.Nodup) (hfit : body.length ≤ cells.length * Config.cellBytes) :
    bodyBytes (writeBody m cells body) cells 0 body.length = body := by
  refine List.ext_getElem (by simp [bodyBytes]) fun i hi hb => ?_
  simp only [bodyBytes, List.getElem_map, List.getElem_range, Nat.zero_add]
  exact bodyByte_writeBody hwf hnodup (Nat.lt_of_lt_of_le hb hfit) (List.getElem?_eq_getElem hb)

/-! ### The reduced body (R65) -/

@[simp] theorem reducedBody_length (body : List Byte) (grant : Nat) :
    (reducedBody body grant).length = grant * Config.payloadBytes := by
  simp only [reducedBody, List.length_append, List.length_take, List.length_replicate]
  omega

/-- A byte of the reduced body is the picture's, or a pad byte past its end. -/
theorem reducedBody_getElem? {body : List Byte} {grant i : Nat} (hi : i < grant * Config.payloadBytes) :
    (reducedBody body grant)[i]? = some ((Config.requantise body grant)[i]?.getD Config.padByte) := by
  unfold reducedBody
  generalize Config.requantise body grant = picture
  dsimp only
  by_cases h : i < picture.length
  · rw [List.getElem?_append_left (by rw [List.length_take]; omega), List.getElem?_take_of_lt hi,
      List.getElem?_eq_getElem h]
    rfl
  · rw [List.take_of_length_le (by omega), List.getElem?_append_right (by omega),
      List.getElem?_replicate_of_lt (by omega), List.getElem?_eq_none (by omega)]
    rfl

/-- The kept cells have room for the reduced body (R62). -/
theorem payload_le_keptCells (grant : Nat) : grant * Config.payloadBytes ≤ keptCells grant * Config.cellBytes := by
  unfold keptCells cellsFor ceilDiv Config.cellBytes
  omega

/-- After a shrink completion the kept cells hold the reduced body (R65). -/
theorem shrink_holds_reducedBody {m : Memory} {e : ProgrammeEntry} (hwf : m.wf = true) (hnodup : e.unit.cells.Nodup)
    (hcells : keptCells e.grant ≤ e.unit.cells.length) :
    bodyBytes (m.shrink e) e.shrunk.unit.cells 0 (e.grant * Config.payloadBytes)
      = reducedBody (bodyBytes m e.unit.cells 0 e.unit.size) e.grant := by
  have hfit : (reducedBody (bodyBytes m e.unit.cells 0 e.unit.size) e.grant).length
      ≤ (e.unit.cells.take (keptCells e.grant)).length * Config.cellBytes := by
    rw [reducedBody_length, List.length_take_of_le hcells]
    exact payload_le_keptCells e.grant
  have h := bodyBytes_writeBody hwf (hnodup.sublist (List.take_sublist _ _)) hfit
  rwa [reducedBody_length] at h

/-! ### The entry it comes to (R64) -/

theorem busy_iff (e : ProgrammeEntry) : e.busy = true ↔ e.state = .shrinking := by
  simp [ProgrammeEntry.busy]

theorem shrinkNext_of_ready {s : State} {c : CarrierNo} {list : EmissionList}
    (hl : (s.carrier c).building = some list) (hready : ∀ e ∈ list.entries, e.state = .ready) :
    s.shrinkNext c = s := by
  have hdrop : list.entries.dropWhile (fun e => !e.busy) = [] :=
    List.dropWhile_eq_nil_iff.2 fun e he => by simp [(ready_iff_not_busy e).1 (hready e he)]
  unfold State.shrinkNext
  rw [hl]
  dsimp only
  rw [hdrop]

theorem shrinkNext_of_shrinking {s : State} {c : CarrierNo} {list : EmissionList} {before after : List ProgrammeEntry}
    {e : ProgrammeEntry} (hl : (s.carrier c).building = some list) (hentries : list.entries = before ++ e :: after)
    (hbefore : ∀ x ∈ before, x.state = .ready) (he : e.state = .shrinking) :
    s.shrinkNext c = s.shrinkEntry c list before e after := by
  have hready : ∀ x ∈ before, (!x.busy) = true := fun x hx => by simp [(ready_iff_not_busy x).1 (hbefore x hx)]
  have hbusy : e.busy = true := (busy_iff e).2 he
  have htake : list.entries.takeWhile (fun x => !x.busy) = before := by
    simp [hentries, List.takeWhile_append_of_pos hready, hbusy]
  have hdrop : list.entries.dropWhile (fun x => !x.busy) = e :: after := by
    simp [hentries, List.dropWhile_append_of_pos hready, hbusy]
  unfold State.shrinkNext
  rw [hl]
  dsimp only
  rw [hdrop, htake]

theorem shrinkCompletion_afterEvent {s : State} {c : CarrierNo} (h : s.afterEvent c = true) :
    s.shrinkCompletion c = s.shrinkNext c := if_pos h

end Sys2Proof.Machine

namespace Sys2Proof.Settled

open Sys2Proof.Machine

/-- Settles O50: the entry by `shrinkNext_of_shrinking`, the kept cells by `shrink_holds_reducedBody`, the rest of the
memory by `writeBody_read_off`, the reduced body by `reducedBody_getElem?`. -/
theorem shrinkCompletion : Obligations.ShrinkCompletion := by
  intro c s k
  refine ⟨fun list hl hready => ?_, ?_⟩
  · have hs : s.shrinkCompletion c = s := by
      unfold State.shrinkCompletion
      rw [shrinkNext_of_ready hl hready, ite_self]
    exact congrArg _ hs
  · intro b d list before e after hb hd hlater hl hentries hbefore he n kept body
    have hs : s.shrinkCompletion c = s.shrinkEntry c list before e after :=
      (shrinkCompletion_afterEvent ((afterEvent_iff hb hd).2 hlater)).trans
        (shrinkNext_of_shrinking hl hentries hbefore he)
    have hcarrier : (s.shrinkEntry c list before e after).carrier c =
        { k with
          building := some { list with entries := before ++ e.shrunk :: after }
          counters := { k.counters with unitsShrunk := count32 k.counters.unitsShrunk } } := State.setCarrier_self ..
    refine ⟨s.shrinkEntry c list before e after, congrArg _ hs, hcarrier, ?_, fun a ha => ?_, fun hwf hnodup hcells => ?_,
      reducedBody_length _ _, fun i hi => reducedBody_getElem? hi⟩
    · rw [hcarrier]
      rfl
    · exact writeBody_read_off _ _ _ a ha
    · exact shrink_holds_reducedBody hwf hnodup hcells

end Sys2Proof.Settled

/-! SUPPORT. What a boundary begins to emit (R73, R134, R135): the capture of an entry, the repeat flags of the withdrawn
ones, and the slices and cells of the items a list becomes. -/

namespace Sys2Proof.Machine

/-! ### The boundary capture (R73, R135) -/

/-- A capture in the words of the statements: none for a clear entry, `some none` for a withdrawn one. -/
def Capture.toOption : Capture → Option (Option (Phase × Key))
  | .clear => none
  | .keyed ph key => some (some (ph, key))
  | .withdrawn => some none

theorem Capture.toOption_eq_withdrawn {x : Capture} : x.toOption = some none ↔ x = .withdrawn := by
  cases x <;> simp [Capture.toOption]

/-- An entry's capture is the phase and the key of its recorded group's ACTIVE slot (R73, R135). -/
theorem captureOf_toOption (s : State) (e : ProgrammeEntry) :
    (s.captureOf e).toOption = e.group.map (fun g => (s.group g).active.bind (fun ph =>
      ((s.group g).slot ph).map (fun k => (ph, k.key)))) := by
  unfold State.captureOf
  cases e.group with
  | none => rfl
  | some g =>
      simp only [Group.activeSlot, Option.map_some]
      cases (s.group g).active with
      | none => rfl
      | some ph => cases hslot : (s.group g).slot ph <;> simp [hslot, Capture.toOption]

theorem entryItems_eq (s : State) (e : ProgrammeEntry) :
    s.entryItems e =
      match (s.captureOf e).toOption with
      | none => [.programme e none 0]
      | some (some key) => [.programme e (some key) 0]
      | some none => fillerItems e.grant := by
  unfold State.entryItems
  cases s.captureOf e <;> rfl

/-! ### The repeat flags (R73) -/

/-- The programmes marked one after another are flagged where any of them is the entry's own. -/
theorem foldl_markRepeat : ∀ (es : List ProgrammeEntry) (directory : List DirectoryEntry),
    es.foldl (fun d e => markRepeat e.unit.programme d) directory =
      directory.map (fun x => { x with repeated := x.repeated || es.any (fun e => e.unit.programme == x.programme) })
  | [], directory => by simp
  | e :: es, directory => by
      rw [List.foldl_cons, foldl_markRepeat es, markRepeat, List.map_map]
      refine List.map_congr_left fun x _ => ?_
      by_cases h : x.programme = e.unit.programme
      · simp [h]
      · simp [h, beq_eq_false_iff_ne.2 (Ne.symm h)]

/-- The repeat flag is set for the programmes of the withdrawn entries. -/
theorem markWithdrawn_eq (s : State) (entries : List ProgrammeEntry) (directory : List DirectoryEntry) :
    (s.withdrawnOf entries).foldl (fun d e => markRepeat e.unit.programme d) directory =
      directory.map (fun x =>
        { x with
          repeated :=
            x.repeated
              || entries.any (fun e => e.unit.programme == x.programme && (s.captureOf e).toOption == some none) }) := by
  rw [foldl_markRepeat]
  refine List.map_congr_left fun x _ => ?_
  have hany : (s.withdrawnOf entries).any (fun e => e.unit.programme == x.programme)
      = entries.any (fun e => e.unit.programme == x.programme && (s.captureOf e).toOption == some none) := by
    rw [State.withdrawnOf, List.any_filter]
    refine congrArg entries.any (funext fun e => ?_)
    rw [Bool.and_comm, Bool.eq_iff_iff]
    simp [Capture.toOption_eq_withdrawn]
  rw [hany]

/-! ### The slices of the items (R134) -/

theorem itemsLeft_append (xs ys : List Item) : itemsLeft (xs ++ ys) = itemsLeft xs + itemsLeft ys := by
  simp [itemsLeft]

theorem itemsLeft_fillerItems (n : Nat) : itemsLeft (fillerItems n) = n := by
  unfold fillerItems
  split
  · next h => exact h.symm
  · exact Nat.add_zero n

theorem itemsLeft_access (copies : List AccessCopy) :
    itemsLeft (copies.map (fun a => .access a 1)) = accessSlices copies := by
  simp [itemsLeft, accessSlices, Item.left, Function.comp_def]

theorem itemsLeft_subscribers (copies : List SubscriberCopy) : itemsLeft (copies.map .subscriber) = copies.length := by
  simp [itemsLeft, Item.left, Function.comp_def]

/-- An entry takes its grant, as slices of its unit or as filler slices (R73). -/
theorem itemsLeft_entryItems (s : State) (e : ProgrammeEntry) : itemsLeft (s.entryItems e) = e.grant := by
  unfold State.entryItems
  cases s.captureOf e with
  | clear => rfl
  | keyed ph key => rfl
  | withdrawn => exact itemsLeft_fillerItems e.grant

theorem itemsLeft_entries (s : State) : ∀ entries : List ProgrammeEntry,
    itemsLeft (entries.flatMap s.entryItems) = (entries.map (·.grant)).sum
  | [] => rfl
  | e :: entries => by
      rw [List.flatMap_cons, itemsLeft_append, itemsLeft_entryItems, itemsLeft_entries s entries, List.map_cons,
        List.sum_cons]

/-- The slices that a boundary begins to emit number those of the list. -/
theorem itemsLeft_itemsOf (s : State) (c : CarrierNo) (list : EmissionList) (final : Bool) :
    itemsLeft (s.itemsOf c list final) = list.slices := by
  have hdirectory : ∀ (d : DirectoryBody) (items : List Item), itemsLeft (.directory d :: items) = 1 + itemsLeft items :=
    fun _ _ => rfl
  unfold State.itemsOf EmissionList.slices
  rw [hdirectory, itemsLeft_append, itemsLeft_append, itemsLeft_append, itemsLeft_access, itemsLeft_subscribers,
    itemsLeft_entries, itemsLeft_fillerItems]
  omega

/-! ### The cells returned (R73) -/

theorem withdrawnOf_cells (s : State) : ∀ entries : List ProgrammeEntry,
    (s.withdrawnOf entries).flatMap (·.unit.cells) =
      entries.flatMap (fun e => if (s.captureOf e).toOption = some none then e.unit.cells else [])
  | [] => rfl
  | e :: entries => by
      rw [List.flatMap_cons, ← withdrawnOf_cells s entries]
      by_cases h : s.captureOf e = .withdrawn
      · simp [State.withdrawnOf, h, Capture.toOption]
      · simp [State.withdrawnOf, h, Capture.toOption_eq_withdrawn]

end Sys2Proof.Machine

namespace Sys2Proof.Settled

open Sys2Proof.Machine

/-- Settles O44: the captures by `captureOf_toOption`, the repeat flags by `markWithdrawn_eq`, the slices by
`itemsLeft_itemsOf`, the cells by `withdrawnOf_cells`. -/
theorem emissionOrder : Obligations.EmissionOrder := by
  intro c list final s capture
  have hcapture : capture = fun e => (s.captureOf e).toOption := funext fun e => (captureOf_toOption s e).symm
  rw [hcapture]
  refine ⟨_, ?_, markWithdrawn_eq s list.entries list.directory, itemsLeft_itemsOf s c list final, fun hl => ?_⟩
  · have hitems : s.entryItems = _ := funext (entryItems_eq s)
    rw [State.itemsOf, hitems]
    rfl
  · rw [beginInterval_some hl, withdrawnOf_cells]
    rfl

end Sys2Proof.Settled

/-! SUPPORT. Slots and their states in the words of the statements (R77), and the flags that an event writes on several
ports at once (R82, R85, R86, R91, R92, R105, R110). -/

namespace Sys2Proof.Machine

/-! ### Slots -/

@[simp] theorem Phase.other_other (ph : Phase) : ph.other.other = ph := by cases ph <;> rfl

theorem Phase.eq_or_other (ph q : Phase) : q = ph ∨ q = ph.other := by cases ph <;> cases q <;> simp [Phase.other]

@[simp] theorem Group.setSlot_slot (grp : Group) (ph : Phase) (k : Option KeySlot) :
    (grp.setSlot ph k).slot ph = k := by cases ph <;> rfl

@[simp] theorem Group.setSlot_slot_other (grp : Group) (ph : Phase) (k : Option KeySlot) :
    (grp.setSlot ph k).slot ph.other = grp.slot ph.other := by cases ph <;> rfl

/-- A group with one slot written is the group but for that slot. -/
theorem Group.setSlot_eq (grp : Group) (ph : Phase) (k : Option KeySlot) :
    grp.setSlot ph k =
      { grp with slotA := (grp.setSlot ph k).slotA, slotB := (grp.setSlot ph k).slotB } := by cases ph <;> rfl

theorem Group.pendingPhase_of_active {grp : Group} {ph : Phase} (h : grp.active = some ph) :
    grp.pendingPhase = ph.other := by simp [Group.pendingPhase, h]

theorem Group.pendingPhase_of_none {grp : Group} (h : grp.active = none) : grp.pendingPhase = .a := by
  simp [Group.pendingPhase, h]

theorem Group.activeSlot_of {grp : Group} {ph : Phase} {k : KeySlot} (h : grp.active = some ph)
    (hk : grp.slot ph = some k) : grp.activeSlot = some (ph, k) := by simp [Group.activeSlot, h, hk]

/-- JOINING and JOINED are the roles of a member that may fetch keys (R78). -/
theorem Role.active_iff (r : Role) : r.active = true ↔ r = .joining ∨ r = .joined := by cases r <;> decide

/-! ### Slot states (R77) -/

theorem subset_iff {n : Nat} {m k : BitVec n} :
    subset m k = true ↔ ∀ i : Fin n, hasItem m i = true → hasItem k i = true := by
  unfold subset
  rw [beq_iff_eq]
  constructor
  · intro h i hi
    have hbit := congrArg (hasItem · i) h
    simp only [hasItem] at hbit hi ⊢
    simpa [hi] using hbit
  · intro h
    refine set_ext fun i => ?_
    have hi := h i
    simp only [hasItem] at hi ⊢
    cases hm : m.getLsbD i.val <;> simp_all

theorem Group.covered_iff {grp : Group} {k : KeySlot} :
    grp.covered k = true ↔ (∃ p : PortNo, grp.roles[p.val] = .joined)
      ∧ ∀ p : PortNo, grp.roles[p.val] = .joined → k.packets[p.val] ≠ none := by
  simp [Group.covered, Option.isSome_iff_ne_none, bne, ← imp_iff_not_or]

theorem KeySlot.airedOn_iff {k : KeySlot} {relevant : CarrierSet} :
    k.airedOn relevant = true ↔ ∀ (p : PortNo) x, k.packets[p.val] = some x →
      ∀ c : CarrierNo, hasItem relevant c = true → hasItem x.aired c = true := by
  unfold KeySlot.airedOn
  rw [List.all_eq_true]
  refine ⟨fun h p x hx => ?_, fun h p _ => ?_⟩
  · have hp := h p (List.mem_finRange p)
    rw [hx] at hp
    exact subset_iff.1 hp
  · split
    · next x hx => exact subset_iff.2 (h p x hx)
    · rfl

section
variable {s : State} {g : GroupNo} {ph : Phase}

/-- The state of a slot that holds a key. -/
theorem slotState_of_some {k : KeySlot} (hk : (s.group g).slot ph = some k) :
    s.slotState g ph =
      if (s.group g).active = some ph then .active
      else if !(s.group g).covered k then .issued
      else if !k.airedOn (s.relevant g) then .covered
      else .aired := by simp [State.slotState, hk]

theorem slotState_empty_iff : s.slotState g ph = .empty ↔ (s.group g).slot ph = none := by
  cases hk : (s.group g).slot ph with
  | none => simp [State.slotState, hk]
  | some k => rw [slotState_of_some hk]; split_ifs <;> simp

theorem slotState_active_iff :
    s.slotState g ph = .active ↔ (s.group g).slot ph ≠ none ∧ (s.group g).active = some ph := by
  cases hk : (s.group g).slot ph with
  | none => simp [State.slotState, hk]
  | some k => rw [slotState_of_some hk]; split_ifs <;> simp_all

/-- Another slot than the one in use is ISSUED, COVERED or AIRED by its packets (R77). -/
theorem slotState_pending_iff :
    (s.slotState g ph = .issued ↔ (s.group g).active ≠ some ph ∧ ∃ k, (s.group g).slot ph = some k
        ∧ ¬ (s.group g).covered k = true)
      ∧ (s.slotState g ph = .covered ↔ (s.group g).active ≠ some ph ∧ ∃ k, (s.group g).slot ph = some k
        ∧ (s.group g).covered k = true ∧ ¬ k.airedOn (s.relevant g) = true)
      ∧ (s.slotState g ph = .aired ↔ (s.group g).active ≠ some ph ∧ ∃ k, (s.group g).slot ph = some k
        ∧ (s.group g).covered k = true ∧ k.airedOn (s.relevant g) = true) := by
  cases hk : (s.group g).slot ph with
  | none => simp [State.slotState, hk]
  | some k => rw [slotState_of_some hk]; split_ifs <;> simp_all

theorem slotState_aired_iff :
    s.slotState g ph = .aired ↔ (s.group g).active ≠ some ph ∧ ∃ k, (s.group g).slot ph = some k
      ∧ (s.group g).covered k = true ∧ k.airedOn (s.relevant g) = true := slotState_pending_iff.2.2

end

/-! ### A record of every port written -/

/-- A fold that writes each port that meets a condition, where the condition rests on no port's record. -/
theorem foldPorts_port {P : State → PortNo → Bool} {F : AccessPort → AccessPort}
    (hP : ∀ s p k q, P (s.setPort p k) q = P s q) (q : PortNo) : ∀ (l : List PortNo), l.Nodup → ∀ s : State,
    (l.foldl (fun s p => if P s p then s.setPort p (F (s.port p)) else s) s).port q =
      if q ∈ l ∧ P s q = true then F (s.port q) else s.port q
  | [], _, s => by simp
  | p :: l, hl, s => by
      obtain ⟨hp, hl⟩ := List.nodup_cons.1 hl
      rw [List.foldl_cons, foldPorts_port hP q l hl]
      by_cases hq : q = p
      · subst hq
        cases hP' : P s q <;> simp [hp, hP']
      · cases hP' : P s p <;> simp [hq, hP]

/-- The tables of two states are equal where their records are. -/
theorem access_eq_map {s t : State} {F : AccessPort → AccessPort} (h : ∀ p, t.port p = F (s.port p)) :
    t.access = s.access.map F := by
  ext1 i hi
  rw [Vector.getElem_map]
  exact h ⟨i, hi⟩

section
variable (s : State) (g : GroupNo)

/-- KEY_WAITING is set on the JOINING and JOINED members. -/
theorem raiseKeyWaiting_port (q : PortNo) :
    (s.raiseKeyWaiting g).port q =
      if (s.group g).roles[q.val].active = true then
        { s.port q with keyWaiting := (s.port q).keyWaiting.set g.val true }
      else s.port q := by
  refine (foldPorts_port (P := fun s p => (s.group g).roles[p.val] == .joining || (s.group g).roles[p.val] == .joined)
    (F := fun k => { k with keyWaiting := k.keyWaiting.set g.val true }) (fun _ _ _ _ => rfl) q _
    (List.nodup_finRange 4) s).trans ?_
  simp [Role.active_iff]

theorem clearKeyWaiting_port (q : PortNo) :
    (s.clearKeyWaiting g).port q = { s.port q with keyWaiting := (s.port q).keyWaiting.set g.val false } := by
  refine (foldPorts_port (P := fun _ _ => true)
    (F := fun k => { k with keyWaiting := k.keyWaiting.set g.val false }) (fun _ _ _ _ => rfl) q _
    (List.nodup_finRange 4) s).trans ?_
  simp

theorem clearKeyWaiting_eq :
    s.clearKeyWaiting g =
      { s with access := s.access.map (fun k => { k with keyWaiting := k.keyWaiting.set g.val false }) } := by
  have haccess := access_eq_map (F := fun k => { k with keyWaiting := k.keyWaiting.set g.val false })
    (clearKeyWaiting_port s g)
  obtain ⟨a, h⟩ := clearKeyWaiting_shape s g
  rw [h] at haccess ⊢
  rw [← haccess]

end

end Sys2Proof.Machine

/-! SUPPORT. Keys drawn into the pending slot (R79, R86, R94), and the group events: each as one equation where its rule
gives it an effect. -/

namespace Sys2Proof.Machine

@[simp] theorem toGroup_val (g : GroupNo) : toGroup g.val = some g := toIndex_val g
theorem toGroup_none {v : Nat} (h : 32 ≤ v) : toGroup v = none := toIndex_none h

/-! ### Draws (R79) -/

section
variable {s : State} {g : GroupNo}

/-- Only a STARTING group has a start time to be recomputed (R84). -/
theorem recompute_of_not_starting (h : (s.group g).state ≠ .starting) : s.recompute g = s := by
  simp [State.recompute, h]

/-- A draw for a group with a key in use: a new key, not the one in use, with no packet. -/
theorem drawPending_eq {ph : Phase} {k : KeySlot} (hst : (s.group g).state ≠ .starting)
    (ha : (s.group g).active = some ph) (hk : (s.group g).slot ph = some k) (serial : Serial) :
    ∃ key n, key ≠ k.key ∧ s.drawPending g serial =
      ({ s with keyIndex := n }.setGroup g
        ((s.group g).setSlot ph.other (some (KeySlot.fresh serial key)))).raiseKeyWaiting g := by
  obtain ⟨key, n, hdraw, hne⟩ := drawKey_spec s (some k.key)
  refine ⟨key, n, fun h => hne (by rw [h]), ?_⟩
  unfold State.drawPending
  rw [Group.activeSlot_of ha hk, Option.map_some, hdraw]
  dsimp only
  rw [show ({ s with keyIndex := n } : State).group g = s.group g from rfl, Group.pendingPhase_of_active ha,
    recompute_of_not_starting]
  rw [State.setGroup_self, Group.setSlot_eq]
  exact hst

/-- What a draw leaves, record by record. -/
theorem drawPending_spec {ph : Phase} {k : KeySlot} (hst : (s.group g).state ≠ .starting)
    (ha : (s.group g).active = some ph) (hk : (s.group g).slot ph = some k) (serial : Serial) :
    ∃ key n, key ≠ k.key
      ∧ (s.drawPending g serial).group g = (s.group g).setSlot ph.other (some (KeySlot.fresh serial key))
      ∧ (∀ h, h ≠ g → (s.drawPending g serial).group h = s.group h)
      ∧ (∀ p, (s.drawPending g serial).port p =
        if (s.group g).roles[p.val].active = true then
          { s.port p with keyWaiting := (s.port p).keyWaiting.set g.val true }
        else s.port p)
      ∧ s.drawPending g serial =
        { s with
          groups := (s.drawPending g serial).groups
          access := (s.drawPending g serial).access
          keyIndex := n } := by
  obtain ⟨key, n, hne, hdraw⟩ := drawPending_eq hst ha hk serial
  generalize hu : ({ s with keyIndex := n } : State).setGroup g _ = u at hdraw
  have hself : u.group g = (s.group g).setSlot ph.other (some (KeySlot.fresh serial key)) := by
    rw [← hu, State.setGroup_self]
  have hport := raiseKeyWaiting_port u g
  obtain ⟨a, hr⟩ := raiseKeyWaiting_shape u g
  rw [hdraw]
  refine ⟨key, n, hne, ?_, fun h hh => ?_, fun p => (hport p).trans ?_, ?_⟩
  · rw [hr]; exact hself
  · rw [hr, ← hu]; exact State.setGroup_ne _ g _ h hh
  · rw [hself, Group.setSlot_eq, ← hu]; rfl
  · rw [hr, ← hu]; rfl

end

/-! ### Times that fall due (R1) -/

theorem GroupState.not_starting_of_keyed {st : GroupState} (h : st.keyed = true) : st ≠ .starting := by
  rintro rfl; cases h

section
variable {s : State} {g : GroupNo}

/-! ### The draw event (R86) -/

theorem drawEvent_not_due (h : ¬ ((s.group g).state = .running ∧ ∃ d, (s.group g).drawTime = some d ∧ d ≤ s.time)) :
    s.drawEvent g = s := by
  rw [← isDue_iff] at h
  exact if_neg h

theorem drawEvent_due {ph : Phase} {k : KeySlot} (hst : (s.group g).state = .running)
    (hd : s.isDue (s.group g).drawTime = true) (ha : (s.group g).active = some ph) (hk : (s.group g).slot ph = some k) :
    s.drawEvent g =
      (s.drawPending g (k.serial + 1)).setGroup g
        { (s.drawPending g (k.serial + 1)).group g with drawTime := none } := by
  unfold State.drawEvent
  dsimp only
  rw [if_pos ⟨hst, hd⟩, Group.activeSlot_of ha hk]

/-! ### The start event (R85) -/

theorem startEvent_not_due (h : ¬ ((s.group g).state = .starting ∧ ∃ d, (s.group g).startTime = some d ∧ d ≤ s.time)) :
    s.startEvent g = s := by
  rw [← isDue_iff] at h
  exact if_neg h

theorem startEvent_due {d : Time} (hst : (s.group g).state = .starting) (hd : (s.group g).startTime = some d)
    (hdue : d ≤ s.time) :
    s.startEvent g =
      (s.setGroup g { (s.group g).schedule d with state := .running, active := some .a, startTime := none
        }).clearKeyWaiting g := by
  unfold State.startEvent
  dsimp only
  rw [if_pos ⟨hst, isDue_iff.2 ⟨d, hd, hdue⟩⟩, hd, Option.getD_some]

/-! ### The changeover event (R91, R92) -/

theorem changeover_not_due (h : ¬ ((s.group g).state.keyed = true ∧ s.isDue (s.group g).nextChangeover = true)) :
    s.changeover g = s := by
  unfold State.changeover
  exact if_neg (by rwa [Bool.and_eq_true])

theorem changeover_due (hst : (s.group g).state.keyed = true) (hd : s.isDue (s.group g).nextChangeover = true) :
    s.changeover g =
      if s.slotState g (s.group g).pendingPhase = .aired then s.swapSlots g else s.deferChangeover g := by
  unfold State.changeover
  dsimp only
  rw [hst, hd, Bool.and_self, if_pos rfl]
  simp only [State.pendingAired, beq_iff_eq]

/-- A changeover that finds the pending slot AIRED (R91). -/
theorem swapSlots_eq {ph : Phase} (ha : (s.group g).active = some ph) :
    s.swapSlots g =
      ((s.setGroup g
        { ((s.group g).setSlot ph none).schedule s.time with
          state := .running
          active := some ph.other
          extensions := 0 }).removeSlotEntries g ph).clearKeyWaiting g := by
  unfold State.swapSlots
  dsimp only
  rw [Group.pendingPhase_of_active ha, Phase.other_other]

/-- LATE goes to each JOINED member with no packet in the pending slot (R92). -/
theorem raiseLate_port (s : State) (g : GroupNo) (q : PortNo) :
    (s.raiseLate g).port q =
      if (s.group g).roles[q.val] = .joined ∧ (s.group g).stored (s.group g).pendingPhase q = none then
        { s.port q with
          state := (s.port q).raised
          condition :=
            { (s.port q).condition with
              late := (s.port q).condition.late.set g.val true
              lateCount := count16 (s.port q).condition.lateCount } }
      else s.port q := by
  have hfold : s.raiseLate g = (List.finRange 4).foldl
      (fun t p => if (s.group g).roles[p.val] == .joined && !((s.group g).stored (s.group g).pendingPhase p).isSome then
        t.addLate p g else t) s := by
    unfold State.raiseLate Group.stored Group.pendingSlot
    dsimp only
    cases (s.group g).slot (s.group g).pendingPhase <;> rfl
  rw [hfold]
  refine (foldPorts_port
    (P := fun _ p => (s.group g).roles[p.val] == .joined
      && !((s.group g).stored (s.group g).pendingPhase p).isSome)
    (F := fun k =>
      { k with
        state := k.raised
        condition :=
          { k.condition with late := k.condition.late.set g.val true, lateCount := count16 k.condition.lateCount } })
    (fun _ _ _ _ => rfl) q _ (List.nodup_finRange 4) s).trans ?_
  simp

/-- The record of a group whose changeover is deferred at station time `t` (R92). -/
def Group.deferred (grp : Group) (limit : Nat) (t : Time) : Group :=
  let count := if grp.extensions < limit then grp.extensions + 1 else grp.extensions
  { grp with
    state := if limit ≤ count then .frozen else .extended
    extensions := count
    nextChangeover := some (t + 1000000)
    drawTime := none }

/-- A changeover that finds the pending slot not AIRED (R92). -/
theorem deferChangeover_eq {d : GroupDef} (hd : (s.group g).definition = some d) :
    s.deferChangeover g =
      if (s.group g).extensions + 1 = d.limit then
        (((s.setGroup g ((s.group g).deferred d.limit s.time)).raiseLate g).setGroupAlert g true).addGroupFrozen g
      else ((s.setGroup g ((s.group g).deferred d.limit s.time)).raiseLate g).setGroupAlert g true := by
  have hlimit : (s.group g).limit = d.limit := by simp [Group.limit, hd]
  unfold State.deferChangeover Group.deferred
  dsimp only
  rw [hlimit]
  rcases Nat.lt_trichotomy ((s.group g).extensions + 1) d.limit with h | h | h
  · simp [Nat.lt_of_succ_lt h, h.ne, Nat.not_le.2 h, Config.extension]
  · simp [h, Nat.lt_of_succ_le h.le, Config.extension]
  · simp [Nat.not_lt.2 (Nat.le_of_lt_succ h), h.ne', Nat.le_of_lt_succ h, Config.extension]

end

/-! ### READ GROUP (R77, R83) -/

/-- The alert condition of a group (R76). -/
theorem Group.alert_iff (grp : Group) :
    grp.alert = true ↔ grp.state = .extended ∨ grp.state = .frozen ∨ grp.plan.status = .fault := by
  simp [Group.alert, or_assoc]

/-- The relevant set of a group (R77). -/
theorem hasItem_relevant {s : State} {g : GroupNo} {c : CarrierNo} :
    hasItem (s.relevant g) c = true ↔
      (s.carrier c).state = .onAir ∧ ∃ p d, ((s.programme p).state = .live ∨ (s.programme p).state = .resync)
        ∧ (s.programme p).definition = some d ∧ d.carrier = c ∧ d.group = some g := by
  unfold State.relevant
  rw [hasItem_setWhere, Bool.and_eq_true, beq_iff_eq, carriesGroup_iff]
  refine and_congr_right fun _ => exists_congr fun p => ?_
  rw [State.servedBy, List.mem_filter, mem_naming, decide_eq_true_iff]
  constructor
  · rintro ⟨⟨⟨-, hc⟩, hserve⟩, hg⟩
    obtain ⟨d, hd, rfl⟩ := Option.map_eq_some_iff.1 hc
    exact ⟨d, hserve, hd, rfl, by simpa [hd] using hg⟩
  · rintro ⟨d, hserve, hd, rfl, hg⟩
    refine ⟨⟨⟨?_, by rw [hd]; rfl⟩, hserve⟩, by simpa [hd] using hg⟩
    rcases hserve with h | h <;> rw [h] <;> decide

theorem slotReport_packets (s : State) (g : GroupNo) (ph : Phase) (p : PortNo) :
    (s.slotReport g ph).packets[p.val] = ((s.group g).slot ph).bind (fun k => k.packets[p.val].map (fun x =>
      ⟨x.body.length, (x.body.length + 247) / 248, x.aired⟩)) := by
  unfold State.slotReport
  cases (s.group g).slot ph <;> simp [sliceCount_eq]

/-! ### RELEASE GROUP (R82) -/

theorem groupNamed_iff {s : State} {g : GroupNo} :
    s.groupNamed g = true ↔
      ∃ p, (s.programme p).state ≠ .unused ∧ (s.programme p).definition.bind (·.group) = some g := by
  simp [State.groupNamed, Programme.group]

theorem release_port (s : State) (g : GroupNo) (q : PortNo) :
    (s.release g).port q =
      { s.port q with
        keyWaiting := (s.port q).keyWaiting.set g.val false
        planWaiting := (s.port q).planWaiting.set g.val false } := by
  have hfold : s.release g = (List.finRange 4).foldl (fun t p => if true then t.setPort p
      { t.port p with
        keyWaiting := (t.port p).keyWaiting.set g.val false
        planWaiting := (t.port p).planWaiting.set g.val false } else t)
      ((s.setGroup g Group.reset).removeGroupEntries g) := by
    simp [State.release, State.setKeyWaiting, State.setPlanWaiting]
  rw [hfold]
  refine (foldPorts_port (P := fun _ _ => true)
    (F := fun k => { k with keyWaiting := k.keyWaiting.set g.val false, planWaiting := k.planWaiting.set g.val false })
    (fun _ _ _ _ => rfl) q _ (List.nodup_finRange 4) _).trans ?_
  rw [if_pos ⟨List.mem_finRange q, rfl⟩]
  rfl

theorem release_eq (s : State) (g : GroupNo) :
    s.release g =
      { s with
        groups := s.groups.set g.val Group.reset
        carriers := s.carriers.map (fun k => { k with carousel := k.carousel.filter (fun e => e.group != g) })
        access := s.access.map (fun k =>
          { k with
            keyWaiting := k.keyWaiting.set g.val false
            planWaiting := k.planWaiting.set g.val false }) } := by
  have haccess := access_eq_map (t := s.release g) (F := fun k =>
    { k with keyWaiting := k.keyWaiting.set g.val false, planWaiting := k.planWaiting.set g.val false })
    (release_port s g)
  have hshape : AccessOnly ((s.setGroup g Group.reset).removeGroupEntries g) (s.release g) :=
    foldl_rel AccessOnly AccessOnly.refl AccessOnly.trans _ (fun _ _ => ⟨_, rfl⟩) _ _
  obtain ⟨a, h⟩ := hshape
  rw [h] at haccess ⊢
  rw [← haccess]
  rfl

/-! ### RESTART GROUP (R94) -/

theorem restartGroup_eq {s : State} {g : GroupNo} {ph : Phase} {old : KeySlot} {plan : Plan}
    (ha : (s.group g).active = some ph) (hold : (s.group g).slot ph.other = some old)
    (hplan : (s.group g).applied = some plan) :
    s.restartGroup g =
      ((s.removeSlotEntries g ph.other).drawPending g old.serial).setGroup g
        { ((s.removeSlotEntries g ph.other).drawPending g old.serial).group g with
          state := .extended
          extensions := 0
          nextChangeover := some ((s.time + plan.lead * 1000000 + 1000000 + 999999) / 1000000 * 1000000)
          drawTime := none } := by
  have hpending : (s.group g).pendingSlot = some old := by
    rw [Group.pendingSlot, Group.pendingPhase_of_active ha, hold]
  have htime : ∀ serial, ((s.removeSlotEntries g ph.other).drawPending g serial).time = s.time := fun serial => by
    obtain ⟨_, _, _, h⟩ := drawPending_shape (s.removeSlotEntries g ph.other) g serial
    rw [h]; rfl
  unfold State.restartGroup
  dsimp only
  rw [hpending, Group.pendingPhase_of_active ha, hplan]
  dsimp only [Option.map_some, Option.getD_some]
  rw [htime, ceilTo_second]
  rfl

end Sys2Proof.Machine

/-! Groups and keys (R77 to R94): the statements on single orders and events. -/

namespace Sys2Proof.Settled

open Sys2Proof.Machine

/-- Settles O28: by the role, then by the slot selected. -/
theorem fetchKey : Obligations.FetchKey := by
  intro p s h
  refine ⟨fun group selector hr => ?_, fun group hr => ?_, fun g => ?_⟩
  · refine congrArg _ (takeOrder_rejected h ?_)
    rcases hr with hr | hr
    · simp [onAccess, fetchActive, toGroup_none hr]
    · cases selector <;> simp_all [onAccess, fetchActive]
  · exact congrArg _ (takeOrder_rejected h (by simp [onAccess, fetchPending, toGroup_none hr]))
  · intro grp member pending
    have hmember : member ↔ (s.group g).roles[p.val].active = true := (Role.active_iff _).symm
    have hpending : pending = (s.group g).pendingPhase := rfl
    refine ⟨fun hm => ⟨?_, ?_⟩, fun hm hk => ?_, fun ph k hm ha hk => ?_, fun hm hk => ?_, fun k hm hk => ?_⟩
    all_goals rw [hmember] at hm
    · exact congrArg _ (takeOrder_rejected h (by simp [onAccess, fetchActive, hm]))
    · exact congrArg _ (takeOrder_rejected h (by simp [onAccess, fetchPending, hm]))
    · refine congrArg _ (takeOrder_rejected h ?_)
      have hnone : (s.group g).activeSlot = none := by
        unfold Group.activeSlot
        cases ha : (s.group g).active with
        | none => rfl
        | some ph =>
            have hslot : (s.group g).slot ph = none := by simpa [grp, ha] using hk
            simp [hslot]
      simp [onAccess, fetchActive, hm, hnone]
    · have hactive := Group.activeSlot_of ha hk
      exact congrArg _ (takeOrder_done h (by simp [onAccess, fetchActive, hm, hactive, Group.keyRecord, grp]))
    · have hnone : (s.group g).pendingSlot = none := hk
      exact congrArg _ (takeOrder_rejected h (by simp [onAccess, fetchPending, hm, hnone]))
    · have hsome : (s.group g).pendingSlot = some k := hk
      exact congrArg _ (takeOrder_done h
        (by simp [onAccess, fetchPending, hm, hsome, Group.keyRecord, State.setKeyWaiting, grp, hpending]))

/-- Settles O27: the reply is `groupReport`, its slot states by `slotState_pending_iff`. -/
theorem readGroup : Obligations.ReadGroup := by
  intro s h
  refine ⟨fun group hr => ?_, fun g => ⟨s.groupReport g, ?_, rfl, rfl, rfl, rfl, rfl, rfl, rfl, rfl, rfl, rfl, rfl,
    Group.alert_iff _, fun c => hasItem_relevant, fun ph => ?_⟩⟩
  · exact congrArg _ (takeOrder_rejected h (by simp [Machine.readGroup, toGroup_none hr]))
  · exact congrArg _ (takeOrder_done h (by simp [Machine.readGroup]))
  · intro rep
    have hrep : rep = s.slotReport g ph := by cases ph <;> rfl
    rw [hrep]
    refine ⟨rfl, slotReport_packets s g ph, ?_⟩
    intro covered aired pending
    have hcov : ∀ k, covered k ↔ (s.group g).covered k = true := fun k => Group.covered_iff.symm
    have hair : ∀ k, aired k ↔ k.airedOn (s.relevant g) = true := fun k => KeySlot.airedOn_iff.symm
    simp only [pending, hcov, hair]
    exact ⟨slotState_empty_iff, slotState_active_iff, slotState_pending_iff⟩

/-- Settles O30: the draw by `drawPending_spec`, the start by `startEvent_due`. -/
theorem drawAndStart : Obligations.DrawAndStart := by
  intro g s grp
  refine ⟨fun hn => congrArg _ (drawEvent_not_due hn), fun d ph k hst hd hdue ha hk => ?_,
    fun hn => congrArg _ (startEvent_not_due hn), fun d plan hst hd hdue hplan => ?_⟩
  · obtain ⟨key, n, hne, hself, hothers, hport, hrest⟩ :=
      drawPending_spec (g := g) (s := s) (by rw [hst]; decide) ha hk (k.serial + 1)
    have hexec := drawEvent_due hst (isDue_iff.2 ⟨d, hd, hdue⟩) ha hk
    generalize s.drawPending g (k.serial + 1) = u at hself hothers hport hrest hexec
    refine ⟨key, n, s.drawEvent g, rfl, hne, ?_, fun h hh => ?_, fun p => ?_, ?_⟩
    all_goals rw [hexec]
    · rw [State.setGroup_self, hself]; rfl
    · rw [State.setGroup_ne _ _ _ _ hh, hothers h hh]
    · rw [State.setGroup_port, hport p]
      exact if_ctx_congr (Role.active_iff _) (fun _ => rfl) fun _ => rfl
    · conv_lhs => rw [hrest]
      rfl
  · refine congrArg _ ((startEvent_due hst hd hdue).trans ((clearKeyWaiting_eq _ g).trans ?_))
    simp [State.setGroup, Group.schedule, hplan, grp, Config.second]

/-- Settles O25: `release_eq`, the flags by a fold over the ports. -/
theorem releaseGroup : Obligations.ReleaseGroup := by
  intro s h
  refine ⟨fun group hr => ?_, fun g => ⟨fun hc => ?_, fun hst hn => ?_⟩⟩
  · exact congrArg _ (takeOrder_rejected h (by simp [Machine.releaseGroup, toGroup_none hr]))
  · rw [← groupNamed_iff] at hc
    exact congrArg _ (takeOrder_rejected h (by simp [Machine.releaseGroup, hc]))
  · have hnamed : ¬ s.groupNamed g = true := fun hg => by
      obtain ⟨p, hp, hd⟩ := groupNamed_iff.1 hg
      exact hn p hp hd
    rw [← release_eq]
    exact congrArg _ (takeOrder_done h (by simp [Machine.releaseGroup, hst, hnamed]))

/-- Settles O26: the draw by `drawPending_spec`, the new times by `restartGroup_eq`. -/
theorem restartGroup : Obligations.RestartGroup := by
  intro s h
  refine ⟨fun group hr => ?_, fun g => ⟨fun he hf => ?_, fun ph inUse old plan hst ha hk hold hplan => ?_⟩⟩
  · exact congrArg _ (takeOrder_rejected h (by simp [Machine.restartGroup, toGroup_none hr]))
  · exact congrArg _ (takeOrder_rejected h (by simp [Machine.restartGroup, he, hf]))
  · intro next
    have heq := restartGroup_eq ha hold hplan
    generalize hv : s.removeSlotEntries g ph.other = v at heq
    have hgroup : ∀ h, v.group h = s.group h := fun h => by rw [← hv]; rfl
    obtain ⟨key, n, hne, hself, hothers, hport, hrest⟩ :=
      drawPending_spec (g := g) (s := v) (by rw [hgroup]; rcases hst with h | h <;> rw [h] <;> decide)
        (by rw [hgroup]; exact ha) (by rw [hgroup]; exact hk) old.serial
    generalize v.drawPending g old.serial = u at hself hothers hport hrest heq
    obtain ⟨gs, a, hu⟩ : ∃ gs a, u = { v with groups := gs, access := a, keyIndex := n } := ⟨_, _, hrest⟩
    clear hrest
    have hrecord : (s.restartGroup g).group g =
        { (s.group g).setSlot ph.other (some ⟨old.serial, key, Vector.replicate 4 none⟩) with
          state := .extended
          extensions := 0
          nextChangeover := some next
          drawTime := none } := by
      rw [heq, State.setGroup_self, hself, hgroup]
      rfl
    have hserial : ((s.restartGroup g).group g).pendingSlot = some ⟨old.serial, key, Vector.replicate 4 none⟩ := by
      rw [hrecord]
      cases ph <;> simp [Group.pendingSlot, Group.pendingPhase, Group.setSlot, ha, Phase.other, Group.slot]
    have hnext : ((s.restartGroup g).group g).nextChangeover = some next := by rw [hrecord]
    have hreply : Machine.restartGroup g.val s = (s.restartGroup g, .done (.restarted old.serial (some next))) := by
      simp only [Machine.restartGroup, toGroup_val, if_pos hst, hserial, hnext, Option.map_some, Option.getD_some]
    refine ⟨key, n, s.restartGroup g, ?_, hne, hrecord, fun h hh => ?_, fun c => ?_, fun p => ?_, ?_⟩
    · exact congrArg Host.Outcome.next (takeOrder_done h hreply)
    all_goals rw [heq]
    · rw [State.setGroup_ne _ _ _ _ hh, hothers h hh, hgroup]
    · rw [State.setGroup_carrier, hu, ← hv]
      exact keepEntries_carrier s _ c
    · rw [State.setGroup_port, hport p, hgroup, ← hv]
      rfl
    · rw [hu, ← hv]
      rfl

/-- Settles O31: by the state of the pending slot, with `swapSlots_eq` and `deferChangeover_eq`. -/
theorem changeover : Obligations.Changeover := by
  intro g s grp keyed
  have hkeyed : keyed ↔ (s.group g).state.keyed = true := (keyed_iff _).symm
  refine ⟨fun hn => congrArg _ (changeover_not_due (by rwa [hkeyed, ← isDue_iff] at hn)), fun d ph hst hd hdue ha => ?_⟩
  have hexec := changeover_due (hkeyed.1 hst) (isDue_iff.2 ⟨d, hd, hdue⟩)
  rw [Group.pendingPhase_of_active ha] at hexec
  refine ⟨fun plan haired hplan => ?_, fun d' hnot hdef => ?_⟩
  · rw [if_pos haired, swapSlots_eq ha, clearKeyWaiting_eq] at hexec
    refine congrArg _ (hexec.trans ?_)
    have hplan' : ((s.group g).setSlot ph none).plan.agreed = some plan := by rw [Group.setSlot_eq]; exact hplan
    simp [State.removeSlotEntries, State.keepEntries, State.setGroup, Group.schedule, hplan', grp, Config.second]
  · intro count
    rw [if_neg hnot, deferChangeover_eq hdef] at hexec
    have hport := raiseLate_port (s.setGroup g ((s.group g).deferred d'.limit s.time)) g
    obtain ⟨a, hr⟩ := raiseLate_shape (s.setGroup g ((s.group g).deferred d'.limit s.time)) g
    have hpending : ((s.group g).deferred d'.limit s.time).pendingPhase = ph.other := Group.pendingPhase_of_active ha
    have hstored : ∀ p, ((s.group g).deferred d'.limit s.time).stored ph.other p
        = (grp.slot ph.other).bind (fun k => k.packets[p.val]) := fun p => by cases ph <;> rfl
    rw [State.setGroup_self, hpending] at hport
    simp only [hstored] at hport
    generalize (s.setGroup g ((s.group g).deferred d'.limit s.time)).raiseLate g = u at hport hr hexec
    have hgroup : (s.changeover g).group g = u.group g ∧ ∀ h, (s.changeover g).group h = u.group h := by
      rw [hexec]; split <;> exact ⟨rfl, fun _ => rfl⟩
    refine ⟨s.changeover g, rfl, ?_, fun h hh => ?_, fun p => ?_, ?_, ?_⟩
    · rw [hgroup.1, hr]
      exact State.setGroup_self s g _
    · rw [hgroup.2, hr]
      exact State.setGroup_ne s g _ h hh
    · refine Eq.trans ?_ (hport p)
      rw [hexec]; split <;> rfl
    · rw [hexec, hr]; split <;> rfl
    · rw [hexec, hr]; split <;> rfl

end Sys2Proof.Settled

/-! SUPPORT. Packets stored (R88, R114): which slot a serial names, and what storing a packet leaves. -/

namespace Sys2Proof.Machine

/-! ### The slot of a serial (R88) -/

section
variable {grp : Group} {serial : Serial}

theorem slotOfSerial_none (h : ∀ ph k, grp.slot ph = some k → k.serial ≠ serial) : grp.slotOfSerial serial = none := by
  have hpending : grp.pendingSlot.bind
      (fun q => if q.serial = serial then some (grp.pendingPhase, q) else none) = none := by
    cases hq : grp.pendingSlot with
    | none => rfl
    | some q => exact if_neg (h _ q hq)
  unfold Group.slotOfSerial
  split
  · next ph k hk =>
    obtain ⟨ph', -, hslot⟩ := Option.bind_eq_some_iff.1 hk
    obtain ⟨k', hk', hpair⟩ := Option.map_eq_some_iff.1 hslot
    cases hpair
    rw [if_neg (h ph k hk'), hpending]
  · exact hpending

theorem slotOfSerial_active {ph : Phase} {k : KeySlot} (ha : grp.active = some ph) (hk : grp.slot ph = some k)
    (hs : k.serial = serial) : grp.slotOfSerial serial = some (ph, k) := by
  simp [Group.slotOfSerial, Group.activeSlot_of ha hk, hs]

/-- A serial of the pending slot, which the slot in use does not have. -/
theorem slotOfSerial_pending {k : KeySlot} (hk : grp.pendingSlot = some k) (hs : k.serial = serial)
    (hother : ∀ ph q, grp.active = some ph → grp.slot ph = some q → q.serial ≠ serial) :
    grp.slotOfSerial serial = some (grp.pendingPhase, k) := by
  unfold Group.slotOfSerial
  split
  · next ph q hq =>
    obtain ⟨ph', ha, hslot⟩ := Option.bind_eq_some_iff.1 hq
    obtain ⟨q', hq', hpair⟩ := Option.map_eq_some_iff.1 hslot
    cases hpair
    rw [if_neg (hother ph q ha hq'), hk, Option.bind_some, if_pos hs]
  · rw [hk, Option.bind_some, if_pos hs]

end

/-! ### Entries placed on every carrier (R114) -/

/-- A fold that writes each carrier that meets a condition, where writing a carrier leaves every condition. -/
theorem foldCarriers_carrier {P : State → CarrierNo → Bool} {F : Carrier → Carrier}
    (hP : ∀ s c d, P (s.setCarrier c (F (s.carrier c))) d = P s d) (d : CarrierNo) :
    ∀ (l : List CarrierNo), l.Nodup → ∀ s : State,
    (l.foldl (fun s c => if P s c then s.setCarrier c (F (s.carrier c)) else s) s).carrier d =
      if d ∈ l ∧ P s d = true then F (s.carrier d) else s.carrier d
  | [], _, s => by simp
  | c :: l, hl, s => by
      obtain ⟨hc, hl⟩ := List.nodup_cons.1 hl
      rw [List.foldl_cons, foldCarriers_carrier hP d l hl]
      by_cases hd : d = c
      · subst hd
        cases hP' : P s d <;> simp [hc, hP']
      · cases hP' : P s c <;> simp [hd, hP]

theorem placeEverywhere_carrier (s : State) (e : CarouselEntry) (d : CarrierNo) :
    (s.placeEverywhere e).carrier d =
      if (s.carrier d).state = .onAir ∧ s.carriesGroup d e.group = true then (s.carrier d).place e
      else s.carrier d := by
  refine (foldCarriers_carrier (P := fun s c => (s.carrier c).state == .onAir && s.carriesGroup c e.group)
    (F := fun k => k.place e) (fun s c d => ?_) d _ (List.nodup_finRange 4) s).trans ?_
  · rw [carriesGroup_congr rfl, State.setCarrier_carrier]
    split
    · next hd => rw [hd]; rfl
    · rfl
  · simp

/-! ### SUBMIT ACCESS (R88) -/

/-- What a stored packet leaves, record by record. -/
theorem storePacket_spec (s : State) (g : GroupNo) (ph : Phase) (k : KeySlot) (p : PortNo) (body : List Byte) :
    let t := s.storePacket g ph k p body
    t.group g =
        { (s.group g).setSlot ph (some { k with packets := k.packets.set p.val (some ⟨body, 0⟩) }) with
          startTime := t.startTimeFrom s g }
      ∧ (∀ h, h ≠ g → t.group h = s.group h)
      ∧ (∀ c, t.carrier c =
        if (s.carrier c).state = .onAir ∧ s.carriesGroup c g = true then
          (s.carrier c).place ⟨g, ph, p, sliceCount body.length, s.time⟩
        else s.carrier c)
      ∧ t = { s with carriers := t.carriers, groups := t.groups } := by
  unfold State.storePacket
  dsimp only
  generalize hu : s.setGroup g _ = u
  have hself : u.group g =
      (s.group g).setSlot ph (some { k with packets := k.packets.set p.val (some ⟨body, 0⟩) }) := by
    rw [← hu, State.setGroup_self]
  have hcarrier := placeEverywhere_carrier u ⟨g, ph, p, sliceCount body.length, u.time⟩
  obtain ⟨cs, hv⟩ := placeEverywhere_shape u ⟨g, ph, p, sliceCount body.length, u.time⟩
  rw [show s.time = u.time by rw [← hu]; rfl]
  generalize u.placeEverywhere ⟨g, ph, p, sliceCount body.length, u.time⟩ = v at hcarrier hv
  have hgroup : ∀ h, v.group h = u.group h := fun h => by rw [hv]; rfl
  have hrec : (v.recompute g).group g = { v.group g with startTime := (v.recompute g).startTimeFrom s g } :=
    recompute_startTimeFrom (by rw [hgroup, hself, Group.setSlot_eq]) (by rw [hgroup, hself, Group.setSlot_eq])
      (by rw [hv, ← hu]; rfl)
  have hother : ∀ h, h ≠ g → (v.recompute g).group h = s.group h := fun h hh => by
    rw [recompute_group_ne v hh, hgroup, ← hu, State.setGroup_ne _ _ _ _ hh]
  obtain ⟨gs, hr⟩ := recompute_shape v g
  refine ⟨?_, hother, fun c => ?_, ?_⟩
  · rw [hrec, hgroup, hself]
  · rw [hr]
    refine (hcarrier c).trans ?_
    rw [← hu]
    rfl
  · rw [hr, hv, ← hu]
    rfl

end Sys2Proof.Machine

namespace Sys2Proof.Settled

open Sys2Proof.Machine

/-- Settles O29: the slot by `slotOfSerial_active` and `slotOfSerial_pending`, the packet by `storePacket_spec`. -/
theorem submitAccess : Obligations.SubmitAccess := by
  intro p serial body s h
  refine ⟨fun group hr => ?_, fun g => ?_⟩
  · exact congrArg _ (takeOrder_rejected h (by simp [onAccess, Machine.submitAccess, toGroup_none hr]))
  intro grp member
  have hmember : member ↔ (s.group g).roles[p.val].active = true := (Role.active_iff _).symm
  refine ⟨fun hm => ?_, fun hm hstale => ?_, fun ph k hm hk hserial hphase => ?_⟩
  all_goals rw [hmember] at hm
  · exact congrArg _ (takeOrder_rejected h (by simp [onAccess, Machine.submitAccess, hm]))
  · have hslot : (s.group g).slotOfSerial serial = none := slotOfSerial_none hstale
    exact congrArg _ (takeOrder_rejected h (by simp [onAccess, Machine.submitAccess, hm, hslot]))
  · have hslot : (s.group g).slotOfSerial serial = some (ph, k) := by
      rcases hphase with ha | ⟨ha, hother⟩ | ⟨ha, rfl⟩
      · exact slotOfSerial_active ha hk hserial
      · have hpending : (s.group g).pendingPhase = ph := by rw [Group.pendingPhase_of_active ha, Phase.other_other]
        rw [← hpending] at hk ⊢
        refine slotOfSerial_pending hk hserial fun q k' hq => ?_
        cases ha.symm.trans hq
        exact hother k'
      · have hpending := Group.pendingPhase_of_none ha
        rw [← hpending] at hk ⊢
        exact slotOfSerial_pending hk hserial fun q k' hq => by cases ha.symm.trans hq
    refine ⟨fun hlen => ?_, fun hlen => ?_⟩
    · exact congrArg _ (takeOrder_rejected h (by simp only [onAccess, Machine.submitAccess, toGroup_val, hm, hslot,
        Bool.not_true, Bool.false_eq_true, if_false, if_neg hlen]))
    · obtain ⟨hself, hothers, hcarrier, hrest⟩ := storePacket_spec s g ph k p body
      have hreply : onAccess ⟨.access p, true⟩ (Machine.submitAccess g.val serial body) s
          = (s.storePacket g ph k p body, .done (.stored ph ((body.length + 247) / 248))) := by
        simp only [onAccess, Machine.submitAccess, toGroup_val, hm, hslot, Bool.not_true, Bool.false_eq_true, if_false,
          if_pos hlen, sliceCount_eq]
      generalize s.storePacket g ph k p body = t at hself hothers hcarrier hrest hreply
      refine ⟨t, congrArg Host.Outcome.next (takeOrder_done h hreply), hself, hothers, fun c => ?_, hrest⟩
      rw [hcarrier c, sliceCount_eq]
      rfl

end Sys2Proof.Settled

/-! SUPPORT. Roles of several members change (R78): what the roles, the slots, the carousel lists and the flags
become, and the start time (R84). -/

namespace Sys2Proof.Machine

/-! ### What the roles make of the records -/

/-- The ports of a list that leave JOINING and JOINED where their roles become `f`. -/
def Group.leaves (grp : Group) (f : PortNo → Role) (l : List PortNo) (p : PortNo) : Bool :=
  decide (p ∈ l) && grp.roles[p.val].active && !(f p).active

/-- The ports of a list that come to JOINING and JOINED while the pending slot holds a key. -/
def Group.comes (grp : Group) (f : PortNo → Role) (l : List PortNo) (p : PortNo) : Bool :=
  decide (p ∈ l) && !grp.roles[p.val].active && (f p).active && grp.pendingSlot.isSome

/-- The group's record after the roles of the ports of a list have become `f`, but for the start time. -/
def Group.recast (grp : Group) (f : PortNo → Role) (l : List PortNo) : Group :=
  { grp with
    roles := Vector.ofFn (fun p : PortNo => if p ∈ l then f p else grp.roles[p.val])
    slotA := grp.slotA.map (·.dropping (grp.leaves f l))
    slotB := grp.slotB.map (·.dropping (grp.leaves f l)) }

/-- A port's record after that. -/
def AccessPort.recast (k : AccessPort) (grp : Group) (f : PortNo → Role) (l : List PortNo) (g : GroupNo) (p : PortNo) :
    AccessPort :=
  { k with
    keyWaiting :=
      if grp.leaves f l p then k.keyWaiting.set g.val false
      else if grp.comes f l p then k.keyWaiting.set g.val true
      else k.keyWaiting
    planWaiting := if p ∈ l ∧ (f p).active = false then k.planWaiting.set g.val false else k.planWaiting }

/-- From `s` to `t` the roles of the ports of a list have become `f` in group `g`, with the effects of R78 and nothing
else. -/
structure Recast (g : GroupNo) (f : PortNo → Role) (l : List PortNo) (s t : State) : Prop where
  group : t.group g = { (s.group g).recast f l with startTime := (t.group g).startTime }
  others : ∀ h, h ≠ g → t.group h = s.group h
  carrier : ∀ c, t.carrier c =
    { s.carrier c with
      carousel := (s.carrier c).carousel.filter (fun e => !(e.group == g && (s.group g).leaves f l e.member)) }
  port : ∀ p, t.port p = (s.port p).recast (s.group g) f l g p
  rest : t = { s with groups := t.groups, carriers := t.carriers, access := t.access }

theorem Group.recast_slot (grp : Group) (f : PortNo → Role) (l : List PortNo) (ph : Phase) :
    (grp.recast f l).slot ph = (grp.slot ph).map (·.dropping (grp.leaves f l)) := by cases ph <;> rfl

theorem Group.recast_role (grp : Group) (f : PortNo → Role) (l : List PortNo) (p : PortNo) :
    (grp.recast f l).roles[p.val] = if p ∈ l then f p else grp.roles[p.val] := Vector.getElem_ofFn _

theorem Group.recast_pendingSlot (grp : Group) (f : PortNo → Role) (l : List PortNo) :
    (grp.recast f l).pendingSlot.isSome = grp.pendingSlot.isSome := by
  unfold Group.pendingSlot
  rw [Group.recast_slot, Option.isSome_map]
  rfl

/-! ### One role (R78) -/

section
variable {grp : Group} {f : PortNo → Role} {p : PortNo}

theorem Group.recast_one_roles : (grp.recast f [p]).roles = grp.roles.set p.val (f p) := by
  ext i hi
  refine (Group.recast_role grp f [p] ⟨i, hi⟩).trans ?_
  rw [Vector.getElem_set]
  by_cases h : p.val = i
  · subst h; simp
  · simp [h, Fin.ext_iff, Ne.symm h]

theorem Group.leaves_one (q : PortNo) :
    grp.leaves f [p] q = (decide (q = p) && (grp.roles[p.val].active && !(f p).active)) := by
  unfold Group.leaves
  by_cases h : q = p
  · subst h; simp
  · simp [h]

/-- A member that leaves JOINING and JOINED takes its packets with it. -/
theorem Group.recast_one_leaving (h : grp.roles[p.val].active = true) (hf : (f p).active = false) :
    grp.recast f [p] =
      { grp with
        roles := grp.roles.set p.val (f p)
        slotA := grp.slotA.map (·.dropPacket p)
        slotB := grp.slotB.map (·.dropPacket p) } := by
  have hleaves : grp.leaves f [p] = fun q => decide (q = p) := funext fun q => by simp [Group.leaves_one, h, hf]
  rw [← Group.recast_one_roles]
  simp only [Group.recast, hleaves, KeySlot.dropping_one]

theorem Group.recast_one_staying (h : (grp.roles[p.val].active && !(f p).active) = false) :
    grp.recast f [p] = { grp with roles := grp.roles.set p.val (f p) } := by
  have hleaves : grp.leaves f [p] = fun _ => false := funext fun q => by rw [Group.leaves_one, h, Bool.and_false]
  rw [← Group.recast_one_roles]
  simp only [Group.recast, hleaves, KeySlot.dropping_none, Option.map_id']

end

/-- What a role change writes before the pending slot is recomputed. -/
def State.recastOne (s : State) (g : GroupNo) (p : PortNo) (f : PortNo → Role) : State :=
  ((s.keepEntries (fun e => !(e.group == g && (s.group g).leaves f [p] e.member))).setGroup g
    ((s.group g).recast f [p])).setPort p ((s.port p).recast (s.group g) f [p] g p)

theorem keepEntries_eq_self (s : State) {keep : CarouselEntry → Bool} (h : ∀ e, keep e = true) :
    s.keepEntries keep = s := by
  have hc : s.carriers.map (fun k => { k with carousel := k.carousel.filter keep }) = s.carriers := by
    ext1 i hi
    rw [Vector.getElem_map, List.filter_eq_self.2 fun e _ => h e]
  rw [State.keepEntries, hc]

theorem setRole_recastOne (s : State) (g : GroupNo) (p : PortNo) (f : PortNo → Role) :
    s.setRole g p (f p) = (s.recastOne g p f).recompute g := by
  have hleave := Group.leaves_one (grp := s.group g) (f := f) (p := p)
  have hkeep : ((s.group g).roles[p.val].active && !(f p).active) = false →
      s.keepEntries (fun e => !(e.group == g && (s.group g).leaves f [p] e.member)) = s :=
    fun h => keepEntries_eq_self s fun e => by rw [hleave, h]; simp
  have hcomes : (s.group g).comes f [p] p =
      (!(s.group g).roles[p.val].active && (f p).active && (s.group g).pendingSlot.isSome) := by simp [Group.comes]
  unfold State.recastOne AccessPort.recast
  rw [hcomes, hleave]
  cases hold : (s.group g).roles[p.val].active <;> cases hnew : (f p).active
  case true.false =>
    rw [Group.recast_one_leaving hold hnew]
    simp only [hold, hnew, hleave, State.setRole, State.deleteMemberPackets, State.removeMemberEntries,
      State.setKeyWaiting, State.setPlanWaiting, State.setGroup_self, State.setGroup_twice]
    simp
    rfl
  all_goals
    rw [hold, hnew] at hkeep
    rw [Group.recast_one_staying (by rw [hold, hnew]; rfl), hkeep rfl]
  case true.true =>
    simp [State.setRole, hold, hnew]
    exact congrArg (State.recompute · g) (State.setPort_same _ p).symm
  case false.true =>
    cases hp : (s.group g).pendingSlot.isSome
    · simp [State.setRole, hold, hnew, hp]
      exact congrArg (State.recompute · g) (State.setPort_same _ p).symm
    · simp [State.setRole, hold, hnew, hp, State.setKeyWaiting]
  case false.false => simp [State.setRole, hold, hnew, State.setPlanWaiting]

end Sys2Proof.Machine

namespace Sys2Proof.Machine

section
variable {g : GroupNo} {f : PortNo → Role} {l : List PortNo} {s t u : State}

theorem Recast.relevant (h : Recast g f l s t) (x : GroupNo) : t.relevant x = s.relevant x :=
  relevant_congr (fun c => by rw [h.carrier]) (fun p => by rw [h.rest]; rfl) x

theorem Recast.time (h : Recast g f l s t) : t.time = s.time := by rw [h.rest]

theorem Recast.state (h : Recast g f l s t) : (t.group g).state = (s.group g).state := by rw [h.group]; rfl

theorem Recast.active (h : Recast g f l s t) : (t.group g).active = (s.group g).active := by rw [h.group]; rfl

theorem Recast.role (h : Recast g f l s t) (p : PortNo) :
    (t.group g).roles[p.val] = if p ∈ l then f p else (s.group g).roles[p.val] := by
  rw [h.group]; exact Group.recast_role _ f l p

theorem Recast.slot (h : Recast g f l s t) (ph : Phase) :
    (t.group g).slot ph = ((s.group g).slot ph).map (·.dropping ((s.group g).leaves f l)) := by
  rw [h.group, ← Group.recast_slot]; cases ph <;> rfl

/-- A role change leaves what `Recast` says. -/
theorem setRole_recast (s : State) (g : GroupNo) (p : PortNo) (f : PortNo → Role) :
    Recast g f [p] s (s.setRole g p (f p)) := by
  rw [setRole_recastOne]
  have hgroup : (s.recastOne g p f).group g = (s.group g).recast f [p] := State.setGroup_self _ g _
  obtain ⟨gs, hr⟩ := recompute_shape (s.recastOne g p f) g
  refine ⟨?_, fun h hh => ?_, fun c => ?_, fun q => ?_, ?_⟩
  · rw [recompute_group_self, hgroup]
  · rw [recompute_group_ne _ hh]
    exact State.setGroup_ne _ g _ h hh
  · rw [hr]
    exact keepEntries_carrier s _ c
  · rw [hr]
    refine (State.setPort_port _ p q _).trans ?_
    split
    · next hq => rw [hq]
    · next hq =>
      have hleaves : (s.group g).leaves f [p] q = false := by simp [Group.leaves, hq]
      have hcomes : (s.group g).comes f [p] q = false := by simp [Group.comes, hq]
      simp only [AccessPort.recast, hleaves, hcomes, List.mem_singleton, hq, false_and, if_false, Bool.false_eq_true]
      rfl
  · rw [hr]; rfl

theorem setRole_startTime (s : State) (g : GroupNo) (p : PortNo) (r : Role) :
    ((s.setRole g p r).group g).startTime = (s.setRole g p r).startTimeFrom s g := by
  rw [setRole_recastOne s g p (fun _ => r)]
  have hgroup : (s.recastOne g p (fun _ => r)).group g = (s.group g).recast (fun _ => r) [p] :=
    State.setGroup_self _ g _
  exact congrArg Group.startTime (recompute_startTimeFrom (s := s) (u := s.recastOne g p (fun _ => r)) (g := g)
    (by rw [hgroup]; rfl) (by rw [hgroup]; rfl) rfl)

/-! ### Several roles, one after another -/

theorem Recast.refl (s : State) : Recast g f [] s s where
  group := by
    have hleaves : (s.group g).leaves f [] = fun _ => false := funext fun _ => by simp [Group.leaves]
    have hroles : Vector.ofFn (fun p : PortNo => (s.group g).roles[p.val]) = (s.group g).roles := by
      ext i hi; simp
    simp only [Group.recast, hleaves, KeySlot.dropping_none, Option.map_id', List.not_mem_nil, if_false, hroles]
  others _ _ := rfl
  carrier c := by
    rw [List.filter_eq_self.2 fun e _ => by simp [Group.leaves]]
  port p := by simp [AccessPort.recast, Group.leaves, Group.comes]
  rest := rfl

section
variable {p : PortNo}

theorem Group.leaves_cons {grp grp' : Group} (hp : p ∉ l)
    (hrole : ∀ q, q ≠ p → grp'.roles[q.val] = grp.roles[q.val]) (q : PortNo) :
    grp.leaves f (p :: l) q = (grp.leaves f [p] q || grp'.leaves f l q) := by
  unfold Group.leaves
  by_cases hq : q = p
  · subst hq; simp [hp]
  · rw [hrole q hq]; simp [hq]

theorem Group.comes_cons {grp grp' : Group} (hp : p ∉ l) (hpending : grp'.pendingSlot.isSome = grp.pendingSlot.isSome)
    (hrole : ∀ q, q ≠ p → grp'.roles[q.val] = grp.roles[q.val]) (q : PortNo) :
    grp.comes f (p :: l) q = (grp.comes f [p] q || grp'.comes f l q) := by
  unfold Group.comes
  by_cases hq : q = p
  · subst hq; simp [hp]
  · rw [hrole q hq, hpending]; simp [hq]

theorem KeySlot.dropping_dropping (k : KeySlot) (a b : PortNo → Bool) :
    (k.dropping a).dropping b = k.dropping (fun p => a p || b p) := by
  unfold KeySlot.dropping
  congr 1
  ext1 i hi
  simp only [Vector.getElem_ofFn]
  cases a ⟨i, hi⟩ <;> simp

theorem Recast.cons (hp : p ∉ l) (h : Recast g f [p] s t) (h' : Recast g f l t u) : Recast g f (p :: l) s u := by
  have hrole : ∀ q, q ≠ p → (t.group g).roles[q.val] = (s.group g).roles[q.val] := fun q hq => by
    rw [h.role, if_neg (by simpa using hq)]
  have hpending : (t.group g).pendingSlot.isSome = (s.group g).pendingSlot.isSome := by
    rw [← Group.recast_pendingSlot (s.group g) f [p], h.group]
    rfl
  have hleaves := Group.leaves_cons (f := f) hp hrole
  have hcomes := Group.comes_cons (f := f) hp hpending hrole
  refine ⟨?_, fun x hx => (h'.others x hx).trans (h.others x hx), fun c => ?_, fun q => ?_, ?_⟩
  · have hroles : ∀ q : PortNo, (if q ∈ l then f q else (t.group g).roles[q.val])
        = if q ∈ p :: l then f q else (s.group g).roles[q.val] := fun q => by
      by_cases hq : q = p
      · subst hq; simp [hp, h.role]
      · simp [hq, hrole q hq]
    have hslot : ∀ ph, ((t.group g).slot ph).map (·.dropping ((t.group g).leaves f l))
        = ((s.group g).slot ph).map (·.dropping ((s.group g).leaves f (p :: l))) := fun ph => by
      rw [h.slot, Option.map_map, funext hleaves]
      exact congrArg (Option.map · _) (funext fun k => KeySlot.dropping_dropping k _ _)
    have hA := hslot .a
    have hB := hslot .b
    simp only [Group.slot] at hA hB
    rw [h'.group]
    simp only [Group.recast, hroles, hA, hB]
    rw [h.group]
    rfl
  · rw [h'.carrier, h.carrier, List.filter_filter]
    refine congrArg (fun l => { s.carrier c with carousel := l }) (List.filter_congr fun e _ => ?_)
    rw [hleaves]
    cases e.group == g <;> simp [Bool.and_comm]
  · rw [h'.port, h.port, AccessPort.recast, AccessPort.recast, AccessPort.recast, hleaves, hcomes]
    by_cases hq : q = p
    · subst hq
      simp [Group.leaves, Group.comes, hp]
    · simp [Group.leaves, Group.comes, hq]
  · rw [h'.rest, h.rest]

end

theorem setRoles_recast (f : PortNo → Role) : ∀ (l : List PortNo), l.Nodup → ∀ s : State,
    Recast g f l s (l.foldl (fun s p => s.setRole g p (f p)) s)
  | [], _, s => .refl s
  | p :: l, hl, s =>
      have hl := List.nodup_cons.1 hl
      .cons hl.1 (setRole_recast s g p f) (setRoles_recast f l hl.2 _)

/-! ### The start time through several recomputations (R84) -/

theorem startTimeFrom_refl (h : s.startFits g) : (s.group g).startTime = s.startTimeFrom s g := by
  unfold State.startTimeFrom
  split
  · next hst =>
    have hst := h hst
    split
    · next haired =>
      obtain ⟨x, hx⟩ := Option.ne_none_iff_exists'.1 (hst.2 haired)
      rw [hx, Option.getD_some]
    · next hnot => exact not_not.1 (mt hst.1 hnot)
  · rfl

/-- A start time reckoned anew fits (R77, R84). -/
theorem startFits_of_eq (hst : (t.group g).state = (s.group g).state)
    (h : (t.group g).startTime = t.startTimeFrom s g) : t.startFits g := by
  intro ht
  rw [h, State.startTimeFrom, ← hst, if_pos ht]
  split <;> simp [*]

/-- Two recomputations leave the start time that one leaves, where slot A AIRED at the start and at the end has been
AIRED between. -/
theorem startTimeFrom_trans (hs : s.startFits g) (hst : (t.group g).state = (s.group g).state) (htime : t.time = s.time)
    (h : (t.group g).startTime = t.startTimeFrom s g) (h' : (u.group g).startTime = u.startTimeFrom t g)
    (hback : s.slotState g .a = .aired → u.slotState g .a = .aired → t.slotState g .a = .aired) :
    (u.group g).startTime = u.startTimeFrom s g := by
  rw [h']
  unfold State.startTimeFrom at h ⊢
  rw [hst, htime]
  split
  · next hstart =>
    rw [if_pos hstart] at h
    split
    · next hu =>
      by_cases ha : s.slotState g .a = .aired
      · rw [h, if_pos (hback ha hu), Option.getD_some]
      · have hnone : (s.group g).startTime = none := not_not.1 (mt (hs hstart).1 ha)
        rw [h, hnone, Option.getD_none]
        split
        · rw [Option.getD_some]
        · rw [Option.getD_none]
    · rfl
  · next hstart => rw [h, if_neg hstart]

/-- Slot A stays AIRED while members only lose the role JOINED, as long as one keeps it. -/
theorem Recast.aired (h : Recast g f l s t) (hf : ∀ p ∈ l, f p = .joined → (s.group g).roles[p.val] = .joined)
    (ha : s.slotState g .a = .aired) (hj : ∃ p : PortNo, (t.group g).roles[p.val] = .joined) :
    t.slotState g .a = .aired := by
  rw [slotState_aired_iff] at ha ⊢
  obtain ⟨hact, k, hk, hcov, hair⟩ := ha
  obtain ⟨-, hall⟩ := Group.covered_iff.1 hcov
  refine ⟨by rwa [h.active], k.dropping ((s.group g).leaves f l), by rw [h.slot, hk]; rfl, ?_, ?_⟩
  · refine Group.covered_iff.2 ⟨hj, fun p hp => ?_⟩
    rw [h.role] at hp
    have hpacket : (k.dropping ((s.group g).leaves f l)).packets[p.val]
        = if (s.group g).leaves f l p then none else k.packets[p.val] := Vector.getElem_ofFn _
    rw [hpacket]
    by_cases hl : p ∈ l
    · rw [if_pos hl] at hp
      have hstays : (s.group g).leaves f l p = false := by simp [Group.leaves, hp, Role.active]
      rw [hstays]
      exact hall p (hf p hl hp)
    · rw [if_neg hl] at hp
      have hstays : (s.group g).leaves f l p = false := by simp [Group.leaves, hl]
      rw [hstays]
      exact hall p hp
  · rw [h.relevant]
    refine KeySlot.airedOn_iff.2 fun p x hx => KeySlot.airedOn_iff.1 hair p x ?_
    have hpacket : (k.dropping ((s.group g).leaves f l)).packets[p.val]
        = if (s.group g).leaves f l p then none else k.packets[p.val] := Vector.getElem_ofFn _
    rw [hpacket] at hx
    split at hx
    · cases hx
    · exact hx

/-- The start time after several role changes none of which makes a member JOINED (R84). -/
theorem setRoles_startTime (f : PortNo → Role) {l : List PortNo} (hl : l.Nodup) : ∀ {s : State},
    (∀ p ∈ l, f p = .joined → (s.group g).roles[p.val] = .joined) → s.startFits g →
      ((l.foldl (fun s p => s.setRole g p (f p)) s).group g).startTime
        = (l.foldl (fun s p => s.setRole g p (f p)) s).startTimeFrom s g := by
  induction l with
  | nil => exact fun _ hs => startTimeFrom_refl hs
  | cons p l ih =>
    intro s hf hs
    obtain ⟨hp, hl⟩ := List.nodup_cons.1 hl
    have hone := setRole_recast s g p f
    have hstart := setRole_startTime s g p (f p)
    have hrest := setRoles_recast (g := g) f l hl (s.setRole g p (f p))
    rw [List.foldl_cons]
    generalize s.setRole g p (f p) = t at hone hstart hrest ⊢
    have hf' : ∀ q ∈ l, f q = .joined → (t.group g).roles[q.val] = .joined := fun q hq hj => by
      rw [hone.role, if_neg (by rintro hqp; exact hp (List.mem_singleton.1 hqp ▸ hq))]
      exact hf q (List.mem_cons_of_mem p hq) hj
    have hstart' := ih hl hf' (startFits_of_eq hone.state hstart)
    generalize l.foldl (fun s p => s.setRole g p (f p)) t = u at hrest hstart' ⊢
    refine startTimeFrom_trans hs hone.state hone.time hstart hstart' fun ha hu => ?_
    refine hone.aired (fun q hq => by rw [List.mem_singleton.1 hq]; exact hf p List.mem_cons_self) ha ?_
    obtain ⟨-, k, -, hcov, -⟩ := slotState_aired_iff.1 hu
    obtain ⟨⟨q, hq⟩, -⟩ := Group.covered_iff.1 hcov
    rw [hrest.role] at hq
    by_cases hql : q ∈ l
    · rw [if_pos hql] at hq
      exact ⟨q, hf' q hql hq⟩
    · rw [if_neg hql] at hq
      exact ⟨q, hq⟩

end

end Sys2Proof.Machine

/-! SUPPORT. DEFINE GROUP (R80, R81): its fields, the new roster, the new extension limit. -/

namespace Sys2Proof.Machine

/-! ### The fields (R80) -/

theorem toRoster_of {r : PortSet} (h : r ≠ 0) : toRoster (r.setWidth 8) = some r := by
  have hlt : (r.setWidth 8).toNat < 16 := by rw [BitVec.toNat_setWidth]; omega
  have hset : toSet4 (r.setWidth 8) = some r := by rw [toSet4, if_pos hlt]; simp
  simp only [toRoster, hset, if_neg h]

theorem toRoster_none {m : BitVec 8} (h : m = 0 ∨ 16 ≤ m.toNat) : toRoster m = none := by
  rcases h with rfl | h
  · rfl
  · simp [toRoster, toSet4, Nat.not_lt.2 h]

@[simp] theorem toPeriod_seconds (p : Period) : toPeriod p.seconds = some p := by cases p <;> rfl

theorem toPeriod_some {n : Nat} {p : Period} (h : toPeriod n = some p) : n = p.seconds := by
  unfold toPeriod at h
  split at h <;> cases h <;> rfl

theorem Period.seconds_mem (p : Period) : p.seconds ∈ [6, 10, 15, 20, 30, 45, 60, 120] := by cases p <;> decide

theorem Period.seconds_injective : Function.Injective Period.seconds := fun p q h =>
  Option.some.inj (by rw [← toPeriod_seconds p, h, toPeriod_seconds])

theorem mapM_toPeriod_seconds (ps : List Period) : (ps.map Period.seconds).mapM toPeriod = some ps := by
  induction ps with
  | nil => rfl
  | cons p ps ih => simp [ih]

theorem mapM_toPeriod_some {vs : List Nat} {ps : List Period} (h : vs.mapM toPeriod = some ps) :
    vs = ps.map Period.seconds := by
  induction vs generalizing ps with
  | nil => simp at h; simp [h]
  | cons v vs ih =>
    simp only [List.mapM_cons, Option.pure_def, Option.bind_eq_bind, Option.bind_eq_some_iff] at h
    obtain ⟨p, hp, qs, hqs, hps⟩ := h
    cases hps
    rw [List.map_cons, ← ih hqs, ← toPeriod_some hp]

/-- There are eight standard lengths. -/
theorem periods_length {ps : List Period} (h : ps.Nodup) : ps.length ≤ 8 := by
  have hsub : ps.map Period.seconds ⊆ [6, 10, 15, 20, 30, 45, 60, 120] := fun n hn => by
    obtain ⟨p, -, rfl⟩ := List.mem_map.1 hn
    exact p.seconds_mem
  have hlen := (List.subperm_of_subset (h.map Period.seconds_injective) hsub).length_le
  simpa using hlen

theorem toPreference_of {ps : List Period} (h : ps ≠ []) (hn : ps.Nodup) :
    toPreference (ps.map Period.seconds) = some ps := by
  have hlen : 1 ≤ ps.length ∧ ps.length ≤ 8 ∧ ps.Nodup := ⟨List.length_pos_iff.2 h, periods_length hn, hn⟩
  simp only [toPreference, mapM_toPeriod_seconds, if_pos hlen]

theorem toPreference_none {vs : List Nat}
    (h : vs = [] ∨ ¬ vs.Nodup ∨ ∃ l ∈ vs, l ∉ [6, 10, 15, 20, 30, 45, 60, 120]) : toPreference vs = none := by
  unfold toPreference
  split
  · next ps hps =>
    have hvs := mapM_toPeriod_some hps
    refine if_neg fun hc => ?_
    obtain ⟨hpos, -, hnodup⟩ := hc
    rcases h with rfl | h | ⟨l, hl, hnot⟩
    · rw [List.map_eq_nil_iff.1 hvs.symm] at hpos
      exact absurd hpos (by decide)
    · exact h (hvs ▸ hnodup.map Period.seconds_injective)
    · rw [hvs] at hl
      obtain ⟨p, -, rfl⟩ := List.mem_map.1 hl
      exact hnot p.seconds_mem
  · rfl

@[simp] theorem toPolicy_code (pol : LatePolicy) : toPolicy pol.code = some pol := by cases pol <;> rfl

theorem toPolicy_none {n : Nat} (h : 1 < n) : toPolicy n = none := by
  unfold toPolicy
  split
  · exact absurd h (by decide)
  · exact absurd h (by decide)
  · rfl

/-- A definition whose fields are all in range (R80). -/
theorem toGroupDef_of {ps : List Period} {r : PortSet} {repeatMs limit : Nat} (pol : LatePolicy) (hps : ps ≠ [])
    (hn : ps.Nodup) (hr : r ≠ 0) (h1 : 100 ≤ repeatMs) (h2 : repeatMs ≤ 1000) (h3 : repeatMs % 10 = 0)
    (h4 : 1 ≤ limit) (h5 : limit ≤ 60) :
    toGroupDef (r.setWidth 8) (ps.map Period.seconds) repeatMs limit pol.code =
      some ⟨r, ps, repeatMs, limit, pol⟩ := by
  simp only [toGroupDef, toRoster_of hr, toPreference_of hps hn, toPolicy_code]
  exact if_pos ⟨h1, h2, h3, h4, h5⟩

/-- A definition with a field out of range (R80). -/
theorem toGroupDef_none {roster : BitVec 8} {vs : List Nat} {repeatMs limit policy : Nat}
    (h : roster = 0 ∨ 16 ≤ roster.toNat ∨ vs = [] ∨ ¬ vs.Nodup
      ∨ (∃ l ∈ vs, l ∉ [6, 10, 15, 20, 30, 45, 60, 120]) ∨ repeatMs < 100 ∨ 1000 < repeatMs
      ∨ repeatMs % 10 ≠ 0 ∨ limit = 0 ∨ 60 < limit ∨ 1 < policy) :
    toGroupDef roster vs repeatMs limit policy = none := by
  unfold toGroupDef
  split
  · next r ps pol hr hps hpol =>
    have hroster : ¬ (roster = 0 ∨ 16 ≤ roster.toNat) := fun hc => by rw [toRoster_none hc] at hr; cases hr
    have hpref := mt toPreference_none (by rw [hps]; exact Option.some_ne_none ps)
    have hpolicy : ¬ 1 < policy := fun hc => by rw [toPolicy_none hc] at hpol; cases hpol
    refine if_neg fun hc => ?_
    simp only [not_or] at hroster hpref
    obtain ⟨hr0, hr16⟩ := hroster
    obtain ⟨hp0, hp1, hp2⟩ := hpref
    rcases h with h | h | h | h | h | h
    · exact hr0 h
    · exact hr16 h
    · exact hp0 h
    · exact hp1 h
    · exact hp2 h
    · omega
  · rfl

/-- The extension limit of a definition in range is at least 1 (R80). -/
theorem toGroupDef_limit {roster : BitVec 8} {vs : List Nat} {repeatMs limit policy : Nat} {d : GroupDef}
    (h : toGroupDef roster vs repeatMs limit policy = some d) : 1 ≤ d.limit := by
  unfold toGroupDef at h
  split at h
  · split at h
    · next hc =>
      cases h
      exact hc.2.2.2.1
    · cases h
  · cases h

/-! ### The new roster (R81) -/

theorem foldl_ite_eq_filter_of_nodup {σ α : Type} {P : σ → α → Bool} {f : σ → α → σ}
    (h : ∀ s a b, b ≠ a → P (f s a) b = P s b) : ∀ (l : List α), l.Nodup → ∀ s : σ,
      l.foldl (fun s a => if P s a then f s a else s) s = (l.filter (P s)).foldl f s
  | [], _, _ => rfl
  | a :: l, hl, s => by
      obtain ⟨ha, hl⟩ := List.nodup_cons.1 hl
      rw [List.foldl_cons]
      by_cases hP : P s a = true
      · rw [if_pos hP, foldl_ite_eq_filter_of_nodup h l hl, List.filter_cons_of_pos hP, List.foldl_cons,
          List.filter_congr fun b hb => h s a b (by rintro rfl; exact ha hb)]
      · rw [if_neg hP, foldl_ite_eq_filter_of_nodup h l hl, List.filter_cons_of_neg hP]

/-- The role of a port that a roster takes in or leaves out (R81). -/
def rosterRole (roster : PortSet) (p : PortNo) : Role := if hasItem roster p then .absent else .notMember

/-- A roster takes in a port that was no member, or leaves out a member. -/
def Group.changes (grp : Group) (roster : PortSet) (p : PortNo) : Bool :=
  decide (grp.roles[p.val] = .notMember ↔ hasItem roster p = true)

/-- The ports that a roster takes in or leaves out, ascending. -/
def Group.changed (grp : Group) (roster : PortSet) : List PortNo := (List.finRange 4).filter (grp.changes roster)

theorem rosterRole_active (roster : PortSet) (p : PortNo) : (rosterRole roster p).active = false := by
  unfold rosterRole
  split <;> rfl

theorem changeRoster_eq (s : State) (g : GroupNo) (roster : PortSet) :
    s.changeRoster g roster =
      ((s.group g).changed roster).foldl (fun s p => s.setRole g p (rosterRole roster p)) s := by
  have hstep : ∀ (t : State) (p : PortNo),
      (let old := (t.group g).roles[p.val]
       if hasItem roster p then (if old == .notMember then t.setRole g p .absent else t)
       else if old == .notMember then t else t.setRole g p .notMember)
        = if (t.group g).changes roster p then t.setRole g p (rosterRole roster p) else t := fun t p => by
    unfold Group.changes rosterRole
    cases hp : hasItem roster p <;> simp
  unfold State.changeRoster
  rw [funext fun t => funext (hstep t)]
  refine foldl_ite_eq_filter_of_nodup (P := fun (t : State) p => (t.group g).changes roster p) (fun t p q hq => ?_) _
    (List.nodup_finRange 4) s
  have hrole := (setRole_portStays_ne t g hq.symm (rosterRole roster p)).role g
  simp only [Group.changes, hrole]

theorem changeRoster_recast (s : State) (g : GroupNo) (roster : PortSet) :
    Recast g (rosterRole roster) ((s.group g).changed roster) s (s.changeRoster g roster) := by
  rw [changeRoster_eq]
  exact setRoles_recast _ _ ((List.nodup_finRange 4).filter _) s

theorem changeRoster_startTime {s : State} {g : GroupNo} (h : s.startFits g) (roster : PortSet) :
    ((s.changeRoster g roster).group g).startTime = (s.changeRoster g roster).startTimeFrom s g := by
  rw [changeRoster_eq]
  refine setRoles_startTime _ ((List.nodup_finRange 4).filter _) (fun p _ hj => ?_) h
  have hact := rosterRole_active roster p
  rw [hj] at hact
  cases hact

section
variable {grp : Group} {roster : PortSet} {p : PortNo}

theorem Group.mem_changed : p ∈ grp.changed roster ↔ (grp.roles[p.val] = .notMember ↔ hasItem roster p = true) := by
  rw [Group.changed, List.mem_filter, and_iff_right (List.mem_finRange p), Group.changes, decide_eq_true_iff]

/-- The members that a roster leaves out are among those it changes. -/
theorem Group.leaves_roster :
    grp.leaves (rosterRole roster) (grp.changed roster) p = (grp.roles[p.val].active && !hasItem roster p) := by
  simp only [Group.leaves, Group.mem_changed, rosterRole_active, Bool.not_false, Bool.and_true]
  cases hact : grp.roles[p.val].active with
  | false => rw [Bool.and_false, Bool.false_and]
  | true =>
    have hne : grp.roles[p.val] ≠ .notMember := by
      intro he
      rw [he] at hact
      cases hact
    simp [hne]

theorem Group.roles_roster :
    (if p ∈ grp.changed roster then rosterRole roster p else grp.roles[p.val]) =
      if hasItem roster p then (if grp.roles[p.val] = .notMember then .absent else grp.roles[p.val])
      else .notMember := by
  rw [if_congr Group.mem_changed rfl rfl]
  unfold rosterRole
  cases hasItem roster p <;> by_cases h : grp.roles[p.val] = .notMember <;> simp [h]

end

/-! ### The new limit (R81) -/

/-- The state of a group whose extension limit becomes `limit`. -/
def GroupState.relimited (st : GroupState) (count limit : Nat) : GroupState :=
  if st = .extended ∨ st = .frozen then (if count = limit then .frozen else .extended) else st

theorem changeLimit_eq (s : State) (g : GroupNo) (limit : Nat) :
    let grp := s.group g
    let count := min grp.extensions limit
    let t := s.setGroup g { grp with extensions := count, state := grp.state.relimited count limit }
    s.changeLimit g limit =
      if grp.state = .extended ∧ count = limit then (t.addGroupFrozen g).setGroupAlert g true else t := by
  unfold State.changeLimit GroupState.relimited
  dsimp only
  split
  · next h =>
    rw [h]
    split
    · next hc => simp [hc]
    · next hc => simp [hc]
  · next h => rw [h]; simp
  · next he hf => rw [if_neg (not_or.2 ⟨he, hf⟩), if_neg fun hc => he hc.1]

/-! ### DEFINE GROUP (R80, R81) -/

theorem defineGroup_refused {group : Nat} {roster : BitVec 8} {vs : List Nat} {repeatMs limit policy : Nat} (s : State)
    (h : 32 ≤ group ∨ toGroupDef roster vs repeatMs limit policy = none) :
    defineGroup group roster vs repeatMs limit policy s = refused s .range := by
  unfold defineGroup
  split
  · next g d hg hd =>
    rcases h with h | h
    · rw [toGroup_none h] at hg; cases hg
    · rw [h] at hd; cases hd
  · rfl

theorem defineGroup_done {g : GroupNo} {roster : BitVec 8} {vs : List Nat} {repeatMs limit policy : Nat} {d : GroupDef}
    {s t : State} (hd : toGroupDef roster vs repeatMs limit policy = some d)
    (ht : (if (s.group g).state = .free then s.defineFree g d else s.redefine g d) = t) :
    defineGroup g.val roster vs repeatMs limit policy s = (t.resolve g, .done (.groupState (t.group g).state)) := by
  unfold defineGroup
  rw [toGroup_val, hd]
  dsimp only
  rw [ht, (resolve_groupFrame t).state]

/-- What the new limit leaves, record by record. -/
theorem changeLimit_spec (s : State) (g : GroupNo) (limit : Nat) :
    let old := s.group g
    let count := min old.extensions limit
    let t := s.changeLimit g limit
    t.group g = { old with extensions := count, state := old.state.relimited count limit }
      ∧ (∀ h, h ≠ g → t.group h = s.group h)
      ∧ t.manager =
        (if old.state = .extended ∧ count = limit then
          { s.manager with
            state := .exception
            groupAlert := s.manager.groupAlert.set g.val true
            condition :=
              { s.manager.condition with groupFrozen := s.manager.condition.groupFrozen.set g.val true } }
         else s.manager)
      ∧ t = { s with groups := t.groups, manager := t.manager } := by
  intro old count t
  have hlimit : t = _ := changeLimit_eq s g limit
  have hgroup : ∀ h, t.group h =
      (s.setGroup g { old with extensions := count, state := old.state.relimited count limit }).group h := fun h => by
    rw [hlimit]; split <;> rfl
  refine ⟨?_, fun h hh => ?_, ?_, ?_⟩
  · rw [hgroup, State.setGroup_self]
  · rw [hgroup, State.setGroup_ne _ _ _ _ hh]
  · rw [hlimit]; split <;> rfl
  · rw [hlimit]; split <;> rfl

/-- The group's record with the definition replaced and the roles, packets and times that a new roster leaves (R78,
R81). -/
def Group.rerostered (grp : Group) (d : GroupDef) (start : Option Time) : Group :=
  { grp with
    definition := some d
    roles := Vector.ofFn (fun p : PortNo =>
      if hasItem d.roster p then (if grp.roles[p.val] = .notMember then .absent else grp.roles[p.val])
      else .notMember)
    slotA := grp.slotA.map (·.dropping (fun p => grp.roles[p.val].active && !hasItem d.roster p))
    slotB := grp.slotB.map (·.dropping (fun p => grp.roles[p.val].active && !hasItem d.roster p))
    startTime := start }

/-- What a replaced definition leaves before its limit takes effect. -/
theorem reroster_spec (s : State) (g : GroupNo) (d : GroupDef) :
    let t := (s.setGroup g { s.group g with definition := some d }).changeRoster g d.roster
    t.group g = (s.group g).rerostered d (t.group g).startTime
      ∧ (s.startFits g → (t.group g).startTime = t.startTimeFrom s g)
      ∧ (∀ h, h ≠ g → t.group h = s.group h)
      ∧ (∀ c, t.carrier c =
          { s.carrier c with
            carousel := (s.carrier c).carousel.filter (fun e =>
              !(e.group == g && ((s.group g).roles[e.member.val].active && !hasItem d.roster e.member))) })
      ∧ (∀ p, t.port p =
          { s.port p with
            keyWaiting :=
              if (s.group g).roles[p.val].active && !hasItem d.roster p then (s.port p).keyWaiting.set g.val false
              else (s.port p).keyWaiting
            planWaiting :=
              if (s.group g).changes d.roster p then (s.port p).planWaiting.set g.val false
              else (s.port p).planWaiting })
      ∧ t = { s with groups := t.groups, carriers := t.carriers, access := t.access } := by
  generalize hu : s.setGroup g { s.group g with definition := some d } = u
  have hself : u.group g = { s.group g with definition := some d } := by rw [← hu, State.setGroup_self]
  have hcast := changeRoster_recast u g d.roster
  have hstart := fun h => changeRoster_startTime (s := u) (g := g) h d.roster
  dsimp only
  generalize u.changeRoster g d.roster = v at hcast hstart ⊢
  have hleaves : (u.group g).leaves (rosterRole d.roster) ((u.group g).changed d.roster)
      = fun p => (s.group g).roles[p.val].active && !hasItem d.roster p := by
    rw [hself]
    exact funext fun p => Group.leaves_roster
  have hroles : ∀ p : PortNo, (if p ∈ (u.group g).changed d.roster then rosterRole d.roster p
      else (u.group g).roles[p.val]) = if hasItem d.roster p then (if (s.group g).roles[p.val] = .notMember then .absent
        else (s.group g).roles[p.val]) else .notMember := by
    rw [hself]
    exact fun p => Group.roles_roster
  have hcomes : ∀ p, (u.group g).comes (rosterRole d.roster) ((u.group g).changed d.roster) p = false := fun p => by
    simp [Group.comes, rosterRole_active]
  have hslot : u.slotState g .a = s.slotState g .a :=
    slotState_congr (by rw [hself]; rfl) (by rw [hself]) (by rw [hself])
      (relevant_congr (fun _ => by rw [← hu]; rfl) (fun _ => by rw [← hu]; rfl) g)
  refine ⟨?_, fun hs => ?_, fun h hh => ?_, fun c => ?_, fun p => ?_, ?_⟩
  · conv_lhs => rw [hcast.group]
    simp only [Group.recast, hroles, hleaves]
    rw [hself]
    rfl
  · have hfits : u.startFits g := fun hst => by
      rw [hself] at hst ⊢
      rw [hslot]
      exact hs hst
    exact (hstart hfits).trans (startTimeFrom_congr rfl (by rw [hself]) (by rw [hself]) (by rw [← hu]; rfl))
  · rw [hcast.others h hh, ← hu, State.setGroup_ne _ _ _ _ hh]
  · rw [hcast.carrier, hleaves, ← hu]
    rfl
  · rw [hcast.port]
    have hmem : (p ∈ (u.group g).changed d.roster ∧ (rosterRole d.roster p).active = false)
        ↔ (s.group g).changes d.roster p = true := by
      rw [hself, Group.mem_changed, and_iff_left (rosterRole_active _ _), Group.changes, decide_eq_true_iff]
    simp only [AccessPort.recast, hleaves, hcomes, hmem, Bool.false_eq_true, if_false]
    rw [← hu]
    rfl
  · conv_lhs => rw [hcast.rest, ← hu]
    rfl

end Sys2Proof.Machine

namespace Sys2Proof.Settled

open Sys2Proof.Machine

/-- Settles O23: the fields by `toGroupDef_of` and `toGroupDef_none`. -/
theorem defineFreeGroup : Obligations.DefineFreeGroup := by
  intro roster preference repeatMs limit policy s h
  refine ⟨fun group hr => ?_, fun g ps r pol hp hps hn hr hroster h1 h2 h3 h4 h5 hpol hst => ?_⟩
  · exact congrArg _ (takeOrder_rejected h (defineGroup_refused s (hr.imp_right toGroupDef_none)))
  · subst hp hroster hpol
    have hdone := defineGroup_done (toGroupDef_of pol hps hn hr h1 h2 h3 h4 h5) (if_pos hst)
    rw [State.defineFree, State.setGroup_self] at hdone
    exact congrArg Host.Outcome.next (takeOrder_done h hdone)

/-- Settles O24: the roster by `reroster_spec`, the limit by `changeLimit_spec`. -/
theorem redefineGroup : Obligations.RedefineGroup := by
  intro g ps r pol repeatMs limit s h hps hn hr h1 h2 h3 h4 h5 hst old count leaves changes
  have hdef := toGroupDef_of pol hps hn hr h1 h2 h3 h4 h5
  generalize hd : (⟨r, ps, repeatMs, limit, pol⟩ : GroupDef) = d at hdef
  have hexec := takeOrder_done h (defineGroup_done hdef (if_neg hst))
  obtain ⟨hself, hstart, hothers, hcarrier, hport, hrest⟩ := reroster_spec s g d
  have hlimit :=
    changeLimit_spec ((s.setGroup g { s.group g with definition := some d }).changeRoster g d.roster) g d.limit
  have hredef : s.redefine g d =
    ((s.setGroup g { s.group g with definition := some d }).changeRoster g d.roster).changeLimit g d.limit := rfl
  rw [← hredef] at hlimit
  generalize (s.setGroup g { s.group g with definition := some d }).changeRoster g d.roster = v
    at hself hstart hothers hcarrier hport hrest hlimit
  generalize s.redefine g d = t at hexec hlimit
  obtain ⟨hself', hothers', hmanager', hrest'⟩ := hlimit
  subst hd
  have hext : (v.group g).extensions = old.extensions := by rw [hself]; rfl
  have hstate : (v.group g).state = old.state := by rw [hself]; rfl
  rw [hext, hstate] at hself' hmanager'
  refine ⟨t, congrArg Host.Outcome.next hexec, ?_, ?_, fun ph => ?_, fun hs => ?_, fun x hx => ?_, fun c => ?_,
    fun p => ?_, ?_, ?_⟩
  · rw [hself']; rfl
  · rw [hself', hself]
    rfl
  · rw [hself', hself]
    cases ph <;> rfl
  · have hslot : t.slotState g .a = v.slotState g .a :=
      slotState_congr (by rw [hself']; rfl) (by rw [hself']) (by rw [hself'])
        (relevant_congr (fun _ => by rw [hrest']; rfl) (fun _ => by rw [hrest']; rfl) g)
    rw [startTimeFrom_congr hslot rfl rfl rfl, ← hstart hs, hself']
  · rw [hothers' x hx, hothers x hx]
  · rw [hrest']
    exact hcarrier c
  · rw [hrest']
    refine (hport p).trans ?_
    simp only [Group.changes, decide_eq_true_eq]
    rfl
  · rw [hmanager', show v.manager = s.manager by rw [hrest]]
  · have hcarriers : t.carriers = v.carriers := by rw [hrest']
    have haccess : t.access = v.access := by rw [hrest']
    rw [hcarriers, haccess]
    conv_lhs => rw [hrest', hrest]

end Sys2Proof.Settled

/-! SUPPORT. A resolution of a group (R103 to R106, R110), record by record. -/

namespace Sys2Proof.Machine

/-! ### What a resolution reckons -/

/-- The plan that a resolution chooses. -/
def State.chosen (s : State) (d : GroupDef) : Option Plan := s.chosenPlan d (s.compatibleSet d)

/-- Some roster member is attached. -/
def State.rosterAttached (s : State) (d : GroupDef) : Bool := s.attachOrder.any (fun p => hasItem d.roster p)

/-- The resolution finds no plan though some roster member is attached. -/
def State.faults (s : State) (d : GroupDef) : Bool := (s.chosen d).isNone && s.rosterAttached d

/-- The role that a resolution of a group gives a port. -/
def State.newRole (s : State) (g : GroupNo) (d : GroupDef) (p : PortNo) : Role :=
  resolvedRole d (s.compatibleSet d) s.attachOrder ((s.group g).plan.keepsJoined (s.chosen d))
    (s.group g).roles[p.val] p

/-- The plan record that a resolution of a group leaves. -/
def State.newPlan (s : State) (g : GroupNo) (d : GroupDef) : PlanRecord :=
  (s.group g).plan.resolved (s.chosen d) (s.rosterAttached d)

/-- The resolution raises EXCLUDED on a port. -/
def State.excludes (s : State) (g : GroupNo) (d : GroupDef) (p : PortNo) : Bool :=
  s.newRole g d p == .excluded && (s.faults d || (s.group g).roles[p.val] != .excluded)

/-- A resolution makes no port JOINED (R105). -/
theorem newRole_joined {s : State} {g : GroupNo} {d : GroupDef} {p : PortNo} (h : s.newRole g d p = .joined) :
    (s.group g).roles[p.val] = .joined := by
  unfold State.newRole resolvedRole at h
  split at h
  · split at h
    · next hc => exact beq_iff_eq.1 (Bool.and_eq_true _ _ ▸ hc).2
    · cases h
  · split at h
    · split at h <;> cases h
    · cases h

/-! ### The flags it raises -/

theorem raiseExcluded_port (s : State) (g : GroupNo) (before : Vector Role 4) (fault : Bool) (q : PortNo) :
    (s.raiseExcluded g before fault).port q =
      if (s.group g).roles[q.val] == .excluded && (fault || before[q.val] != .excluded) then
        { s.port q with
          state := (s.port q).raised
          condition :=
            { (s.port q).condition with excluded := (s.port q).condition.excluded.set g.val true } }
      else s.port q := by
  refine (foldPorts_port
    (P := fun s p => (s.group g).roles[p.val] == .excluded && (fault || before[p.val] != .excluded))
    (F := fun k =>
      { k with state := k.raised, condition := { k.condition with excluded := k.condition.excluded.set g.val true } })
    (fun _ _ _ _ => rfl) q _ (List.nodup_finRange 4) s).trans ?_
  simp only [List.mem_finRange, true_and]

theorem raisePlanWaiting_port (s : State) (g : GroupNo) (q : PortNo) :
    (s.raisePlanWaiting g).port q =
      if (s.group g).roles[q.val] == .joining then
        { s.port q with planWaiting := (s.port q).planWaiting.set g.val true }
      else s.port q := by
  refine (foldPorts_port (P := fun s p => (s.group g).roles[p.val] == .joining)
    (F := fun k => { k with planWaiting := k.planWaiting.set g.val true })
    (fun _ _ _ _ => rfl) q _ (List.nodup_finRange 4) s).trans ?_
  simp only [List.mem_finRange, true_and]

/-- A port's record with the flags of a resolution raised. -/
def AccessPort.flagged (k : AccessPort) (g : GroupNo) (excluded waits : Bool) : AccessPort :=
  { k with
    state := if excluded then k.raised else k.state
    condition :=
      { k.condition with
        excluded := if excluded then k.condition.excluded.set g.val true else k.condition.excluded }
    planWaiting := if waits then k.planWaiting.set g.val true else k.planWaiting }

/-! ### The resolution -/

/-- The roles as a resolution leaves them, before its flags and its plan. -/
def State.reassigned (s : State) (g : GroupNo) (d : GroupDef) : State :=
  (List.finRange 4).foldl (fun t p => t.setRole g p (s.newRole g d p)) s

theorem resolve_eq {s : State} {g : GroupNo} {d : GroupDef} (hd : (s.group g).definition = some d)
    (hst : (s.group g).state ≠ .free) :
    s.resolve g =
      let t := ((s.reassigned g d).raiseExcluded g (s.group g).roles (s.faults d)).raisePlanWaiting g
      let u := t.setGroup g { t.group g with plan := s.newPlan g d }
      if s.faults d then u.setGroupAlert g true else u := by
  unfold State.resolve
  dsimp only
  rw [hd]
  dsimp only
  rw [if_neg hst]
  rfl

theorem reassigned_recast (s : State) (g : GroupNo) (d : GroupDef) :
    Recast g (s.newRole g d) (List.finRange 4) s (s.reassigned g d) :=
  setRoles_recast _ _ (List.nodup_finRange 4) s

theorem reassigned_startTime {s : State} {g : GroupNo} (d : GroupDef) (h : s.startFits g) :
    ((s.reassigned g d).group g).startTime = (s.reassigned g d).startTimeFrom s g :=
  setRoles_startTime _ (List.nodup_finRange 4) (fun _ _ => newRole_joined) h

/-- What a resolution leaves, record by record. -/
theorem resolve_spec {s : State} {g : GroupNo} {d : GroupDef} (hd : (s.group g).definition = some d)
    (hst : (s.group g).state ≠ .free) :
    let f := s.newRole g d
    let t := s.resolve g
    t.group g =
        { (s.group g).recast f (List.finRange 4) with
          plan := s.newPlan g d
          startTime := (t.group g).startTime }
      ∧ (s.startFits g → (t.group g).startTime = t.startTimeFrom s g)
      ∧ (∀ h, h ≠ g → t.group h = s.group h)
      ∧ (∀ c, t.carrier c =
        { s.carrier c with
          carousel := (s.carrier c).carousel.filter (fun e =>
            !(e.group == g && (s.group g).leaves f (List.finRange 4) e.member)) })
      ∧ (∀ p, t.port p = ((s.port p).recast (s.group g) f (List.finRange 4) g p).flagged g (s.excludes g d p)
          (f p == .joining))
      ∧ t =
        { s with
          groups := t.groups
          carriers := t.carriers
          access := t.access
          manager :=
            { s.manager with
              groupAlert := if s.faults d then s.manager.groupAlert.set g.val true else s.manager.groupAlert } } := by
  have heq := resolve_eq hd hst
  have hcast := reassigned_recast s g d
  have hstart := reassigned_startTime (s := s) (g := g) d
  dsimp only at heq ⊢
  generalize s.reassigned g d = u at heq hcast hstart
  have hrole : ∀ p : PortNo, (u.group g).roles[p.val] = s.newRole g d p := fun p => by
    rw [hcast.role, if_pos (List.mem_finRange p)]
  have hport := raiseExcluded_port u g (s.group g).roles (s.faults d)
  obtain ⟨a, ha⟩ := raiseExcluded_shape u g (s.group g).roles (s.faults d)
  generalize u.raiseExcluded g (s.group g).roles (s.faults d) = v at heq hport ha
  have hport' := raisePlanWaiting_port v g
  obtain ⟨a', ha'⟩ := raisePlanWaiting_shape v g
  generalize v.raisePlanWaiting g = w at heq hport' ha'
  have hgroup : ∀ h, w.group h = u.group h := fun h => by rw [ha', ha]; rfl
  generalize hx : w.setGroup g { w.group g with plan := s.newPlan g d } = x at heq
  have hxself : x.group g = { u.group g with plan := s.newPlan g d } := by rw [← hx, State.setGroup_self, hgroup]
  have hxothers : ∀ h, h ≠ g → x.group h = u.group h := fun h hh => by rw [← hx, State.setGroup_ne _ _ _ _ hh, hgroup]
  obtain ⟨m, hm⟩ : ∃ m, s.resolve g = { x with manager := m } := by
    rw [heq]; split <;> exact ⟨_, rfl⟩
  have hframe : x = { u with groups := x.groups, access := x.access } := by rw [← hx, ha', ha]; rfl
  have hslot : x.slotState g .a = u.slotState g .a :=
    slotState_congr (by rw [hxself]; rfl) (by rw [hxself]) (by rw [hxself])
      (relevant_congr (fun c => by rw [hframe]; rfl) (fun p => by rw [hframe]; rfl) g)
  refine ⟨?_, fun hs => ?_, fun h hh => ?_, fun c => ?_, fun p => ?_, ?_⟩
  · have hself : (s.resolve g).group g = x.group g := by rw [hm]; rfl
    rw [hself, hxself]
    conv_lhs => rw [hcast.group]
  · have hself : (s.resolve g).group g = x.group g := by rw [hm]; rfl
    rw [hself, hxself]
    exact (hstart hs).trans (startTimeFrom_congr (by rw [hm]; exact hslot.symm) rfl rfl rfl)
  · rw [hm]
    exact (hxothers h hh).trans (hcast.others h hh)
  · rw [hm, hframe]
    exact hcast.carrier c
  · have hp : (s.resolve g).port p = w.port p := by rw [hm, ← hx]; rfl
    have hv : (v.group g).roles[p.val] = s.newRole g d p := by rw [ha]; exact hrole p
    rw [hp, hport', hv, hport, hrole, ← State.excludes, hcast.port]
    cases s.excludes g d p <;> cases s.newRole g d p == .joining <;> rfl
  · rw [heq, hframe]
    conv_lhs => rw [hcast.rest]
    cases s.faults d <;> rfl

end Sys2Proof.Machine

namespace Sys2Proof.Machine

/-! ### What a resolution reckons, said as the statements say it -/

section
variable {s : State} {g : GroupNo} {d : GroupDef}

theorem rosterAttached_iff : s.rosterAttached d = true ↔ ∃ p ∈ s.attachOrder, hasItem d.roster p = true :=
  List.any_eq_true

theorem faults_iff : s.faults d = true ↔ s.chosen d = none ∧ ∃ p ∈ s.attachOrder, hasItem d.roster p = true := by
  rw [State.faults, Bool.and_eq_true, Option.isNone_iff_eq_none, rosterAttached_iff]

theorem keepsJoined_iff {pl : PlanRecord} {chosen : Option Plan} :
    pl.keepsJoined chosen = true ↔
      (chosen ≠ none ∧ pl.agreed = chosen) ∧ (pl.status = .agreed ∨ pl.status = .proposed) := by
  simp [PlanRecord.keepsJoined, Option.isSome_iff_ne_none]

theorem newRole_eq (p : PortNo) :
    s.newRole g d p =
      if p ∈ s.compatibleSet d then
        (if (s.group g).roles[p.val] = .joined
            ∧ ((s.chosen d ≠ none ∧ (s.group g).plan.agreed = s.chosen d)
              ∧ ((s.group g).plan.status = .agreed ∨ (s.group g).plan.status = .proposed)) then .joined
         else .joining)
      else if hasItem d.roster p = true then (if p ∈ s.attachOrder then .excluded else .absent)
      else .notMember := by
  unfold State.newRole resolvedRole
  simp only [List.contains_iff_mem, Bool.and_eq_true, keepsJoined_iff, beq_iff_eq, and_comm]

theorem excludes_iff {p : PortNo} :
    s.excludes g d p = true ↔
      s.newRole g d p = .excluded ∧ (s.faults d = true ∨ (s.group g).roles[p.val] ≠ .excluded) := by
  simp [State.excludes]

theorem Group.leaves_all (grp : Group) (f : PortNo → Role) (p : PortNo) :
    grp.leaves f (List.finRange 4) p = (grp.roles[p.val].active && !(f p).active) := by
  simp [Group.leaves]

theorem Group.comes_all (grp : Group) (f : PortNo → Role) (p : PortNo) :
    grp.comes f (List.finRange 4) p = (!grp.roles[p.val].active && (f p).active && grp.pendingSlot.isSome) := by
  simp [Group.comes]

end

/-! ### The plan record of a resolution (R106) -/

section
variable {pl : PlanRecord} {chosen : Option Plan} {attached : Bool}

theorem PlanRecord.resolved_agreed : (pl.resolved chosen attached).agreed = pl.agreed := by
  unfold PlanRecord.resolved
  split
  · split
    · split <;> rfl
    · rfl
  · split <;> rfl

theorem PlanRecord.resolved_other (h : chosen ≠ none) (hne : ¬ (chosen ≠ none ∧ pl.agreed = chosen)) :
    pl.resolved chosen attached = { pl with number := pl.number + 1, status := .proposed, proposed := chosen } := by
  obtain ⟨c, rfl⟩ := Option.ne_none_iff_exists'.1 h
  exact if_neg fun hc => hne ⟨h, hc⟩

theorem PlanRecord.resolved_same (h : chosen ≠ none) (hc : pl.agreed = chosen) :
    pl.resolved chosen attached =
      { pl with
        number := if pl.status = .proposed then pl.number + 1 else pl.number
        status := .agreed
        proposed := if pl.status = .proposed then none else pl.proposed } := by
  obtain ⟨c, rfl⟩ := Option.ne_none_iff_exists'.1 h
  refine (if_pos hc).trans ?_
  cases hst : pl.status <;> simp
  rw [← hst]

theorem PlanRecord.resolved_fault (h : attached = true) :
    pl.resolved none attached = { pl with status := .fault, proposed := none } := if_pos h

theorem PlanRecord.resolved_alone (h : attached = false) : pl.resolved none attached = pl :=
  if_neg (h ▸ Bool.false_ne_true)

/-- The plan number counts the plans that change what the members are asked to hold (R106). -/
theorem PlanRecord.resolved_number :
    (pl.resolved chosen attached).number =
      if (chosen ≠ none ∧ ¬ (chosen ≠ none ∧ pl.agreed = chosen))
          ∨ ((chosen ≠ none ∧ pl.agreed = chosen) ∧ pl.status = .proposed) then pl.number + 1
      else pl.number := by
  by_cases hn : chosen = none
  · subst hn
    rw [if_neg (by simp)]
    unfold PlanRecord.resolved
    dsimp only
    split <;> rfl
  · by_cases hs : pl.agreed = chosen
    · rw [PlanRecord.resolved_same hn hs]
      simp [hn, hs]
    · rw [PlanRecord.resolved_other hn (fun h => hs h.2)]
      simp [hn, hs]

end

end Sys2Proof.Machine

namespace Sys2Proof.Settled

open Sys2Proof.Machine

/-- Settles O36: record by record from `resolve_spec`. -/
theorem resolution : Obligations.Resolution := by
  intro g d s hd hst
  obtain ⟨hself, hstart, hothers, hcarrier, hport, hrest⟩ := resolve_spec hd hst
  have hfault := faults_iff (s := s) (d := d)
  have hattached := rosterAttached_iff (s := s) (d := d)
  have hroles : ∀ p : PortNo, ((s.resolve g).group g).roles[p.val] = s.newRole g d p := fun p => by
    rw [hself]
    exact (Group.recast_role _ _ _ p).trans (if_pos (List.mem_finRange p))
  have hplan : ((s.resolve g).group g).plan = s.newPlan g d := by rw [hself]
  have hexcl := fun p => excludes_iff (s := s) (g := g) (d := d) (p := p)
  have hnew := newRole_eq (s := s) (g := g) (d := d)
  simp only [Group.leaves_all, AccessPort.recast, AccessPort.flagged, Group.comes_all, List.mem_finRange, true_and,
    ← hroles] at hcarrier hport hexcl
  intro old set chosen attached same fault t
  have ht : s.resolve g = t := rfl
  rw [ht] at hself hstart hothers hrest hplan
  simp only [ht] at hcarrier hport hexcl hroles
  clear_value t
  have hwaits := fun p => congrArg AccessPort.planWaiting (hport p)
  have hcauses := fun p => congrArg (·.condition.excluded) (hport p)
  have hstate := fun p => congrArg AccessPort.state (hport p)
  have hkey := fun p => congrArg AccessPort.keyWaiting (hport p)
  dsimp only at hwaits hcauses hstate hkey
  replace hexcl : ∀ p : PortNo, _ ↔ (t.group g).roles[p.val] = .excluded ∧ (fault ∨ old.roles[p.val] ≠ .excluded) :=
    fun p => (hexcl p).trans (and_congr_right fun _ => or_congr_left hfault)
  have hplan' : (t.group g).plan = old.plan.resolved chosen (s.rosterAttached d) := hplan
  refine ⟨fun p => ?_, ?_, fun hc hsame => ?_, fun hsame => ?_, fun hf => ?_, fun hc hatt => ?_, ?_, ?_, ?_, ?_, ?_,
    hstart, fun p => ?_, fun p => ?_, fun p hp hx hatt => ?_, ?_, fun p hp => ?_,
    ⟨fun p => ?_, fun ph => ?_, fun c => ?_⟩, hothers, fun p h hh => ?_, fun p => ?_, ?_⟩
  · exact (hroles p).trans (hnew p)
  · rw [hplan']
    exact PlanRecord.resolved_number
  · rw [hplan', PlanRecord.resolved_other hc hsame]
    exact ⟨rfl, rfl⟩
  · rw [hplan', PlanRecord.resolved_same hsame.1 hsame.2]
    exact ⟨rfl, fun hst => if_pos hst⟩
  · rw [hplan', hf.1, PlanRecord.resolved_fault (hattached.2 hf.2)]
    exact ⟨rfl, rfl⟩
  · rw [hplan', hc, PlanRecord.resolved_alone (Bool.eq_false_iff.2 (mt hattached.1 hatt))]
  · rw [hplan', PlanRecord.resolved_agreed]
  · rw [hself]; rfl
  · rw [hself]; rfl
  · rw [hself]; rfl
  · conv_lhs => rw [hself]
    rw [hself]
    rfl
  · rw [hwaits]
    cases (t.group g).roles[p.val] <;> simp [Role.active]
  · rw [hcauses, apply_ite (fun v : Vector Bool 32 => v[g.val]), if_congr (hexcl p) rfl rfl]
    by_cases hx : (t.group g).roles[p.val] = .excluded ∧ (fault ∨ old.roles[p.val] ≠ .excluded)
    · rw [if_pos hx, Vector.getElem_set_self]
      exact iff_of_true rfl (.inr hx)
    · rw [if_neg hx, or_iff_left hx]
  · rw [hstate, if_pos ((hexcl p).2 ⟨hp, hx⟩)]
    exact if_neg hatt
  · rw [hrest]
    dsimp only
    by_cases hf : s.faults d = true
    · rw [if_pos hf, Vector.getElem_set_self]
      exact iff_of_true rfl (.inr (hfault.1 hf))
    · rw [if_neg hf]
      exact (or_iff_left (mt hfault.2 hf)).symm
  · rw [hstate, if_neg (mt (hexcl p).1 hp)]
  · rw [hkey]
    refine if_congr (by simp [old]) rfl (if_congr ?_ rfl rfl)
    simp only [Bool.and_eq_true, Bool.not_eq_true', and_assoc, Option.isSome_iff_ne_none]
    unfold Group.pendingSlot Group.pendingPhase
    cases (s.group g).active <;> rfl
  · have hdrop : (fun p => old.roles[p.val].active && !(t.group g).roles[p.val].active)
        = old.leaves (s.newRole g d) (List.finRange 4) := funext fun p => by rw [Group.leaves_all, hroles]
    refine Eq.trans ?_ (congrArg (fun P => (old.slot ph).map (·.dropping P)) hdrop.symm)
    rw [hself, ← Group.recast_slot]
    cases ph <;> rfl
  · rw [hcarrier c]
    simp only [Bool.and_assoc]
    rfl
  · have hne : g.val ≠ h.val := fun he => hh (Fin.ext he.symm)
    rw [hwaits, hcauses]
    constructor
    · split <;> split <;> simp [hne]
    · split <;> simp [hne]
  · rw [hport p]
  · conv_lhs => rw [hrest, if_congr hfault rfl rfl]
    rfl

end Sys2Proof.Settled

/-! SUPPORT. A port acknowledges the recorded offer, and the agreement it may complete (R84, R108, R109). -/

namespace Sys2Proof.Machine

section
variable {s : State} {g : GroupNo} {p : PortNo}

theorem setRole_joined (h : (s.group g).roles[p.val] = .joining) :
    s.setRole g p .joined =
      s.setGroup g
        { s.group g with
          roles := (s.group g).roles.set p.val .joined
          startTime := (s.setRole g p .joined).startTimeFrom s g } := by
  have hset : s.setRole g p .joined =
      (s.setGroup g { s.group g with roles := (s.group g).roles.set p.val .joined }).recompute g := by
    simp [State.setRole, h, Role.active]
  have hstart : ((s.setRole g p .joined).group g).startTime = (s.setRole g p .joined).startTimeFrom s g :=
    setRole_startTime s g p .joined
  rw [← hstart, hset, recompute_group_self, recompute_setGroup, State.setGroup_twice, State.setGroup_self]

/-- A JOINING member is JOINED, its PLAN_WAITING cleared (R108). -/
def State.joins (s : State) (g : GroupNo) (p : PortNo) : State := (s.setRole g p .joined).setPlanWaiting p g false

theorem joins_spec (h : (s.group g).roles[p.val] = .joining) :
    let t := s.joins g p
    t.group g =
        { s.group g with roles := (s.group g).roles.set p.val .joined, startTime := t.startTimeFrom s g }
      ∧ (∀ x, x ≠ g → t.group x = s.group x)
      ∧ (∀ q, t.port q =
        { s.port q with
          planWaiting := if q = p then (s.port q).planWaiting.set g.val false else (s.port q).planWaiting })
      ∧ t = { s with groups := t.groups, access := t.access } := by
  have hset := setRole_joined h
  have hslot : (s.joins g p).startTimeFrom s g = (s.setRole g p .joined).startTimeFrom s g :=
    startTimeFrom_congr (slotState_congr rfl rfl rfl rfl) rfl rfl rfl
  dsimp only
  rw [hslot]
  unfold State.joins
  generalize (s.setRole g p .joined).startTimeFrom s g = x at hset
  rw [hset]
  refine ⟨State.setGroup_self _ _ _, fun y hy => State.setGroup_ne _ _ _ _ hy, fun q => ?_, rfl⟩
  refine (State.setPort_port _ p q _).trans ?_
  split
  · next hq => rw [hq]; rfl
  · rfl

/-- What the first agreement leaves where some member is JOINED: none has a packet under the new key, so slot A is not
AIRED and the start time is absent. -/
theorem firstAgreement_spec (h : (s.group g).roles[p.val] = .joined) :
    ∃ key n, (s.firstAgreement g).group g =
        { s.group g with state := .starting, slotA := some (KeySlot.fresh 0 key), startTime := none }
      ∧ (∀ x, x ≠ g → (s.firstAgreement g).group x = s.group x)
      ∧ (∀ q, (s.firstAgreement g).port q =
        if (s.group g).roles[q.val].active = true then
          { s.port q with keyWaiting := (s.port q).keyWaiting.set g.val true }
        else s.port q)
      ∧ s.firstAgreement g =
        { s with
          groups := (s.firstAgreement g).groups
          access := (s.firstAgreement g).access
          keyIndex := n } := by
  obtain ⟨key, n, hdraw, -⟩ := drawKey_spec s none
  unfold State.firstAgreement
  rw [hdraw]
  dsimp only
  generalize hu : ({ s with keyIndex := n } : State).setGroup g _ = u
  have hself : u.group g = { s.group g with state := .starting, slotA := some (KeySlot.fresh 0 key) } := by
    rw [← hu, State.setGroup_self]; rfl
  have hnot : u.slotState g .a ≠ .aired := fun ha => by
    obtain ⟨-, k, hk, hcov, -⟩ := slotState_aired_iff.1 ha
    rw [hself] at hk hcov
    obtain rfl : KeySlot.fresh 0 key = k := Option.some.inj hk
    exact (Group.covered_iff.1 hcov).2 p h (Vector.getElem_replicate _)
  have hnone : u.startTimeFrom u g = none := by
    rw [State.startTimeFrom, if_pos (by rw [hself]), if_neg hnot]
  have hrec : u.recompute g =
      u.setGroup g
        { s.group g with state := .starting, slotA := some (KeySlot.fresh 0 key), startTime := none } := by
    rw [recompute_setGroup, hnone, hself]
  generalize hv : u.recompute g = v at hrec
  have hvself : v.group g = _ := (congrArg (State.group · g) hrec).trans (State.setGroup_self u g _)
  have hport := raiseKeyWaiting_port v g
  obtain ⟨a, hr⟩ := raiseKeyWaiting_shape v g
  refine ⟨key, n, ?_, fun x hx => ?_, fun q => (hport q).trans ?_, ?_⟩
  · rw [hr]; exact hvself
  · rw [hr, hrec, ← hu]
    exact (State.setGroup_ne _ _ _ _ hx).trans (State.setGroup_ne _ _ _ _ hx)
  · rw [hvself, hrec, ← hu]; rfl
  · rw [hr, hrec, ← hu]; rfl

/-- The plan record of an agreement (R109). -/
def PlanRecord.agreedTo (pl : PlanRecord) : PlanRecord := ⟨pl.number, .agreed, none, pl.proposed⟩

/-- What an agreement leaves where some member is JOINED. -/
theorem agree_spec (h : (s.group g).roles[p.val] = .joined) :
    ∃ key n, (s.agree g).group g =
        { s.group g with
          plan := (s.group g).plan.agreedTo
          state := if (s.group g).state = .planning then .starting else (s.group g).state
          slotA := if (s.group g).state = .planning then some (KeySlot.fresh 0 key) else (s.group g).slotA
          startTime := if (s.group g).state = .planning then none else (s.group g).startTime }
      ∧ (∀ x, x ≠ g → (s.agree g).group x = s.group x)
      ∧ (∀ q, (s.agree g).port q =
        { s.port q with
          keyWaiting :=
            if (s.group g).state = .planning ∧ (s.group g).roles[q.val].active = true then
              (s.port q).keyWaiting.set g.val true
            else (s.port q).keyWaiting })
      ∧ s.agree g =
        { s with groups := (s.agree g).groups, access := (s.agree g).access, keyIndex := n } := by
  have hagree : s.agree g =
      if (s.group g).state = .planning then
        (s.setGroup g { s.group g with plan := (s.group g).plan.agreedTo }).firstAgreement g
      else s.setGroup g { s.group g with plan := (s.group g).plan.agreedTo } := rfl
  generalize hu : s.setGroup g { s.group g with plan := (s.group g).plan.agreedTo } = u at hagree
  have hself : u.group g = { s.group g with plan := (s.group g).plan.agreedTo } := by rw [← hu, State.setGroup_self]
  have hothers : ∀ x, x ≠ g → u.group x = s.group x := fun x hx => by rw [← hu, State.setGroup_ne _ _ _ _ hx]
  have hport : ∀ q, u.port q = s.port q := fun q => by rw [← hu]; rfl
  by_cases hst : (s.group g).state = .planning
  · rw [if_pos hst] at hagree
    obtain ⟨key, n, hself', hothers', hport', hrest'⟩ :=
      firstAgreement_spec (s := u) (g := g) (p := p) (by rw [hself]; exact h)
    rw [← hagree] at hself' hothers' hport' hrest'
    refine ⟨key, n, ?_, fun x hx => (hothers' x hx).trans (hothers x hx), fun q => (hport' q).trans ?_, ?_⟩
    · rw [hself', hself, if_pos hst, if_pos hst, if_pos hst]
    · rw [hself, hport]
      split
      · next hr => rw [if_pos ⟨hst, hr⟩]
      · next hr => rw [if_neg fun hc => hr hc.2]
    · conv_lhs => rw [hrest', ← hu]
      rfl
  · rw [if_neg hst] at hagree
    rw [hagree]
    refine ⟨0, s.keyIndex, ?_, hothers, fun q => ?_, ?_⟩
    · rw [hself, if_neg hst, if_neg hst, if_neg hst]
    · rw [hport, if_neg fun hc => hst hc.1]
    · rw [← hu]; rfl

theorem Group.allJoined_iff {grp : Group} : grp.allJoined = true ↔ ∀ q : PortNo, grp.roles[q.val] ≠ .joining := by
  simp [Group.allJoined]

/-- The acknowledgement of `p` completes the agreement: the plan is proposed and every other member of the compatible
set has acknowledged it. -/
abbrev Group.completes (grp : Group) (p : PortNo) : Prop :=
  grp.plan.status = .proposed ∧ ∀ q : PortNo, q ≠ p → grp.roles[q.val] ≠ .joining

/-- Completing the agreement of a PLANNING group, its first (R84). -/
abbrev Group.begins (grp : Group) (p : PortNo) : Prop := grp.completes p ∧ grp.state = .planning

/-- What the acknowledgement of a JOINING member leaves. -/
theorem join_spec (h : (s.group g).roles[p.val] = .joining) :
    ∃ key n, (s.join g p).group g =
        { s.group g with
          roles := (s.group g).roles.set p.val .joined
          plan := if (s.group g).completes p then (s.group g).plan.agreedTo else (s.group g).plan
          state := if (s.group g).begins p then .starting else (s.group g).state
          slotA := if (s.group g).begins p then some (KeySlot.fresh 0 key) else (s.group g).slotA
          startTime := if (s.group g).begins p then none else (s.join g p).startTimeFrom s g }
      ∧ (∀ x, x ≠ g → (s.join g p).group x = s.group x)
      ∧ (∀ q, (s.join g p).port q =
        { s.port q with
          keyWaiting :=
            if (s.group g).begins p ∧ (s.group g).roles[q.val].active = true then (s.port q).keyWaiting.set g.val true
            else (s.port q).keyWaiting
          planWaiting := if q = p then (s.port q).planWaiting.set g.val false else (s.port q).planWaiting })
      ∧ s.join g p =
        { s with groups := (s.join g p).groups, access := (s.join g p).access, keyIndex := n } := by
  obtain ⟨hself, hothers, hport, hrest⟩ := joins_spec h
  have hjoin : s.join g p =
    if ((s.joins g p).group g).plan.status = .proposed ∧ ((s.joins g p).group g).allJoined then (s.joins g p).agree g
    else s.joins g p := rfl
  generalize s.joins g p = u at hself hothers hport hrest hjoin
  have hrole : ∀ q : PortNo, (u.group g).roles[q.val] = if q = p then .joined else (s.group g).roles[q.val] := by
    intro q
    simp only [hself, Vector.getElem_set, Fin.ext_iff, eq_comm]
  have hactive : ∀ q : PortNo, (u.group g).roles[q.val].active = (s.group g).roles[q.val].active := fun q => by
    rw [hrole]
    split
    · next hq => rw [hq, h]; rfl
    · rfl
  have hcompletes : ((u.group g).plan.status = .proposed ∧ (u.group g).allJoined = true) ↔ (s.group g).completes p := by
    rw [Group.allJoined_iff, hself]
    refine and_congr_right fun _ => forall_congr' fun q => ?_
    rw [← hself, hrole]
    by_cases hq : q = p <;> simp [hq]
  have hstate : (u.group g).state = (s.group g).state := by rw [hself]
  by_cases hc : (s.group g).completes p
  · rw [if_pos (hcompletes.2 hc)] at hjoin
    obtain ⟨key, n, hself', hothers', hport', hrest'⟩ := agree_spec (s := u) ((hrole p).trans (if_pos rfl))
    rw [← hjoin, hstate] at hself'
    rw [← hjoin] at hothers' hport' hrest'
    have hbegins : (s.group g).state = .planning ↔ (s.group g).begins p := (and_iff_right hc).symm
    refine ⟨key, n, ?_, fun x hx => (hothers' x hx).trans (hothers x hx), fun q => ?_, ?_⟩
    · conv_lhs => rw [hself', hself]
      have hstart : ¬ (s.group g).begins p → u.startTimeFrom s g = (s.join g p).startTimeFrom s g := fun hb => by
        have hslot : ((s.join g p).group g).slotA = (u.group g).slotA := by
          rw [hself']
          exact if_neg (mt hbegins.1 hb)
        exact startTimeFrom_congr (slotState_congr hslot.symm (by rw [hself']) (by rw [hself'])
          (relevant_congr (fun _ => by rw [hrest']; rfl) (fun _ => by rw [hrest']; rfl) g)) rfl rfl rfl
      simp only [hbegins, if_pos hc]
      by_cases hb : (s.group g).begins p
      · simp only [if_pos hb]
      · simp only [if_neg hb, hstart hb]
    · rw [hport', hactive, hstate, hport]
      simp only [hbegins]
    · conv_lhs => rw [hrest', hrest]
  · rw [if_neg (mt hcompletes.1 hc)] at hjoin
    have hbegins : ¬ (s.group g).begins p := fun hb => hc hb.1
    rw [hjoin]
    refine ⟨0, s.keyIndex, ?_, hothers, fun q => ?_, ?_⟩
    · conv_lhs => rw [hself]
      rw [if_neg hc, if_neg hbegins, if_neg hbegins, if_neg hbegins]
    · have hnot : ¬ ((s.group g).begins p ∧ (s.group g).roles[q.val].active = true) := fun hb => hbegins hb.1
      rw [hport, if_neg hnot]
    · conv_lhs => rw [hrest]

theorem planAck_refused {group number : Nat} {o : Offer}
    (h : 32 ≤ group ∨ 256 ≤ number ∨ o.mask = 0 ∨ o.lead = 0 ∨ 30 < o.lead) :
    planAck group number o p s = refused s .range := by
  unfold planAck
  cases hg : toGroup group with
  | none => rfl
  | some x =>
    refine if_pos ?_
    rcases h with h | h | h
    · rw [toGroup_none h] at hg; cases hg
    · exact .inl h
    · refine .inr ?_
      simp only [Offer.valid, Bool.not_eq_true', Bool.and_eq_false_iff, bne_eq_false_iff_eq, decide_eq_false_iff_not]
      rcases h with h | h
      · exact .inl h
      · exact .inr (by omega)

theorem planAck_role {number : Nat} {o : Offer} (hn : number < 256) (ho : o.valid = true)
    (hr : (s.group g).roles[p.val] ≠ .joining) : planAck g.val number o p s = refused s .state := by
  unfold planAck
  rw [toGroup_val]
  exact (if_neg (by simp [ho]; omega)).trans (if_pos hr)

theorem planAck_stale {number : Nat} {o : Offer} (hn : number < 256) (ho : o.valid = true)
    (hr : (s.group g).roles[p.val] = .joining) (hne : number ≠ (s.group g).plan.number.toNat) :
    planAck g.val number o p s = refused s .stale := by
  unfold planAck
  rw [toGroup_val]
  exact (if_neg (by simp [ho]; omega)).trans ((if_neg (not_not.2 hr)).trans (if_pos hne))

theorem planAck_done {t : State} {number : Nat} {o : Offer} (hn : number < 256) (ho : o.valid = true)
    (hr : (s.group g).roles[p.val] = .joining) (he : number = (s.group g).plan.number.toNat)
    (ht : (if (s.port p).offer = some o then s.join g p
      else (s.setPort p { s.port p with offer := some o }).resolveFor p) = t) :
    planAck g.val number o p s =
      (t, .done (.planAck (t.group g).roles[p.val] (t.group g).plan.number (t.group g).plan.status)) := by
  unfold planAck
  rw [toGroup_val]
  refine (if_neg (by simp [ho]; omega)).trans ((if_neg (not_not.2 hr)).trans ((if_neg (not_not.2 he)).trans ?_))
  rw [ht]

end

end Sys2Proof.Machine

namespace Sys2Proof.Settled

open Sys2Proof.Machine

/-- Settles O33: by the checks in their order, then `join_spec`. -/
theorem planAck : Obligations.PlanAck := by
  intro p o s h
  refine ⟨fun group number hr => congrArg Host.Outcome.next (takeOrder_rejected h (planAck_refused hr)), ?_⟩
  intro g number hn hm hl hl' grp
  have ho : o.valid = true := by
    rw [Offer.valid, Bool.and_eq_true, bne_iff_ne, decide_eq_true_iff]
    exact ⟨hm, hl, hl'⟩
  refine ⟨fun hr => congrArg _ (takeOrder_rejected h (planAck_role hn ho hr)),
    fun hr hne => congrArg _ (takeOrder_rejected h (planAck_stale hn ho hr hne)), fun hr he hoffer => ?_,
    fun hr he hoffer => ?_⟩
  · refine congrArg Host.Outcome.next (takeOrder_done h (planAck_done hn ho hr he ?_))
    rw [if_neg hoffer, resolveFor_eq]
  · have hexec := takeOrder_done h (planAck_done hn ho hr he (if_pos hoffer))
    intro agrees first plan
    obtain ⟨key, n, hself, hothers, hport, hrest⟩ := join_spec hr
    refine ⟨key, n, s.join g p, ?_, hself, hothers, ?_, hrest⟩
    · refine congrArg Host.Outcome.next (hexec.trans ?_)
      rw [hself]
      simp only [Vector.getElem_set_self, plan]
      split <;> rfl
    · refine fun q => (hport q).trans ?_
      simp only [Role.active_iff]
      rfl

end Sys2Proof.Settled

/-! SUPPORT. The carousel take (R118, R119): the order of the entries due, and what taking several of them leaves. -/

namespace Sys2Proof.Machine

/-! ### The order of a take (R118) -/

section
variable {s : State} {x y z : CarouselEntry}

theorem takesBefore_iff : s.takesBefore x y = true ↔
    x.due < y.due ∨ (x.due = y.due ∧ (x.group < y.group ∨ (x.group = y.group ∧
      (s.phaseRank x < s.phaseRank y ∨ (s.phaseRank x = s.phaseRank y ∧ x.member ≤ y.member))))) := by
  simp [State.takesBefore]

/-- The place of an entry in the order of a take. -/
def State.takeKey (s : State) (e : CarouselEntry) : Nat ×ₗ GroupNo ×ₗ Nat ×ₗ PortNo :=
  toLex (e.due, toLex (e.group, toLex (s.phaseRank e, e.member)))

theorem takesBefore_iff_takeKey : s.takesBefore x y = true ↔ s.takeKey x ≤ s.takeKey y := by
  rw [takesBefore_iff]
  simp only [State.takeKey, Prod.Lex.toLex_le_toLex]

theorem takesBefore_total (x y : CarouselEntry) : s.takesBefore x y = true ∨ s.takesBefore y x = true := by
  simp only [takesBefore_iff_takeKey]
  exact le_total _ _

theorem takesBefore_trans (x y z : CarouselEntry) (h : s.takesBefore x y = true) (h' : s.takesBefore y z = true) :
    s.takesBefore x z = true := by
  rw [takesBefore_iff_takeKey] at *
  exact h.trans h'

/-- The entry of the ACTIVE slot comes first; entries of one group have one rank exactly where they have one phase. -/
theorem phaseRank_iff (h : x.group = y.group) :
    (s.phaseRank x = s.phaseRank y ↔ x.phase = y.phase)
      ∧ (s.phaseRank x < s.phaseRank y → (s.group x.group).active ≠ some y.phase) := by
  unfold State.phaseRank
  rw [← h]
  cases ha : (s.group x.group).active with
  | none => cases x.phase <;> cases y.phase <;> simp
  | some ph => cases ph <;> cases x.phase <;> cases y.phase <;> simp

end

/-- The first entry that does not fit ends the take (R118). -/
theorem takeWithin_ends : ∀ (room : Nat) (es rest : List CarouselEntry), takeWithin room es ++ rest = es →
    ∀ e, rest.head? = some e → room < ((takeWithin room es).map (·.slices)).sum + e.slices
  | _, [], rest, h, e, he => by
      rw [List.append_eq_nil_iff.1 h |>.2] at he
      cases he
  | room, x :: es, rest, h, e, he => by
      unfold takeWithin at h ⊢
      split
      · next hx =>
        rw [if_pos hx, List.cons_append, List.cons_inj_right] at h
        have := takeWithin_ends _ es rest h e he
        simp only [List.map_cons, List.sum_cons]
        omega
      · next hx =>
        rw [if_neg hx, List.nil_append] at h
        subst h
        cases he
        simpa using hx

/-! ### Airing reports (R90) -/

/-- A list of entries has one of a packet. -/
def takes (l : List CarouselEntry) (g : GroupNo) (ph : Phase) (m : PortNo) : Bool :=
  l.any (fun e => e.group == g && e.phase == ph && e.member == m)

/-- A slot after the airing of some of its packets on a carrier. -/
def KeySlot.airing (k : KeySlot) (c : CarrierNo) (P : PortNo → Bool) : KeySlot :=
  { k with
    packets := Vector.ofFn (fun m : PortNo =>
      k.packets[m.val].map (fun x => if P m then { x with aired := addItem x.aired c } else x)) }

section
variable {k : KeySlot} {c : CarrierNo} {P Q : PortNo → Bool}

theorem KeySlot.airing_packet (m : PortNo) : (k.airing c P).packets[m.val] =
    k.packets[m.val].map (fun x => if P m then { x with aired := addItem x.aired c } else x) := Vector.getElem_ofFn _

theorem KeySlot.airing_none (h : ∀ m, P m = false) : k.airing c P = k := by
  unfold KeySlot.airing
  congr 1
  ext1 i hi
  rw [Vector.getElem_ofFn, h]
  simp

theorem addItem_twice {n : Nat} (m : BitVec n) (i : Fin n) : addItem (addItem m i) i = addItem m i := by
  rw [addItem, addItem, BitVec.or_assoc, BitVec.or_self]

theorem KeySlot.airing_airing : (k.airing c P).airing c Q = k.airing c (fun m => P m || Q m) := by
  unfold KeySlot.airing
  congr 1
  ext1 i hi
  simp only [Vector.getElem_ofFn, Option.map_map]
  refine congrArg (Option.map · _) (funext fun x => ?_)
  by_cases hP : P ⟨i, hi⟩ = true <;> by_cases hQ : Q ⟨i, hi⟩ = true <;> simp [hP, hQ, addItem_twice]

theorem KeySlot.airing_airedOn {relevant : CarrierSet} (h : k.airedOn relevant = true) :
    (k.airing c P).airedOn relevant = true := by
  refine KeySlot.airedOn_iff.2 fun m x hx d hd => ?_
  rw [KeySlot.airing_packet, Option.map_eq_some_iff] at hx
  obtain ⟨y, hy, rfl⟩ := hx
  have hd := KeySlot.airedOn_iff.1 h m y hy d hd
  split <;> simp [hd]

end

/-- From `s` to `t` the packets of the entries `l` have been taken by carrier `c` at boundary time `b`, and nothing else
has happened (R119). -/
structure Airs (c : CarrierNo) (b : Time) (l : List CarouselEntry) (s t : State) : Prop where
  list : (t.carrier c).carousel = (s.carrier c).carousel.map (fun e =>
    if takes l e.group e.phase e.member then { e with due := b + (s.group e.group).repeatPeriod } else e)
  slot : ∀ g ph, (t.group g).slot ph = ((s.group g).slot ph).map (·.airing c (takes l g ph))
  group : ∀ g, t.group g =
    { s.group g with
      slotA := (t.group g).slotA
      slotB := (t.group g).slotB
      startTime := (t.group g).startTime }
  start : ∀ g, s.startFits g → (t.group g).startTime = t.startTimeFrom s g
  carrier : t.carrier c = { s.carrier c with carousel := (t.carrier c).carousel }
  others : ∀ d, d ≠ c → t.carrier d = s.carrier d
  rest : t = { s with carriers := t.carriers, groups := t.groups }

section
variable {c : CarrierNo} {b : Time} {l : List CarouselEntry} {e : CarouselEntry} {s t u : State} {g : GroupNo}

theorem Airs.relevant (h : Airs c b l s t) (g : GroupNo) : t.relevant g = s.relevant g :=
  relevant_congr (fun d => by
    by_cases hd : d = c
    · rw [hd, h.carrier]
    · rw [h.others d hd]) (fun p => by rw [h.rest]; rfl) g

/-- An AIRED slot stays AIRED. -/
theorem Airs.aired (h : Airs c b l s t) {ph : Phase} (ha : s.slotState g ph = .aired) : t.slotState g ph = .aired := by
  rw [slotState_aired_iff] at ha ⊢
  obtain ⟨hact, k, hk, hcov, hair⟩ := ha
  obtain ⟨hjoined, hall⟩ := Group.covered_iff.1 hcov
  refine ⟨by rwa [h.group], k.airing c (takes l g ph), by rw [h.slot, hk]; rfl, Group.covered_iff.2 ?_, ?_⟩
  · rw [h.group]
    refine ⟨hjoined, fun p hp => ?_⟩
    rw [KeySlot.airing_packet, ne_eq, Option.map_eq_none_iff]
    exact hall p hp
  · rw [h.relevant]
    exact KeySlot.airing_airedOn hair

theorem Airs.refl (s : State) : Airs c b [] s s where
  list := by simp [takes]
  slot g ph := by
    simp only [KeySlot.airing_none (P := takes [] g ph) fun _ => rfl, Option.map_id']
  group _ := rfl
  start _ h := startTimeFrom_refl h
  carrier := rfl
  others _ _ := rfl
  rest := rfl

theorem takes_cons (g : GroupNo) (ph : Phase) (m : PortNo) :
    takes (e :: l) g ph m = (takes [e] g ph m || takes l g ph m) := by
  simp [takes]

theorem Airs.cons (h : Airs c b [e] s t) (h' : Airs c b l t u) : Airs c b (e :: l) s u where
  list := by
    rw [h'.list, h.list, List.map_map]
    refine List.map_congr_left fun x _ => ?_
    have hperiod : ∀ g, (t.group g).repeatPeriod = (s.group g).repeatPeriod := fun g => by rw [h.group]; rfl
    simp only [Function.comp_apply, hperiod, takes_cons (e := e) (l := l)]
    cases takes [e] x.group x.phase x.member <;> simp
  slot g ph := by
    rw [h'.slot, h.slot, Option.map_map, funext (takes_cons (e := e) (l := l) g ph)]
    exact congrArg (Option.map · _) (funext fun k => KeySlot.airing_airing)
  group g := by rw [h'.group, h.group]
  start g hs := by
    have hst : (t.group g).state = (s.group g).state := by rw [h.group]
    have hstart := h.start g hs
    exact startTimeFrom_trans hs hst (by rw [h.rest]) hstart (h'.start g (startFits_of_eq hst hstart))
      fun ha _ => h.aired ha
  carrier := by rw [h'.carrier, h.carrier]
  others d hd := (h'.others d hd).trans (h.others d hd)
  rest := by
    conv_lhs => rw [h'.rest, h.rest]

theorem takes_one (g : GroupNo) (ph : Phase) (m : PortNo) :
    takes [e] g ph m = decide (g = e.group ∧ ph = e.phase ∧ m = e.member) := by
  simp [takes, eq_comm, Bool.beq_eq_decide_eq, Bool.and_assoc]

theorem KeySlot.airing_one (k : KeySlot) (p : PortNo) :
    { k with packets := k.packets.set p.val (k.packets[p.val].map (fun x => { x with aired := addItem x.aired c })) }
      = k.airing c (fun m => decide (m = p)) := by
  unfold KeySlot.airing
  congr 1
  ext1 i hi
  rw [Vector.getElem_set, Vector.getElem_ofFn]
  by_cases h : p.val = i
  · subst h; simp
  · simp [h, Fin.ext_iff, Ne.symm h]

/-- The group's record after an airing report of one packet, before the recomputation (R90). -/
def Group.airing (grp : Group) (ph : Phase) (p : PortNo) (c : CarrierNo) : Group :=
  grp.setSlot ph ((grp.slot ph).map (·.airing c (fun m => decide (m = p))))

theorem Group.airing_slot (grp : Group) (ph ph' : Phase) (p : PortNo) (c : CarrierNo) :
    (grp.airing ph p c).slot ph' = (grp.slot ph').map (·.airing c (fun m => decide (ph' = ph ∧ m = p))) := by
  obtain rfl | h : ph' = ph ∨ ph' = ph.other := by cases ph <;> cases ph' <;> simp [Phase.other]
  · simp [Group.airing]
  · have hne : ph' ≠ ph := by rw [h]; cases ph <;> simp [Phase.other]
    have hnone : ∀ k : KeySlot, k.airing c (fun m => decide (ph' = ph ∧ m = p)) = k := fun k =>
      KeySlot.airing_none fun m => by simp [hne]
    simp only [hnone, Option.map_id']
    rw [h, Group.airing, Group.setSlot_slot_other]

theorem Group.airing_eq (grp : Group) (ph : Phase) (p : PortNo) (c : CarrierNo) :
    grp.airing ph p c = { grp with slotA := (grp.airing ph p c).slotA, slotB := (grp.airing ph p c).slotB } :=
  Group.setSlot_eq _ _ _

theorem reportAiring_eq (s : State) (g : GroupNo) (ph : Phase) (p : PortNo) (c : CarrierNo) :
    s.reportAiring g ph p c = (s.setGroup g ((s.group g).airing ph p c)).recompute g := by
  rw [Group.airing, ← funext fun k => KeySlot.airing_one k p]
  rfl

/-- The start time of a group that a change leaves alone. -/
theorem startTimeFrom_of_kept (hg : t.group g = s.group g) (hr : t.relevant g = s.relevant g) (h : s.startFits g) :
    (t.group g).startTime = t.startTimeFrom s g := by
  have hslot : t.slotState g .a = s.slotState g .a := slotState_congr (by rw [hg]) (by rw [hg]) (by rw [hg]) hr
  rw [hg, startTimeFrom_refl h]
  exact startTimeFrom_congr hslot.symm rfl rfl rfl

/-- One entry taken. -/
theorem takeEntry_airs (acc : List AccessCopy × State) (e : CarouselEntry) :
    Airs c b [e] acc.2 (takeEntry c b acc e).2 := by
  obtain ⟨copies, s⟩ := acc
  generalize hl : (s.carrier c).carousel.map (fun x =>
    if takes [e] x.group x.phase x.member then { x with due := b + (s.group x.group).repeatPeriod } else x) = list
  have htake : (takeEntry c b (copies, s) e).2 =
      (s.setCarrier c { s.carrier c with carousel := list }).reportAiring e.group e.phase e.member c := by
    refine congrArg
      (fun l => (s.setCarrier c { s.carrier c with carousel := l }).reportAiring e.group e.phase e.member c)
      (Eq.trans ?_ hl)
    refine List.map_congr_left fun x _ => ?_
    simp only [takes_one, decide_eq_true_eq]
    split
    · next hx => rw [hx.1]
    · rfl
  rw [htake, reportAiring_eq]
  generalize hv : s.setCarrier c { s.carrier c with carousel := list } = v
  have hgroup : ∀ g, v.group g = s.group g := fun g => by rw [← hv]; rfl
  rw [hgroup]
  generalize hu : v.setGroup e.group ((s.group e.group).airing e.phase e.member c) = u
  have hself : u.group e.group = (s.group e.group).airing e.phase e.member c := by rw [← hu, State.setGroup_self]
  have hrec := recompute_startTimeFrom (s := s) (u := u) (g := e.group) (by rw [hself, Group.airing_eq])
    (by rw [hself, Group.airing_eq]) (by rw [← hu, ← hv]; rfl)
  rw [hself] at hrec
  obtain ⟨gs, hr⟩ := recompute_shape u e.group
  have hothers : ∀ g, g ≠ e.group → (u.recompute e.group).group g = s.group g := fun g hg => by
    rw [recompute_group_ne _ hg, ← hu, State.setGroup_ne _ _ _ _ hg, hgroup]
  generalize u.recompute e.group = w at hrec hr hothers
  have hcarrier : ∀ d, w.carrier d = v.carrier d := fun d => by rw [hr, ← hu]; rfl
  have hcarriers : ∀ d, d ≠ c → w.carrier d = s.carrier d := fun d hd => by
    rw [hcarrier, ← hv, State.setCarrier_ne _ _ _ _ hd]
  have hone : w.carrier c = { s.carrier c with carousel := list } := by rw [hcarrier, ← hv, State.setCarrier_self]
  have hrest : w = { s with carriers := w.carriers, groups := w.groups } := by rw [hr, ← hu, ← hv]; rfl
  have hrelevant : ∀ g, w.relevant g = s.relevant g := fun g => relevant_congr (fun d => by
    by_cases hd : d = c
    · rw [hd, hone]
    · rw [hcarriers d hd]) (fun p => by rw [hrest]; rfl) g
  refine ⟨by rw [hone, hl], fun g ph => ?_, fun g => ?_, fun g hs => ?_, by rw [hone], hcarriers, hrest⟩
  · by_cases hg : g = e.group
    · subst hg
      refine Eq.trans ?_ ((Group.airing_slot (s.group e.group) e.phase ph e.member c).trans ?_)
      · rw [hrec]; cases ph <;> rfl
      · have htaken : takes [e] e.group ph = fun m => decide (ph = e.phase ∧ m = e.member) :=
          funext fun m => by simp [takes_one]
        rw [htaken]
    · have hnot : ∀ m, takes [e] g ph m = false := fun m => by simp [takes_one, hg]
      rw [hothers g hg]
      simp only [KeySlot.airing_none hnot, Option.map_id']
  · by_cases hg : g = e.group
    · rw [hg, hrec, Group.airing_eq]
    · rw [hothers g hg]
  · by_cases hg : g = e.group
    · rw [hg, hrec]
    · exact startTimeFrom_of_kept (hothers g hg) (hrelevant g) hs

/-- What is copied of a packet does not depend on what has been aired (R119). -/
theorem Airs.copy (h : Airs c b l s t) (e : CarouselEntry) : t.accessCopy e = s.accessCopy e := by
  unfold State.accessCopy
  rw [h.slot]
  cases (s.group e.group).slot e.phase with
  | none => rfl
  | some k =>
    have hbody : ((k.airing c (takes l e.group e.phase)).packets[e.member.val]).map (·.body)
        = k.packets[e.member.val].map (·.body) := by
      rw [KeySlot.airing_packet, Option.map_map]
      refine congrArg (Option.map · _) (funext fun x => ?_)
      rw [Function.comp_apply]
      split <;> rfl
    simp only [Option.map_some, Option.bind_some, hbody]
    rfl

/-- A take of several entries. -/
theorem takeEntries_airs : ∀ (l : List CarouselEntry) (acc : List AccessCopy × State),
    Airs c b l acc.2 (l.foldl (takeEntry c b) acc).2
      ∧ (l.foldl (takeEntry c b) acc).1 = acc.1 ++ l.map acc.2.accessCopy
  | [], acc => ⟨.refl _, by simp⟩
  | e :: l, acc => by
      obtain ⟨hair, hcopies⟩ := takeEntries_airs l (takeEntry c b acc e)
      have hone := takeEntry_airs (c := c) (b := b) acc e
      refine ⟨.cons hone hair, hcopies.trans ?_⟩
      rw [funext hone.copy]
      simp [takeEntry]

end

end Sys2Proof.Machine

namespace Sys2Proof.Settled

open Sys2Proof.Machine

/-- Settles O45: the order by `sortBy_sorted`, the rest by `takeEntries_airs`. -/
theorem carouselTake : Obligations.CarouselTake := by
  intro c b s reserve taken copies t isTaken before
  obtain ⟨hair, hcopies⟩ := takeEntries_airs (c := c) (b := b) taken ([], s)
  have hcopies : copies = taken.map s.accessCopy := hcopies.trans (List.nil_append _)
  have hair : Airs c b taken s t := hair
  refine ⟨?_, ?_, fun x hx k pk hk hpk => ?_, ?_, fun g ph k hk => ?_, hair.group, hair.start, fun g ph hn => ?_,
    hair.carrier, hair.others, hair.rest⟩
  · obtain ⟨rest, hrest⟩ := takeWithin_prefix reserve
      (sortBy s.takesBefore ((s.carrier c).carousel.filter (fun e => decide (e.due ≤ b))))
    refine ⟨rest, hrest ▸ sortBy_perm _ _, ?_, takeWithin_sum _ _, takeWithin_ends _ _ _ hrest⟩
    have hsorted := sortBy_sorted s.takesBefore takesBefore_total takesBefore_trans
      ((s.carrier c).carousel.filter (fun e => decide (e.due ≤ b)))
    rw [← hrest] at hsorted
    refine hsorted.imp fun {x y} hxy => ?_
    refine (takesBefore_iff.1 hxy).imp_right (And.imp_right (Or.imp_right fun ⟨hg, hr⟩ => ⟨hg, ?_⟩))
    obtain ⟨heq, hlt⟩ := phaseRank_iff (s := s) hg
    rcases hr with hr | ⟨hr, hm⟩
    · exact .inr ⟨fun hp => hr.ne (heq.2 hp), hlt hr⟩
    · exact .inl ⟨heq.1 hr, hm⟩
  · rw [hcopies, List.map_map]
    rfl
  · rw [hcopies] at hx
    obtain ⟨e, -, rfl⟩ := List.mem_map.1 hx
    have hk : (s.group e.group).slot e.phase = some k := hk
    have hpk : k.packets[e.member.val] = some pk := hpk
    simp [State.accessCopy, hk, hpk]
  · exact hair.list
  · rw [hair.slot, hk]
    rfl
  · rw [hair.slot, hn]
    rfl

end Sys2Proof.Settled

/-! SUPPORT. What keeps the group records as promised (R76 to R109): changes that leave the groups and their relevant
carriers alone, and changes of a group's packets, roles and plan. -/

namespace Sys2Proof.Machine

/-! ### The promises kept -/

/-- From `s` to `t` every promise that a group record met is met. -/
structure GroupsKept (s t : State) : Prop where
  fits : ∀ g, (s.group g).fits → (t.group g).fits
  starts : ∀ g, s.startFits g → t.startFits g

theorem GroupsKept.refl (s : State) : GroupsKept s s := ⟨fun _ h => h, fun _ h => h⟩

theorem GroupsKept.trans (s t u : State) (h : GroupsKept s t) (h' : GroupsKept t u) : GroupsKept s u :=
  ⟨fun g hg => h'.fits g (h.fits g hg), fun g hg => h'.starts g (h.starts g hg)⟩

theorem GroupsKept.foldl {α : Type} {f : State → α → State} (h : ∀ s a, GroupsKept s (f s a)) (l : List α) (s : State) :
    GroupsKept s (l.foldl f s) := foldl_rel GroupsKept .refl .trans f h l s

/-- What is done or not done keeps what doing it keeps. -/
theorem GroupsKept.ite {s t : State} (b : Prop) [Decidable b] (f : State → State) (h : GroupsKept s t)
    (hf : ∀ u, GroupsKept u (f u)) : GroupsKept s (if b then f t else t) := by
  split
  · exact .trans _ _ _ h (hf t)
  · exact h

theorem GroupsKept.of_state {s t : State} (h : t = s) : GroupsKept s t := h ▸ .refl s

/-! ### The groups and their relevant carriers stay -/

/-- A programme that is LIVE or RESYNC stays so, with its definition, and no other becomes so. -/
structure Programme.Stays (k k' : Programme) : Prop where
  serving : k'.serving = k.serving
  definition : k.serving = true → k'.definition = k.definition

theorem Programme.Stays.refl (k : Programme) : k.Stays k := ⟨rfl, fun _ => rfl⟩

theorem Programme.Stays.trans {k l m : Programme} (h : k.Stays l) (h' : l.Stays m) : k.Stays m where
  serving := h'.serving.trans h.serving
  definition hk := (h'.definition (h.serving.trans hk)).trans (h.definition hk)

/-- From `s` to `t` no group has changed, nor which carriers are relevant to one (R77). -/
structure Aside (s t : State) : Prop where
  group : ∀ g, t.group g = s.group g
  carrier : ∀ c, (t.carrier c).state = .onAir ↔ (s.carrier c).state = .onAir
  programme : ∀ p, (s.programme p).Stays (t.programme p)

section
variable {s t : State}

theorem Aside.refl (s : State) : Aside s s := ⟨fun _ => rfl, fun _ => Iff.rfl, fun _ => .refl _⟩

theorem Aside.trans (s t u : State) (h : Aside s t) (h' : Aside t u) : Aside s u where
  group g := (h'.group g).trans (h.group g)
  carrier c := (h'.carrier c).trans (h.carrier c)
  programme p := (h.programme p).trans (h'.programme p)

theorem Aside.foldl {α : Type} {f : State → α → State} (h : ∀ s a, Aside s (f s a)) (l : List α) (s : State) :
    Aside s (l.foldl f s) := foldl_rel Aside .refl .trans f h l s

/-- What is done or not done leaves alone what doing it leaves alone. -/
theorem Aside.ite (b : Prop) [Decidable b] (f : State → State) (h : Aside s t) (hf : ∀ u, Aside u (f u)) :
    Aside s (if b then f t else t) := by
  split
  · exact .trans _ _ _ h (hf t)
  · exact h

theorem Aside.of_eq (hg : t.groups = s.groups) (hc : t.carriers = s.carriers) (hp : t.programmes = s.programmes) :
    Aside s t where
  group g := congrArg (·[g.val]) hg
  carrier c := by rw [show t.carrier c = s.carrier c from congrArg (·[c.val]) hc]
  programme p := by rw [show t.programme p = s.programme p from congrArg (·[p.val]) hp]; exact .refl _

theorem AccessOnly.aside : AccessOnly s t → Aside s t := by
  rintro ⟨_, rfl⟩; exact .of_eq rfl rfl rfl

theorem Aside.setCarrier {c : CarrierNo} {k : Carrier} (h : k.state = .onAir ↔ (s.carrier c).state = .onAir) :
    Aside s (s.setCarrier c k) where
  group _ := rfl
  carrier d := by
    rw [State.setCarrier_carrier]
    split
    · next hd => rw [hd]; exact h
    · exact Iff.rfl
  programme _ := .refl _

theorem Aside.setProgramme {p : ProgrammeNo} {k : Programme} (h : (s.programme p).Stays k) :
    Aside s (s.setProgramme p k) where
  group _ := rfl
  carrier _ := Iff.rfl
  programme q := by
    rw [State.setProgramme_programme]
    split
    · next hq => rw [hq]; exact h
    · exact .refl _

/-- A programme that is LIVE or RESYNC is not UNUSED. -/
theorem Programme.serving_used {k : Programme} (h : k.serving = true) : k.state ≠ .unused := fun hu => by
  rw [Programme.serving, hu] at h
  cases h

/-- A programme that is LIVE or RESYNC and names the carrier and the group makes the carrier carry the group (R77). -/
def Programme.carries (k : Programme) (c : CarrierNo) (g : GroupNo) : Bool :=
  k.serving && k.names c && k.group == some g

theorem Programme.Stays.carries {k k' : Programme} (h : k.Stays k') (c : CarrierNo) (g : GroupNo) :
    k'.carries c g = k.carries c g := by
  unfold Programme.carries
  cases hk : k.serving with
  | false => rw [h.serving, hk]; rfl
  | true =>
    have hk' := h.serving.trans hk
    have hn : (k.state != .unused) = true := bne_iff_ne.2 (Programme.serving_used hk)
    have hn' : (k'.state != .unused) = true := bne_iff_ne.2 (Programme.serving_used hk')
    unfold Programme.names Programme.group
    rw [hk', hn, hn', h.definition hk]

/-- The relevant set of a group rests on which carriers are ON_AIR and which programmes carry the group (R77). -/
theorem relevant_of_carries {g : GroupNo} (hc : ∀ c, (t.carrier c).state = .onAir ↔ (s.carrier c).state = .onAir)
    (hp : ∀ p c, (t.programme p).carries c g = (s.programme p).carries c g) : t.relevant g = s.relevant g := by
  have hair : ∀ c, ((t.carrier c).state == .onAir) = ((s.carrier c).state == .onAir) := fun c =>
    Bool.eq_iff_iff.2 (by rw [beq_iff_eq, beq_iff_eq]; exact hc c)
  have hcarries : ∀ c, t.carriesGroup c g = s.carriesGroup c g := fun c =>
    congrArg (List.finRange 48).any (funext fun p => hp p c)
  unfold State.relevant
  simp only [hcarries, hair]

theorem Aside.relevant (h : Aside s t) (g : GroupNo) : t.relevant g = s.relevant g :=
  relevant_of_carries h.carrier fun p c => (h.programme p).carries c g

/-- A group left alone, its relevant set too, keeps its promises. -/
theorem startFits_congr {g : GroupNo} (hg : t.group g = s.group g) (hr : t.relevant g = s.relevant g)
    (h : s.startFits g) : t.startFits g := by
  have hslot : t.slotState g .a = s.slotState g .a := slotState_congr (by rw [hg]) (by rw [hg]) (by rw [hg]) hr
  unfold State.startFits
  rw [hg, hslot]
  exact h

theorem Aside.groupsKept (h : Aside s t) : GroupsKept s t where
  fits g hg := by rw [h.group]; exact hg
  starts g := startFits_congr (h.group g) (h.relevant g)

theorem setGroupAlert_groupsKept (s : State) (g : GroupNo) (v : Bool) : GroupsKept s (s.setGroupAlert g v) :=
  Aside.groupsKept (.of_eq rfl rfl rfl)

theorem setCarrierAlert_groupsKept (s : State) (c : CarrierNo) (v : Bool) : GroupsKept s (s.setCarrierAlert c v) :=
  Aside.groupsKept (.of_eq rfl rfl rfl)

theorem managerCause_groupsKept (s : State) (k : ManagerCondition) : GroupsKept s (s.managerCause k) :=
  Aside.groupsKept (.of_eq rfl rfl rfl)

/-- One group written over, nothing else that the promises rest on. -/
theorem GroupsKept.of_one {g : GroupNo} (hothers : ∀ x, x ≠ g → t.group x = s.group x)
    (hr : ∀ x, t.relevant x = s.relevant x) (hfits : (s.group g).fits → (t.group g).fits)
    (hstart : s.startFits g → t.startFits g) : GroupsKept s t where
  fits x hx := by
    by_cases h : x = g
    · subst h; exact hfits hx
    · rw [hothers x h]; exact hx
  starts x hx := by
    by_cases h : x = g
    · subst h; exact hstart hx
    · exact startFits_congr (hothers x h) (hr x) hx

end

/-! ### What a group record promises, part by part -/

/-- The serial and the key of a slot. -/
def KeySlot.name (k : KeySlot) : Serial × Key := (k.serial, k.key)

section
variable {grp grp' : Group}

/-- What the slots promise rests on their serials and keys. -/
theorem Group.keysFit_iff : grp.keysFit ↔
    (grp.active.isSome ↔ grp.state.keyed = true)
      ∧ (∀ ph, grp.active = some ph → ((grp.slot ph).map KeySlot.name).isSome)
      ∧ (grp.state = .free ∨ grp.state = .planning → ∀ ph, (grp.slot ph).map KeySlot.name = none)
      ∧ (grp.state = .starting →
          (∃ key, (grp.slot .a).map KeySlot.name = some (0, key)) ∧ (grp.slot .b).map KeySlot.name = none)
      ∧ (∀ ph x y, grp.active = some ph → (grp.slot ph).map KeySlot.name = some x →
          (grp.slot ph.other).map KeySlot.name = some y → y.1 = x.1 + 1 ∧ y.2 ≠ x.2) := by
  unfold Group.keysFit
  refine and_congr_right fun _ => and_congr (by simp) (and_congr ?_ (and_congr ?_ ?_))
  · refine imp_congr_right fun _ => ⟨fun h ph => ?_, fun h => ⟨?_, ?_⟩⟩
    · rw [Option.map_eq_none_iff]
      cases ph
      · exact h.1
      · exact h.2
    · exact Option.map_eq_none_iff.1 (h .a)
    · exact Option.map_eq_none_iff.1 (h .b)
  · refine imp_congr_right fun _ => and_congr ⟨?_, ?_⟩ Option.map_eq_none_iff.symm
    · rintro ⟨k, hk, h0⟩
      exact ⟨k.key, Option.map_eq_some_iff.2 ⟨k, hk, by rw [KeySlot.name, h0]⟩⟩
    · rintro ⟨key, h⟩
      obtain ⟨k, hk, hname⟩ := Option.map_eq_some_iff.1 h
      exact ⟨k, hk, congrArg Prod.fst hname⟩
  · refine ⟨fun h ph x y ha hx hy => ?_, fun h ph k q ha hk hq => ?_⟩
    · obtain ⟨k, hk, rfl⟩ := Option.map_eq_some_iff.1 hx
      obtain ⟨q, hq, rfl⟩ := Option.map_eq_some_iff.1 hy
      exact h ph k q ha hk hq
    · exact h ph k.name q.name ha (by rw [hk]; rfl) (by rw [hq]; rfl)

theorem Group.keysFit_of (hst : grp'.state = grp.state) (ha : grp'.active = grp.active)
    (hs : ∀ ph, (grp'.slot ph).map KeySlot.name = (grp.slot ph).map KeySlot.name) (h : grp.keysFit) :
    grp'.keysFit := by
  rw [Group.keysFit_iff] at h ⊢
  simpa only [hst, ha, hs] using h

theorem Group.extensionsFit_of (hd : grp'.definition = grp.definition) (hst : grp'.state = grp.state)
    (he : grp'.extensions = grp.extensions) (h : grp.extensionsFit) : grp'.extensionsFit := by
  unfold Group.extensionsFit at h ⊢
  rwa [hd, hst, he]

theorem Group.plansFit_of (hp : grp'.plan = grp.plan) (ha : grp'.applied = grp.applied) (hst : grp'.state = grp.state)
    (h : grp.plansFit) : grp'.plansFit := by
  unfold Group.plansFit at h ⊢
  rwa [hp, ha, hst]

theorem Group.rolesFit_of (hd : grp'.definition = grp.definition) (hr : grp'.roles = grp.roles) (h : grp.rolesFit) :
    grp'.rolesFit := by
  unfold Group.rolesFit at h ⊢
  rwa [hd, hr]

/-- The group's record has changed in packets and start time alone, and each packet there is of a member that is JOINING
or JOINED or was there before. -/
structure Group.Restored (grp grp' : Group) : Prop where
  rest : grp' = { grp with slotA := grp'.slotA, slotB := grp'.slotB, startTime := grp'.startTime }
  slot : ∀ ph, (grp'.slot ph).map KeySlot.name = (grp.slot ph).map KeySlot.name
  packets : ∀ ph k', grp'.slot ph = some k' → ∀ p : PortNo, k'.packets[p.val].isSome →
    (grp.roles[p.val]).active = true ∨ ∃ k, grp.slot ph = some k ∧ k.packets[p.val].isSome

theorem Group.Restored.fits (h : grp.Restored grp') (hg : grp.fits) : grp'.fits := by
  obtain ⟨hext, hplans, hpackets, hkeys, hroles⟩ := hg
  have hr := h.rest
  have hrole : grp'.roles = grp.roles := by rw [hr]
  refine ⟨Group.extensionsFit_of (by rw [hr]) (by rw [hr]) (by rw [hr]) hext,
    Group.plansFit_of (by rw [hr]) (by rw [hr]) (by rw [hr]) hplans, fun ph k' hk' p hp => ?_,
    Group.keysFit_of (by rw [hr]) (by rw [hr]) h.slot hkeys, Group.rolesFit_of (by rw [hr]) hrole hroles⟩
  rw [hrole]
  rcases h.packets ph k' hk' p hp with hact | ⟨k, hk, hkp⟩
  · exact hact
  · exact hpackets ph k hk p hkp

theorem Group.Restored.of_slots {f : KeySlot → KeySlot}
    (hr : grp' = { grp with slotA := grp'.slotA, slotB := grp'.slotB, startTime := grp'.startTime })
    (hs : ∀ ph, grp'.slot ph = (grp.slot ph).map f) (hf : ∀ k, (f k).name = k.name)
    (hp : ∀ k (p : PortNo), (f k).packets[p.val].isSome → k.packets[p.val].isSome) : grp.Restored grp' where
  rest := hr
  slot ph := by
    rw [hs, Option.map_map]
    exact congrArg (Option.map · _) (funext hf)
  packets ph k' hk' p hkp := by
    rw [hs, Option.map_eq_some_iff] at hk'
    obtain ⟨k, hk, rfl⟩ := hk'
    exact .inr ⟨k, hk, hp k p hkp⟩

theorem Group.fits_startTime {x : Option Time} (h : grp.fits) : ({ grp with startTime := x } : Group).fits := by
  refine Group.Restored.fits (grp := grp) (.of_slots (f := id) rfl (fun ph => ?_) (fun _ => rfl) fun _ _ h => h) h
  cases ph <;> exact Option.map_id'.symm

end

/-! ### Recomputations (R77, R84) -/

section
variable {s t : State}

theorem recompute_fits {g x : GroupNo} (h : (s.group x).fits) : ((s.recompute g).group x).fits := by
  by_cases hx : x = g
  · subst hx
    rw [recompute_group_self]
    exact Group.fits_startTime h
  · rwa [recompute_group_ne _ hx]

theorem recompute_startFits (s : State) (g : GroupNo) : (s.recompute g).startFits g :=
  startFits_of_eq (s := s) (by rw [recompute_group_self])
    (congrArg Group.startTime (recompute_startTimeFrom (s := s) (u := s) rfl rfl rfl))

theorem recompute_relevant (s : State) (g x : GroupNo) : (s.recompute g).relevant x = s.relevant x := by
  obtain ⟨gs, h⟩ := recompute_shape s g
  rw [h]; rfl

theorem recompute_groupsKept (s : State) (g : GroupNo) : GroupsKept s (s.recompute g) :=
  .of_one (g := g) (fun _ => recompute_group_ne s) (recompute_relevant s g) recompute_fits
    fun _ => recompute_startFits s g

theorem recomputeAll_startFits (s : State) (g : GroupNo) : s.recomputeAll.startFits g :=
  have hgroup := recomputeAll_group (s := s) (u := s) (g := g) rfl rfl rfl
  startFits_of_eq (s := s) (by rw [hgroup]) (congrArg Group.startTime hgroup)

/-- Where every group has been recomputed, only the records' own promises are left to see to. -/
theorem GroupsKept.recomputeAll (h : ∀ g, (s.group g).fits → (t.group g).fits) : GroupsKept s t.recomputeAll where
  fits g hg := by
    have hkept : GroupsKept t t.recomputeAll := .foldl recompute_groupsKept _ t
    exact hkept.fits g (h g hg)
  starts g _ := recomputeAll_startFits t g

end

end Sys2Proof.Machine

/-! SUPPORT. Roles, resolutions, agreements and the key schedule keep what the group records promise (R76 to R109). -/

namespace Sys2Proof.Machine

/-! ### Roles (R76, R78) -/

/-- A definition's roster names the port. -/
def Group.onRoster (grp : Group) (p : PortNo) : Prop := ∃ d, grp.definition = some d ∧ hasItem d.roster p = true

theorem Group.onRoster_iff {grp : Group} {d : GroupDef} (h : grp.definition = some d) {p : PortNo} :
    grp.onRoster p ↔ hasItem d.roster p = true :=
  ⟨fun ⟨_, hd, hp⟩ => Option.some.inj (h.symm.trans hd) ▸ hp, fun hp => ⟨d, h, hp⟩⟩

section
variable {grp : Group} {f : PortNo → Role} {l : List PortNo}

/-- Packets go with the members they are for: what a role change leaves is packets of members (R78). -/
theorem Group.recast_packetsOfMembers (h : grp.packetsOfMembers) : (grp.recast f l).packetsOfMembers := by
  intro ph k' hk' p hp
  rw [Group.recast_slot, Option.map_eq_some_iff] at hk'
  obtain ⟨k, hk, rfl⟩ := hk'
  have hpacket : (k.dropping (grp.leaves f l)).packets[p.val] = if grp.leaves f l p then none else k.packets[p.val] :=
    Vector.getElem_ofFn _
  rw [hpacket] at hp
  rw [Group.recast_role]
  cases hl : grp.leaves f l p with
  | true => simp [hl] at hp
  | false =>
    rw [hl] at hp
    have hact := h ph k hk p hp
    unfold Group.leaves at hl
    by_cases hmem : p ∈ l
    · simpa [hmem, hact] using hl
    · rwa [if_neg hmem]

theorem Group.recast_name (ph : Phase) :
    ((grp.recast f l).slot ph).map KeySlot.name = (grp.slot ph).map KeySlot.name := by
  rw [Group.recast_slot, Option.map_map]
  rfl

/-- Roles that name the roster's members as members keep what the record promises. -/
theorem Group.recast_fits (hf : ∀ p ∈ l, f p = .notMember ↔ ¬ grp.onRoster p) (h : grp.fits) :
    (grp.recast f l).fits := by
  obtain ⟨hext, hplans, hpackets, hkeys, hroles⟩ := h
  refine ⟨hext, hplans, Group.recast_packetsOfMembers hpackets,
    Group.keysFit_of (grp := grp) rfl rfl (fun _ => Group.recast_name _) hkeys, fun p => ?_⟩
  rw [Group.recast_role]
  split
  · next hp => exact hf p hp
  · exact hroles p

end

section
variable {s : State} {g : GroupNo} {p : PortNo} {r : Role}

theorem setRole_groupsKept (h : (s.group g).fits → (r = .notMember ↔ ¬ (s.group g).onRoster p)) :
    GroupsKept s (s.setRole g p r) := by
  have hcast := setRole_recast s g p fun _ => r
  refine .of_one hcast.others hcast.relevant (fun hg => ?_) fun _ =>
    startFits_of_eq hcast.state (setRole_startTime s g p r)
  rw [hcast.group]
  exact Group.fits_startTime (Group.recast_fits (fun q hq => by rw [List.mem_singleton.1 hq]; exact h hg) hg)

end

/-! ### Resolutions (R103 to R106) -/

theorem compatibleSet_onRoster {s : State} {d : GroupDef} {p : PortNo} (h : p ∈ s.compatibleSet d) :
    hasItem d.roster p = true := by
  have walk : ∀ (l set : List PortNo), (∀ q ∈ set, hasItem d.roster q = true) →
      (∀ q ∈ l, hasItem d.roster q = true) → ∀ q ∈ l.foldl (s.walkStep d) set, hasItem d.roster q = true := by
    intro l
    induction l with
    | nil => exact fun _ hset _ => hset
    | cons x l ih =>
      intro set hset hl
      refine ih _ (fun q hq => ?_) fun q hq => hl q (List.mem_cons_of_mem x hq)
      unfold State.walkStep at hq
      split at hq
      · exact hset q hq
      · rcases List.mem_append.1 hq with hq | hq
        · exact hset q hq
        · rw [List.mem_singleton.1 hq]
          exact hl x List.mem_cons_self
  exact walk _ [] nofun (fun q hq => (List.mem_filter.1 hq).2) p h

/-- A resolution makes NOT_MEMBER the ports off the roster, and those alone (R105). -/
theorem newRole_notMember {s : State} {g : GroupNo} {d : GroupDef} {p : PortNo} :
    s.newRole g d p = .notMember ↔ ¬ hasItem d.roster p = true := by
  rw [newRole_eq]
  by_cases hset : p ∈ s.compatibleSet d
  · rw [if_pos hset]
    refine iff_of_false ?_ (not_not.2 (compatibleSet_onRoster hset))
    split <;> decide
  · rw [if_neg hset]
    by_cases hr : hasItem d.roster p = true
    · rw [if_pos hr]
      refine iff_of_false ?_ (not_not.2 hr)
      split <;> decide
    · rw [if_neg hr]
      exact iff_of_true rfl hr

/-- A plan that a resolution chooses has a period of at least its lead time plus 2 s (R104). -/
theorem chosen_fits {s : State} {d : GroupDef} {c : Plan} (h : s.chosen d = some c) : c.fits := by
  unfold State.chosen State.chosenPlan at h
  split at h
  · cases h
  · obtain ⟨l, hl, rfl⟩ := Option.map_eq_some_iff.1 h
    have hmem := List.mem_filter.1 (List.mem_of_mem_head? hl)
    simp only [Bool.and_eq_true, decide_eq_true_eq] at hmem
    exact hmem.2.2

theorem Group.fits_plan {grp : Group} {pl : PlanRecord} (h : grp.fits)
    (hp : ({ grp with plan := pl } : Group).plansFit) :
    ({ grp with plan := pl } : Group).fits := by
  obtain ⟨hext, -, hpackets, hkeys, hroles⟩ := h
  exact ⟨hext, hp, hpackets, hkeys, hroles⟩

/-- The plan record of a resolution promises what the plan record did (R102, R106). -/
theorem Group.resolved_plansFit {grp : Group} {chosen : Option Plan} {attached : Bool} (h : grp.plansFit)
    (hc : ∀ c, chosen = some c → c.fits) :
    ({ grp with plan := grp.plan.resolved chosen attached } : Group).plansFit := by
  obtain ⟨hagreed, hproposed, happlied, hstatus, hstate, hkeyed⟩ := h
  suffices hpl : (∀ p, (grp.plan.resolved chosen attached).proposed = some p → p.fits)
      ∧ ((grp.plan.resolved chosen attached).proposed.isSome
        ↔ (grp.plan.resolved chosen attached).status = .proposed) by
    obtain ⟨hfits, hst⟩ := hpl
    refine ⟨fun p hp => hagreed p ?_, hfits, happlied, hst, ?_, hkeyed⟩
    · rwa [PlanRecord.resolved_agreed] at hp
    · dsimp only
      rwa [PlanRecord.resolved_agreed]
  cases chosen with
  | none =>
    cases attached with
    | true =>
      rw [PlanRecord.resolved_fault rfl]
      exact ⟨nofun, iff_of_false nofun nofun⟩
    | false =>
      rw [PlanRecord.resolved_alone rfl]
      exact ⟨hproposed, hstatus⟩
  | some c =>
    have hn : some c ≠ none := Option.some_ne_none c
    by_cases hsame : grp.plan.agreed = some c
    · rw [PlanRecord.resolved_same hn hsame]
      by_cases hst : grp.plan.status = .proposed
      · simp only [if_pos hst]
        exact ⟨nofun, iff_of_false nofun nofun⟩
      · simp only [if_neg hst]
        exact ⟨hproposed, iff_of_false (mt hstatus.1 hst) nofun⟩
    · rw [PlanRecord.resolved_other hn fun h => hsame h.2]
      exact ⟨hc, iff_of_true rfl rfl⟩

theorem resolve_groupsKept (s : State) (g : GroupNo) : GroupsKept s (s.resolve g) := by
  cases hd : (s.group g).definition with
  | none =>
    refine .of_state ?_
    unfold State.resolve
    dsimp only
    rw [hd]
  | some d =>
    by_cases hst : (s.group g).state = .free
    · refine .of_state ?_
      unfold State.resolve
      dsimp only
      rw [hd]
      exact if_pos hst
    · obtain ⟨hself, hstart, hothers, hcarrier, -, hrest⟩ := resolve_spec hd hst
      have hrelevant := relevant_congr (s := s) (t := s.resolve g) (fun c => by rw [hcarrier]) fun p => by
        rw [hrest]; rfl
      refine .of_one hothers hrelevant (fun hg => ?_) fun hs => startFits_of_eq (by rw [hself]; rfl) (hstart hs)
      have hcast : ((s.group g).recast (s.newRole g d) (List.finRange 4)).fits :=
        Group.recast_fits (fun p _ => by rw [Group.onRoster_iff hd, newRole_notMember]) hg
      have ⟨_, hplans, _⟩ := hcast
      rw [hself]
      exact Group.fits_startTime (Group.fits_plan hcast (Group.resolved_plansFit hplans fun c => chosen_fits))

theorem resolveFor_groupsKept (s : State) (p : PortNo) : GroupsKept s (s.resolveFor p) :=
  .foldl (fun t g => by
    split
    · exact resolve_groupsKept t g
    · exact .refl t) _ s

/-! ### Ports leaving (R99, R101) -/

theorem rosterNames_onRoster {s : State} {g : GroupNo} {p : PortNo} (h : s.rosterNames g p = true) :
    (s.group g).onRoster p := (rosterNames_iff.1 h).2

theorem leaveGroups_groupsKept (s : State) (p : PortNo) : GroupsKept s (s.leaveGroups p) :=
  .foldl (fun t g => by
    split
    · next h => exact setRole_groupsKept fun _ => iff_of_false nofun (not_not.2 (rosterNames_onRoster h))
    · exact .refl t) _ s

theorem setPort_aside (s : State) (p : PortNo) (k : AccessPort) : Aside s (s.setPort p k) := .of_eq rfl rfl rfl

theorem leaveOrder_aside (s : State) (p : PortNo) (k : AccessPort) (order : List PortNo) :
    Aside s { s.setPort p k with attachOrder := order } := .of_eq rfl rfl rfl

theorem detachPort_groupsKept (s : State) (p : PortNo) : GroupsKept s (s.detachPort p) := by
  unfold State.detachPort
  dsimp only
  refine .trans _ _ _ ?_ (resolveFor_groupsKept _ p)
  refine .trans _ _ _ ?_ (setPort_aside _ p _).groupsKept
  exact .trans _ _ _ (leaveOrder_aside s p _ _).groupsKept (leaveGroups_groupsKept _ p)

theorem attach_groupsKept (s : State) (o : Offer) (p : PortNo) : GroupsKept s (attach o p s).1 := by
  unfold attach
  dsimp only
  split
  · exact .refl s
  · dsimp only
    refine .trans _ _ _ ?_ (resolveFor_groupsKept _ p)
    split
    · exact (leaveOrder_aside s p _ _).groupsKept
    · exact (setPort_aside s p _).groupsKept

/-! ### The agreement (R84, R108, R109) -/

/-- A slot in which no packet is stored is not AIRED while some member is JOINED (R77). -/
theorem not_aired_of_fresh {s : State} {g : GroupNo} {p : PortNo} {serial : Serial} {key : Key}
    (h : (s.group g).roles[p.val] = .joined) (hk : (s.group g).slotA = some (KeySlot.fresh serial key)) :
    s.slotState g .a ≠ .aired := fun ha => by
  obtain ⟨-, k, hslot, hcov, -⟩ := slotState_aired_iff.1 ha
  obtain rfl : KeySlot.fresh serial key = k := Option.some.inj (hk.symm.trans hslot)
  exact (Group.covered_iff.1 hcov).2 p h (Vector.getElem_replicate _)

section
variable {grp : Group} {p : PortNo} {key : Key}

theorem Group.joined_fits (h : grp.fits) (hp : grp.roles[p.val] = .joining) :
    ({ grp with roles := grp.roles.set p.val .joined } : Group).fits := by
  obtain ⟨hext, hplans, hpackets, hkeys, hroles⟩ := h
  have hrole : ∀ q : PortNo, (grp.roles.set p.val .joined)[q.val] = if q = p then .joined else grp.roles[q.val] := by
    intro q
    simp only [Vector.getElem_set, Fin.ext_iff, eq_comm]
  refine ⟨hext, hplans, fun ph k hk q hq => ?_, hkeys, fun q => ?_⟩
  · have hact := hpackets ph k (by cases ph <;> exact hk) q hq
    rw [hrole]
    split
    · rfl
    · exact hact
  · rw [hrole]
    split
    · next hq =>
      rw [hq]
      refine iff_of_false nofun fun hoff => ?_
      have hout := (hroles p).2 hoff
      rw [hp] at hout
      cases hout
    · exact hroles q

/-- A group with a member is not FREE. -/
theorem Group.not_free_of_joining (h : grp.fits) (hp : grp.roles[p.val] = .joining) : grp.state ≠ .free := by
  intro hfree
  obtain ⟨hext, -, -, -, hroles⟩ := h
  have hon : ∃ d, grp.definition = some d ∧ hasItem d.roster p = true := by
    by_contra hoff
    have hout := (hroles p).2 hoff
    rw [hp] at hout
    cases hout
  obtain ⟨d, hd, -⟩ := hon
  rw [Group.extensionsFit, hd] at hext
  exact hext.1 hfree

/-- The plans of a group that leaves PLANNING, or had left it, by an agreement. -/
theorem Group.agreedTo_plansFit {next : GroupState} (h : grp.plansFit) (hs : grp.plan.status = .proposed)
    (hfree : next ≠ .free) (hplanning : next ≠ .planning) (hk : next.keyed = grp.state.keyed) :
    ({ grp with plan := grp.plan.agreedTo, state := next } : Group).plansFit := by
  obtain ⟨-, hproposed, happlied, hstatus, -, hkeyed⟩ := h
  refine ⟨hproposed, nofun, happlied, iff_of_false nofun nofun, iff_of_true (hstatus.2 hs) ⟨hfree, hplanning⟩, ?_⟩
  dsimp only
  rw [hk]
  exact hkeyed

/-- The first agreement: the group holds its first key, in slot A, and no other (R84). -/
theorem Group.begun_fits (h : grp.fits) (hs : grp.plan.status = .proposed) (hst : grp.state = .planning) :
    ({ grp with plan := grp.plan.agreedTo, state := .starting, slotA := some (KeySlot.fresh 0 key) } : Group).fits := by
  obtain ⟨hext, hplans, hpackets, ⟨hactive, -, hnone, -, -⟩, hroles⟩ := h
  obtain ⟨hA, hB⟩ := hnone (.inr hst)
  have hidle : grp.active = none := by
    rw [← Option.not_isSome_iff_eq_none, hactive, hst]
    decide
  refine ⟨?_, Group.agreedTo_plansFit hplans hs nofun nofun (by rw [hst]; rfl), ?_, ⟨?_, ?_, ?_, ?_, ?_⟩, hroles⟩
  · unfold Group.extensionsFit at hext ⊢
    cases hd : grp.definition with
    | none => rw [hd, hst] at hext; cases hext.1
    | some d =>
      rw [hd, hst] at hext
      obtain ⟨-, hlimit, hle, hfrozen, hzero⟩ := hext
      exact ⟨nofun, hlimit, hle, iff_of_false nofun (mt hfrozen.2 nofun), fun _ _ => hzero nofun nofun⟩
  · intro ph k hk p hp
    cases ph with
    | a =>
      obtain rfl : KeySlot.fresh 0 key = k := Option.some.inj hk
      have hno : (KeySlot.fresh 0 key).packets[p.val] = none := Vector.getElem_replicate _
      rw [hno] at hp
      cases hp
    | b => exact hpackets .b k hk p hp
  · exact iff_of_false (by dsimp only; rw [hidle]; decide) Bool.false_ne_true
  · exact fun ph ha => by rw [hidle] at ha; cases ha
  · rintro (h | h) <;> cases h
  · exact fun _ => ⟨⟨_, rfl, rfl⟩, hB⟩
  · exact fun ph k q ha => by rw [hidle] at ha; cases ha

/-- An agreement's record promises what the record did. -/
theorem Group.agreed_fits (h : grp.fits) (hp : grp.roles[p.val] = .joining) :
    ({ grp with
        roles := grp.roles.set p.val .joined
        plan := if grp.completes p then grp.plan.agreedTo else grp.plan
        state := if grp.begins p then .starting else grp.state
        slotA := if grp.begins p then some (KeySlot.fresh 0 key) else grp.slotA } : Group).fits := by
  have hjoined := Group.joined_fits h hp
  by_cases hc : grp.completes p
  · by_cases hst : grp.state = .planning
    · have hb : grp.begins p := ⟨hc, hst⟩
      simp only [if_pos hc, if_pos hb]
      exact Group.begun_fits hjoined hc.1 hst
    · have hb : ¬ grp.begins p := fun hb => hst hb.2
      simp only [if_pos hc, if_neg hb]
      have ⟨_, hplans, _⟩ := hjoined
      have hfree := Group.not_free_of_joining h hp
      exact Group.fits_plan hjoined (Group.agreedTo_plansFit hplans hc.1 hfree hst rfl)
  · have hb : ¬ grp.begins p := fun hb => hc hb.1
    simp only [if_neg hc, if_neg hb]
    exact hjoined

end

theorem join_groupsKept {s : State} {g : GroupNo} {p : PortNo} (h : (s.group g).roles[p.val] = .joining) :
    GroupsKept s (s.join g p) := by
  obtain ⟨key, n, hself, hothers, -, hrest⟩ := join_spec h
  have hrelevant := relevant_congr (s := s) (t := s.join g p) (fun c => by rw [hrest]; rfl) fun p => by rw [hrest]; rfl
  refine .of_one hothers hrelevant (fun hg => ?_) fun _ => ?_
  · rw [hself]
    exact Group.fits_startTime (Group.agreed_fits hg h)
  · by_cases hb : (s.group g).begins p
    · have hnot : (s.join g p).slotState g .a ≠ .aired :=
        not_aired_of_fresh (p := p) (serial := 0) (key := key) (by rw [hself]; exact Vector.getElem_set_self _)
          (by rw [hself]; exact if_pos hb)
      refine fun _ => iff_of_false (not_not.2 ?_) hnot
      rw [hself]
      exact if_pos hb
    · refine startFits_of_eq (s := s) (by rw [hself]; exact if_neg hb) ?_
      conv_lhs => rw [hself]
      exact if_neg hb

end Sys2Proof.Machine

/-! SUPPORT. The key schedule and the manager's group orders keep what the group records promise (R79 to R94). -/

namespace Sys2Proof.Machine

/-! ### A group written over and recomputed -/

section
variable {s t u : State} {g : GroupNo}

/-- A group recomputed last has the start time it should have. -/
theorem GroupsKept.recomputed (hothers : ∀ x, x ≠ g → u.group x = s.group x)
    (hr : ∀ x, x ≠ g → u.relevant x = s.relevant x) (hfits : (s.group g).fits → (u.group g).fits)
    (ht : Aside (u.recompute g) t) : GroupsKept s t := by
  refine .trans _ (u.recompute g) _ ⟨fun x hx => ?_, fun x hx => ?_⟩ ht.groupsKept
  · by_cases h : x = g
    · subst h; exact recompute_fits (hfits hx)
    · exact recompute_fits (hothers x h ▸ hx)
  · by_cases h : x = g
    · subst h; exact recompute_startFits u x
    · exact (recompute_groupsKept u g).starts x (startFits_congr (hothers x h) (hr x h) hx)

/-- A group written over that is not STARTING has no start time to promise (R77, R84). -/
theorem GroupsKept.setGroup {k : Group} (hk : k.state ≠ .starting) (hfits : (s.group g).fits → k.fits) :
    GroupsKept s (s.setGroup g k) :=
  .of_one (fun _ hx => State.setGroup_ne _ _ _ _ hx) (relevant_congr (fun _ => rfl) fun _ => rfl)
    (fun h => by rw [State.setGroup_self]; exact hfits h) fun _ h => by rw [State.setGroup_self] at h; exact absurd h hk

theorem keepEntries_aside (s : State) (keep : CarouselEntry → Bool) : Aside s (s.keepEntries keep) where
  group _ := rfl
  carrier c := by rw [keepEntries_carrier]
  programme _ := .refl _

end

/-! ### Slots written over -/

section
variable {grp : Group} {ph : Phase} {k : KeySlot}

/-- A group in use of a key holds it. -/
theorem Group.fits_keyed (h : grp.fits) (hst : grp.state.keyed = true) :
    ∃ ph k, grp.active = some ph ∧ grp.slot ph = some k := by
  obtain ⟨-, -, -, ⟨hactive, hslot, -⟩, -⟩ := h
  obtain ⟨ph, ha⟩ := Option.isSome_iff_exists.1 (hactive.2 hst)
  obtain ⟨k, hk⟩ := Option.isSome_iff_exists.1 (hslot ph ha)
  exact ⟨ph, k, ha, hk⟩

theorem GroupState.keyed_cases {st : GroupState} (h : st.keyed = true) :
    st ≠ .free ∧ st ≠ .planning ∧ st ≠ .starting := by
  cases st <;> simp_all [GroupState.keyed]

/-- A pending key drawn under the serial that follows the one in use (R79). -/
theorem Group.drawn_fits {key : Key} (h : grp.fits) (hst : grp.state.keyed = true) (ha : grp.active = some ph)
    (hk : grp.slot ph = some k) (hkey : key ≠ k.key) :
    (grp.setSlot ph.other (some (KeySlot.fresh (k.serial + 1) key))).fits := by
  obtain ⟨hext, hplans, hpackets, ⟨hactive, -, -, -, -⟩, hroles⟩ := h
  obtain ⟨hfree, hplanning, hstarting⟩ := GroupState.keyed_cases hst
  have hself : (grp.setSlot ph.other (some (KeySlot.fresh (k.serial + 1) key))).slot ph = some k := by
    rw [← hk]; cases ph <;> rfl
  have hother : (grp.setSlot ph.other (some (KeySlot.fresh (k.serial + 1) key))).slot ph.other
      = some (KeySlot.fresh (k.serial + 1) key) := Group.setSlot_slot _ _ _
  have heq := Group.setSlot_eq grp ph.other (some (KeySlot.fresh (k.serial + 1) key))
  generalize grp.setSlot ph.other (some (KeySlot.fresh (k.serial + 1) key)) = grp' at hself hother heq ⊢
  have hact : grp'.active = some ph := by rw [heq]; exact ha
  have hstate : grp'.state = grp.state := by rw [heq]
  have hrole : grp'.roles = grp.roles := by rw [heq]
  refine ⟨Group.extensionsFit_of (by rw [heq]) hstate (by rw [heq]) hext,
    Group.plansFit_of (by rw [heq]) (by rw [heq]) hstate hplans, fun ph' q hq p hp => ?_, ⟨?_, ?_, ?_, ?_, ?_⟩,
    Group.rolesFit_of (by rw [heq]) hrole hroles⟩
  · rw [hrole]
    obtain rfl | rfl := Phase.eq_or_other ph ph'
    · exact hpackets _ q (hk.trans (hself.symm.trans hq)) p hp
    · obtain rfl := Option.some.inj (hother.symm.trans hq)
      have hno : (KeySlot.fresh (k.serial + 1) key).packets[p.val] = none := Vector.getElem_replicate _
      rw [hno] at hp
      cases hp
  · rw [hstate, hact, ← ha]; exact hactive
  · intro x hx
    obtain rfl := Option.some.inj (hact.symm.trans hx)
    rw [hself]; rfl
  · rw [hstate]
    exact fun hx => hx.elim (absurd · hfree) (absurd · hplanning)
  · rw [hstate]
    exact fun hx => absurd hx hstarting
  · intro x q q' hx hq hq'
    obtain rfl := Option.some.inj (hact.symm.trans hx)
    obtain rfl := Option.some.inj (hself.symm.trans hq)
    obtain rfl := Option.some.inj (hother.symm.trans hq')
    exact ⟨rfl, hkey⟩

/-- A packet stored for a member that is JOINING or JOINED (R88). -/
theorem Group.stored_restored {p : PortNo} {x : Packet} (hk : grp.slot ph = some k)
    (hp : (grp.roles[p.val]).active = true) :
    grp.Restored (grp.setSlot ph (some { k with packets := k.packets.set p.val (some x) })) where
  rest := by cases ph <;> rfl
  slot ph' := by
    obtain rfl | rfl := Phase.eq_or_other ph ph'
    · rw [Group.setSlot_slot, hk]; rfl
    · rw [Group.setSlot_slot_other]
  packets ph' k' hk' q hq := by
    obtain rfl | rfl := Phase.eq_or_other ph ph'
    · obtain rfl := Option.some.inj ((Group.setSlot_slot _ _ _).symm.trans hk')
      dsimp only at hq
      rw [Vector.getElem_set] at hq
      split at hq
      · next h => exact .inl (Fin.ext h ▸ hp)
      · exact .inr ⟨k, hk, hq⟩
    · rw [Group.setSlot_slot_other] at hk'
      exact .inr ⟨k', hk', hq⟩

end

/-! ### The key schedule (R79, R85, R86, R91, R92) -/

section
variable {s : State} {g : GroupNo}

theorem drawPending_groupsKept {serial : Serial}
    (h : (s.group g).fits → (s.group g).state.keyed = true
      ∧ ∀ ph k, (s.group g).active = some ph → (s.group g).slot ph = some k → serial = k.serial + 1) :
    GroupsKept s (s.drawPending g serial) := by
  obtain ⟨key, n, hdraw, hne⟩ := drawKey_spec s ((s.group g).activeSlot.map (·.2.key))
  unfold State.drawPending
  rw [hdraw]
  dsimp only
  generalize hu : State.setGroup _ g _ = u
  have hself : u.group g =
      (s.group g).setSlot (s.group g).pendingPhase (some (KeySlot.fresh serial key)) := by
    rw [← hu, State.setGroup_self]; rfl
  have hothers : ∀ x, x ≠ g → u.group x = s.group x := fun x hx => by rw [← hu]; exact State.setGroup_ne _ _ _ _ hx
  have hrelevant := relevant_congr (s := s) (t := u) (fun _ => by rw [← hu]; rfl) fun _ => by rw [← hu]; rfl
  refine .recomputed hothers (fun x _ => hrelevant x) (fun hg => ?_) (raiseKeyWaiting_shape _ g).aside
  obtain ⟨hst, hserial⟩ := h hg
  obtain ⟨ph, k, ha, hk⟩ := Group.fits_keyed hg hst
  rw [hself, Group.pendingPhase_of_active ha, hserial ph k ha hk]
  refine Group.drawn_fits hg hst ha hk fun hkey => hne ?_
  rw [Group.activeSlot_of ha hk, hkey]
  rfl

theorem drawPending_state (s : State) (g : GroupNo) (serial : Serial) :
    ((s.drawPending g serial).group g).state = (s.group g).state := by
  obtain ⟨key, n, hdraw, -⟩ := drawKey_spec s ((s.group g).activeSlot.map (·.2.key))
  unfold State.drawPending
  rw [hdraw]
  dsimp only
  generalize hu : State.setGroup _ g _ = u
  obtain ⟨a, hr⟩ := raiseKeyWaiting_shape (u.recompute g) g
  rw [hr]
  refine (congrArg Group.state (recompute_group_self u g)).trans ?_
  rw [← hu, State.setGroup_self, Group.setSlot_eq]
  rfl

/-- A draw event that is due draws under the serial that follows the one in use (R86). -/
theorem drawEvent_draws (h : (s.group g).state = .running ∧ s.isDue (s.group g).drawTime = true) :
    ∃ serial, (∀ ph k, (s.group g).active = some ph → (s.group g).slot ph = some k → serial = k.serial + 1)
      ∧ s.drawEvent g =
        (s.drawPending g serial).setGroup g { (s.drawPending g serial).group g with drawTime := none } := by
  unfold State.drawEvent
  dsimp only
  rw [if_pos h]
  refine ⟨_, fun ph k ha hk => ?_, rfl⟩
  rw [Group.activeSlot_of ha hk]

theorem drawEvent_groupsKept (s : State) (g : GroupNo) : GroupsKept s (s.drawEvent g) := by
  by_cases h : (s.group g).state = .running ∧ s.isDue (s.group g).drawTime = true
  · obtain ⟨serial, hserial, heq⟩ := drawEvent_draws h
    have hdraw : GroupsKept s (s.drawPending g serial) := drawPending_groupsKept fun _ => ⟨by rw [h.1]; rfl, hserial⟩
    have hstate := drawPending_state s g serial
    rw [heq]
    generalize s.drawPending g serial = u at hdraw hstate ⊢
    rw [h.1] at hstate
    exact .trans _ _ _ hdraw (.setGroup (by rw [hstate]; decide) fun hg => hg)
  · exact .of_state (if_neg h)

end

/-! ### Groups that change state -/

section
variable {grp : Group}

theorem Group.extensionsFit_iff {d : GroupDef} (hd : grp.definition = some d) :
    grp.extensionsFit ↔ grp.state ≠ .free ∧ 1 ≤ d.limit ∧ grp.extensions ≤ d.limit
      ∧ (grp.state = .frozen ↔ grp.extensions = d.limit)
      ∧ (grp.state ≠ .extended → grp.state ≠ .frozen → grp.extensions = 0) := by
  rw [Group.extensionsFit, hd]

/-- A group that is not FREE is defined. -/
theorem Group.fits_defined (h : grp.fits) (hst : grp.state ≠ .free) : ∃ d, grp.definition = some d := by
  obtain ⟨hext, -⟩ := h
  cases hd : grp.definition with
  | none =>
    rw [Group.extensionsFit, hd] at hext
    exact absurd hext.1 hst
  | some d => exact ⟨d, rfl⟩

/-- A group that starts or swaps is RUNNING and counts no extension. -/
theorem Group.extensionsFit_running {grp' : Group} (h : grp.fits) (hst : grp.state ≠ .free)
    (hd : grp'.definition = grp.definition) (hrun : grp'.state = .running) (he : grp'.extensions = 0) :
    grp'.extensionsFit := by
  obtain ⟨d, hdef⟩ := Group.fits_defined h hst
  obtain ⟨hext, -⟩ := h
  obtain ⟨-, hlimit, -⟩ := (Group.extensionsFit_iff hdef).1 hext
  rw [Group.extensionsFit_iff (hd.trans hdef), hrun, he]
  exact ⟨nofun, hlimit, Nat.zero_le _, iff_of_false nofun (by omega), fun _ _ => rfl⟩

/-- A start or a swap applies the agreed plan (R109). -/
theorem Group.plansFit_scheduled {grp' : Group} (h : grp.plansFit) (hst : grp.state ≠ .free ∧ grp.state ≠ .planning)
    (hp : grp'.plan = grp.plan) (ha : grp'.applied = grp.plan.agreed) (hrun : grp'.state = .running) :
    grp'.plansFit := by
  obtain ⟨hagreed, hproposed, -, hstatus, hstate, -⟩ := h
  unfold Group.plansFit
  rw [hp, ha, hrun]
  exact ⟨hagreed, hproposed, hagreed, hstatus, iff_of_true (hstate.2 hst) ⟨nofun, nofun⟩,
    iff_of_true (hstate.2 hst) rfl⟩

/-- A RUNNING group that holds the key in use and no other. -/
theorem Group.keysFit_running {ph : Phase} (hrun : grp.state = .running) (ha : grp.active = some ph)
    (hk : (grp.slot ph).isSome) (hnone : grp.slot ph.other = none) : grp.keysFit := by
  unfold Group.keysFit
  rw [hrun, ha]
  refine ⟨iff_of_true rfl rfl, fun x hx => ?_, fun hx => ?_, nofun, fun x k q hx _ hq => ?_⟩
  · rwa [← Option.some.inj hx]
  · rcases hx with hx | hx <;> cases hx
  · rw [← Option.some.inj hx, hnone] at hq
    cases hq

/-- The record of a group that starts at `d` (R85). -/
def Group.started (grp : Group) (d : Time) : Group :=
  { grp.schedule d with state := .running, active := some .a, startTime := none }

/-- A STARTING group that starts uses the key in slot A (R85). -/
theorem Group.started_fits {d : Time} (h : grp.fits) (hst : grp.state = .starting) : (grp.started d).fits := by
  have hfree : grp.state ≠ .free ∧ grp.state ≠ .planning := by rw [hst]; decide
  obtain ⟨x, hx⟩ := Group.fits_defined h hfree.1
  have hrun := Group.extensionsFit_running (grp' := grp.started d) h hfree.1 rfl rfl
  obtain ⟨hext, hplans, hpackets, ⟨-, -, -, hslots, -⟩, hroles⟩ := h
  obtain ⟨-, -, -, -, hzero⟩ := (Group.extensionsFit_iff hx).1 hext
  obtain ⟨⟨k, hk, -⟩, hB⟩ := hslots hst
  refine ⟨hrun (hzero (by rw [hst]; decide) (by rw [hst]; decide)),
    Group.plansFit_scheduled hplans hfree rfl rfl rfl, hpackets, Group.keysFit_running (ph := .a) rfl rfl ?_ hB, hroles⟩
  exact Option.isSome_iff_exists.2 ⟨k, hk⟩

/-- The record of a group whose phases swap at `d`, slot `ph` leaving (R91). -/
def Group.swapped (grp : Group) (ph : Phase) (d : Time) : Group :=
  { (grp.setSlot ph none).schedule d with state := .running, active := some ph.other, extensions := 0 }

theorem Group.swapped_slot (ph ph' : Phase) (d : Time) :
    (grp.swapped ph d).slot ph' = (grp.setSlot ph none).slot ph' := by
  cases ph' <;> rfl

theorem Group.swapped_eq (ph : Phase) (d : Time) :
    (grp.swapped ph d).definition = grp.definition ∧ (grp.swapped ph d).roles = grp.roles
      ∧ (grp.swapped ph d).plan = grp.plan ∧ (grp.swapped ph d).applied = grp.plan.agreed := by
  cases ph <;> exact ⟨rfl, rfl, rfl, rfl⟩

/-- A swap: the pending key is in use, the old one gone (R91). -/
theorem Group.swapped_fits {ph : Phase} {q : KeySlot} {d : Time} (h : grp.fits) (hst : grp.state.keyed = true)
    (hq : grp.slot ph.other = some q) : (grp.swapped ph d).fits := by
  obtain ⟨hfree, hplanning, -⟩ := GroupState.keyed_cases hst
  obtain ⟨hdef, hrole, hplan, happlied⟩ := Group.swapped_eq (grp := grp) ph d
  have hself : (grp.swapped ph d).slot ph = none := by rw [Group.swapped_slot, Group.setSlot_slot]
  have hother : (grp.swapped ph d).slot ph.other = some q := by rw [Group.swapped_slot, Group.setSlot_slot_other, hq]
  have hext := Group.extensionsFit_running (grp' := grp.swapped ph d) h hfree hdef rfl rfl
  obtain ⟨-, hplans, hpackets, -, hroles⟩ := h
  refine ⟨hext, Group.plansFit_scheduled hplans ⟨hfree, hplanning⟩ hplan happlied rfl, fun ph' k hk p hp => ?_,
    Group.keysFit_running (ph := ph.other) rfl rfl ?_ ?_, Group.rolesFit_of hdef hrole hroles⟩
  · rw [hrole]
    obtain rfl | rfl := Phase.eq_or_other ph ph'
    · rw [hself] at hk; cases hk
    · exact hpackets _ k (hq.trans (hother.symm.trans hk)) p hp
  · rw [hother]; rfl
  · rw [Phase.other_other, hself]

/-- From one state with a key in use to another the plans and the slots promise the same. -/
theorem Group.fits_of_keyed {grp' : Group} (h : grp.fits) (hst : grp.state.keyed = true)
    (hst' : grp'.state.keyed = true)
    (heq : grp' = { grp with
      state := grp'.state
      extensions := grp'.extensions
      nextChangeover := grp'.nextChangeover
      drawTime := grp'.drawTime })
    (hext : ∀ d, grp.definition = some d → 1 ≤ d.limit → grp.extensions ≤ d.limit → grp'.extensions ≤ d.limit
      ∧ (grp'.state = .frozen ↔ grp'.extensions = d.limit)
      ∧ (grp'.state ≠ .extended → grp'.state ≠ .frozen → grp'.extensions = 0)) : grp'.fits := by
  obtain ⟨hfree, hplanning, hstarting⟩ := GroupState.keyed_cases hst
  obtain ⟨hfree', hplanning', hstarting'⟩ := GroupState.keyed_cases hst'
  obtain ⟨d, hd⟩ := Group.fits_defined h hfree
  obtain ⟨hextensions, ⟨hagreed, hproposed, happlied, hstatus, hstate, hkeyed⟩, hpackets,
    ⟨hactive, hslot, -, -, hserial⟩, hroles⟩ := h
  obtain ⟨-, hlimit, hle, -⟩ := (Group.extensionsFit_iff hd).1 hextensions
  have hslots : ∀ ph, grp'.slot ph = grp.slot ph := fun ph => by rw [heq]; cases ph <;> rfl
  have hact : grp'.active = grp.active := by rw [heq]
  have hplan : grp'.plan = grp.plan := by rw [heq]
  have happ : grp'.applied = grp.applied := by rw [heq]
  have hrole : grp'.roles = grp.roles := by rw [heq]
  have hdef : grp'.definition = grp.definition := by rw [heq]
  refine ⟨(Group.extensionsFit_iff (hdef.trans hd)).2 ⟨hfree', hlimit, hext d hd hlimit hle⟩, ?_,
    fun ph k hk p hp => ?_, ?_, Group.rolesFit_of hdef hrole hroles⟩
  · unfold Group.plansFit
    rw [hplan, happ]
    exact ⟨hagreed, hproposed, happlied, hstatus, iff_of_true (hstate.2 ⟨hfree, hplanning⟩) ⟨hfree', hplanning'⟩,
      iff_of_true (hkeyed.2 hst) hst'⟩
  · rw [hrole]
    exact hpackets ph k (hslots ph ▸ hk) p hp
  · unfold Group.keysFit
    simp only [hact, hslots]
    exact ⟨iff_of_true (hactive.2 hst) hst', hslot, fun hx => hx.elim (absurd · hfree') (absurd · hplanning'),
      fun hx => absurd hx hstarting', hserial⟩

end

section
variable {s : State} {g : GroupNo}

theorem startEvent_groupsKept (s : State) (g : GroupNo) : GroupsKept s (s.startEvent g) := by
  by_cases h : (s.group g).state = .starting ∧ s.isDue (s.group g).startTime = true
  · have heq : s.startEvent g =
        (s.setGroup g ((s.group g).started ((s.group g).startTime.getD s.time))).clearKeyWaiting g := if_pos h
    have hrun : ∀ d, ((s.group g).started d).state ≠ .starting := fun _ => (nofun : GroupState.running ≠ .starting)
    rw [heq]
    exact .trans _ _ _ (.setGroup (hrun _) fun hg => Group.started_fits hg h.1)
      (clearKeyWaiting_shape _ g).aside.groupsKept
  · exact .of_state (if_neg h)

theorem swapSlots_groupsKept (hst : (s.group g).state.keyed = true)
    (hair : s.slotState g (s.group g).pendingPhase = .aired) : GroupsKept s (s.swapSlots g) := by
  unfold State.swapSlots
  dsimp only
  refine .trans _ _ _ ?_ (clearKeyWaiting_shape _ g).aside.groupsKept
  refine .trans _ _ _ ?_ (keepEntries_aside _ _).groupsKept
  refine .setGroup (nofun : GroupState.running ≠ .starting) fun hg => ?_
  obtain ⟨ph, k, ha, hk⟩ := Group.fits_keyed hg hst
  obtain ⟨-, q, hq, -⟩ := slotState_aired_iff.1 hair
  rw [Group.pendingPhase_of_active ha] at hq ⊢
  rw [Phase.other_other]
  exact Group.swapped_fits hg hst hq

theorem deferChangeover_groupsKept (hst : (s.group g).state.keyed = true) :
    GroupsKept s (s.deferChangeover g) := by
  unfold State.deferChangeover
  dsimp only
  refine .ite _ (fun t => t.addGroupFrozen g) ?_ fun t => managerCause_groupsKept t _
  refine .trans _ _ _ ?_ (setGroupAlert_groupsKept _ g true)
  refine .trans _ _ _ ?_ (raiseLate_shape _ g).aside.groupsKept
  have hkeyed : ∀ (a b : Prop) [Decidable a] [Decidable b],
      (if a then (if b then GroupState.frozen else .extended) else .frozen).keyed = true := by
    intro a b _ _
    split
    · split <;> rfl
    · rfl
  refine .setGroup (GroupState.not_starting_of_keyed (hkeyed _ _)) fun hg => ?_
  obtain ⟨d, hd⟩ := Group.fits_defined hg (GroupState.keyed_cases hst).1
  have hlimit : (s.group g).limit = d.limit := by rw [Group.limit, hd]; rfl
  refine Group.fits_of_keyed hg hst (hkeyed _ _) rfl fun y hy h1 hle => ?_
  obtain rfl := Option.some.inj (hd.symm.trans hy)
  rw [hlimit]
  dsimp only
  split
  · next hlt =>
    simp only [hlt, true_and, decide_eq_true_eq]
    refine ⟨hlt, ?_, ?_⟩
    · split <;> simp [*]
    · split <;> simp
  · exact ⟨hle, iff_of_true rfl (by omega), fun _ hx => absurd rfl hx⟩

theorem changeover_groupsKept (s : State) (g : GroupNo) : GroupsKept s (s.changeover g) := by
  by_cases h : (s.group g).state.keyed = true ∧ s.isDue (s.group g).nextChangeover = true
  · rw [changeover_due h.1 h.2]
    split
    · next hair => exact swapSlots_groupsKept h.1 hair
    · exact deferChangeover_groupsKept h.1
  · exact .of_state (changeover_not_due h)

/-! ### The manager's orders (R80 to R82, R94) -/

/-- RESTART GROUP draws under the serial that follows the one in use. -/
theorem restartGroup_draws (s : State) (g : GroupNo) : ∃ serial,
    ((s.group g).fits → ∀ ph k, (s.group g).active = some ph → (s.group g).slot ph = some k → serial = k.serial + 1)
      ∧ ∃ next, s.restartGroup g =
        ((s.removeSlotEntries g (s.group g).pendingPhase).drawPending g serial).setGroup g
          { ((s.removeSlotEntries g (s.group g).pendingPhase).drawPending g serial).group g with
            state := .extended
            extensions := 0
            nextChangeover := next
            drawTime := none } := by
  unfold State.restartGroup
  dsimp only
  refine ⟨_, fun hg ph k ha hk => ?_, _, rfl⟩
  obtain ⟨-, -, -, ⟨-, -, -, -, hserial⟩, -⟩ := hg
  rw [Group.activeSlot_of ha hk, Group.pendingSlot, Group.pendingPhase_of_active ha]
  cases hq : (s.group g).slot ph.other with
  | none => rfl
  | some q => exact (hserial ph k q ha hk hq).1

theorem restartGroup_groupsKept (hst : (s.group g).state.keyed = true) : GroupsKept s (s.restartGroup g) := by
  obtain ⟨serial, hserial, next, heq⟩ := restartGroup_draws s g
  have hgone := keepEntries_aside s (fun e => !(e.group == g && e.phase == (s.group g).pendingPhase))
  have hremove : s.removeSlotEntries g (s.group g).pendingPhase
      = s.keepEntries (fun e => !(e.group == g && e.phase == (s.group g).pendingPhase)) := rfl
  rw [← hremove] at hgone
  rw [heq]
  generalize s.removeSlotEntries g (s.group g).pendingPhase = u at hgone ⊢
  have hdraw : GroupsKept u (u.drawPending g serial) := drawPending_groupsKept fun hg => by
    rw [hgone.group] at hg ⊢
    exact ⟨hst, hserial hg⟩
  have hstate := drawPending_state u g serial
  generalize u.drawPending g serial = v at hdraw hstate ⊢
  refine .trans _ _ _ (.trans _ _ _ hgone.groupsKept hdraw) ?_
  refine .setGroup (nofun : GroupState.extended ≠ .starting) fun hg => ?_
  refine Group.fits_of_keyed hg ?_ rfl rfl fun d _ hlimit _ => ?_
  · rw [hstate, hgone.group, hst]
  · exact ⟨Nat.zero_le _, iff_of_false nofun (by dsimp only; omega), fun hx => absurd rfl hx⟩

theorem release_groupsKept (s : State) (g : GroupNo) : GroupsKept s (s.release g) := by
  unfold State.release
  refine .trans _ _ _ ?_ (.foldl (fun t p => ?_) _ _)
  · exact .trans _ _ _ (.setGroup (nofun : GroupState.free ≠ .starting) fun _ => Group.reset_fits)
      (keepEntries_aside _ _).groupsKept
  · exact .trans _ _ _ (setPort_aside t p _).groupsKept (setPort_aside _ p _).groupsKept

theorem defineFree_groupsKept {d : GroupDef} (h : 1 ≤ d.limit) : GroupsKept s (s.defineFree g d) := by
  refine .setGroup (nofun : GroupState.planning ≠ .starting) fun _ => ?_
  obtain ⟨-, ⟨hagreed, hproposed, happlied, hstatus, -, -⟩, -, -, -⟩ := Group.reset_fits
  have hslot : ∀ ph, Group.reset.slot ph = none := fun ph => by cases ph <;> rfl
  refine ⟨⟨nofun, h, Nat.zero_le _, iff_of_false nofun (Nat.ne_of_lt h), fun _ _ => rfl⟩,
    ⟨hagreed, hproposed, happlied, hstatus, iff_of_false nofun nofun, iff_of_false nofun nofun⟩, fun ph k hk => ?_,
    ⟨iff_of_false nofun nofun, nofun, fun _ => ⟨rfl, rfl⟩, nofun, nofun⟩, fun p => ?_⟩
  · have hnone : Group.reset.slot ph = some k := by cases ph <;> exact hk
    rw [hslot] at hnone
    cases hnone
  · have hrole : (newRoles d.roster)[p.val] = if hasItem d.roster p then .absent else .notMember :=
      Vector.getElem_ofFn _
    have hon : (∃ x, some d = some x ∧ hasItem x.roster p = true) ↔ hasItem d.roster p = true :=
      ⟨fun ⟨x, hx, hp⟩ => Option.some.inj hx ▸ hp, fun hp => ⟨d, rfl, hp⟩⟩
    dsimp only
    rw [hrole, hon]
    split <;> simp [*]

end

/-! ### DEFINE GROUP of a group that is not FREE (R81) -/

section
variable {st : GroupState} {count limit : Nat}

theorem GroupState.relimited_keyed : (st.relimited count limit).keyed = st.keyed := by
  unfold GroupState.relimited
  split
  · next h => rcases h with rfl | rfl <;> split <;> rfl
  · rfl

theorem GroupState.relimited_eq_iff {x : GroupState} (hx : x.keyed = false) :
    st.relimited count limit = x ↔ st = x := by
  unfold GroupState.relimited
  split
  · next h => rcases h with rfl | rfl <;> split <;> cases x <;> simp_all [GroupState.keyed]
  · rfl

/-- The record of a group whose definition is replaced, its start time set aside (R81). -/
def Group.redefined (grp : Group) (d : GroupDef) (start : Option Time) : Group :=
  { grp.rerostered d start with
    extensions := min grp.extensions d.limit
    state := grp.state.relimited (min grp.extensions d.limit) d.limit }

variable {grp : Group} {d : GroupDef} {start : Option Time}

theorem Group.redefined_slot (ph : Phase) : (grp.redefined d start).slot ph =
    (grp.slot ph).map (·.dropping (fun p => grp.roles[p.val].active && !hasItem d.roster p)) := by cases ph <;> rfl

theorem Group.redefined_role (p : PortNo) : (grp.redefined d start).roles[p.val] =
    if hasItem d.roster p then (if grp.roles[p.val] = .notMember then .absent else grp.roles[p.val])
    else .notMember := Vector.getElem_ofFn _

theorem Group.redefined_extensionsFit (h : grp.extensionsFit) (hst : grp.state ≠ .free) (hl : 1 ≤ d.limit) :
    (grp.redefined d start).extensionsFit := by
  have hzero : grp.state ≠ .extended → grp.state ≠ .frozen → grp.extensions = 0 := by
    unfold Group.extensionsFit at h
    split at h
    · exact absurd h.1 hst
    · exact h.2.2.2.2
  rw [Group.extensionsFit_iff (grp := grp.redefined d start) rfl]
  refine ⟨?_, hl, Nat.min_le_right _ _, ?_⟩
  · rw [ne_eq, Group.redefined, GroupState.relimited_eq_iff rfl]
    exact hst
  · dsimp only [Group.redefined]
    unfold GroupState.relimited
    by_cases hx : grp.state = .extended ∨ grp.state = .frozen
    · rw [if_pos hx]
      split <;> simp [*]
    · rw [if_neg hx]
      obtain ⟨he, hf⟩ := not_or.1 hx
      rw [hzero he hf, Nat.zero_min]
      exact ⟨iff_of_false hf (Nat.ne_of_lt hl), fun _ _ => rfl⟩

theorem Group.redefined_fits (h : grp.fits) (hst : grp.state ≠ .free) (hl : 1 ≤ d.limit) :
    (grp.redefined d start).fits := by
  obtain ⟨hext, ⟨hagreed, hproposed, happlied, hstatus, hstate, hkeyed⟩, hpackets, hkeys, hroles⟩ := h
  have hname : ∀ ph, ((grp.redefined d start).slot ph).map KeySlot.name = (grp.slot ph).map KeySlot.name := fun ph => by
    rw [Group.redefined_slot, Option.map_map]
    rfl
  refine ⟨Group.redefined_extensionsFit hext hst hl, ⟨hagreed, hproposed, happlied, hstatus, ?_, ?_⟩,
    fun ph k' hk' p hp => ?_, ?_, fun p => ?_⟩
  · dsimp only [Group.redefined]
    rw [ne_eq, ne_eq, GroupState.relimited_eq_iff rfl, GroupState.relimited_eq_iff rfl]
    exact hstate
  · dsimp only [Group.redefined]
    rw [GroupState.relimited_keyed]
    exact hkeyed
  · rw [Group.redefined_slot, Option.map_eq_some_iff] at hk'
    obtain ⟨k, hk, rfl⟩ := hk'
    have hpacket : (k.dropping (fun p => grp.roles[p.val].active && !hasItem d.roster p)).packets[p.val]
        = if grp.roles[p.val].active && !hasItem d.roster p then none else k.packets[p.val] := Vector.getElem_ofFn _
    rw [hpacket] at hp
    split at hp
    · cases hp
    · next hkept =>
      have hact := hpackets ph k hk p hp
      have hon : hasItem d.roster p = true := by simpa [hact] using hkept
      have hin : grp.roles[p.val] ≠ .notMember := fun hn => by rw [hn] at hact; cases hact
      rwa [Group.redefined_role, if_pos hon, if_neg hin]
  · rw [Group.keysFit_iff] at hkeys ⊢
    simp only [hname]
    dsimp only [Group.redefined]
    simp only [GroupState.relimited_keyed, GroupState.relimited_eq_iff (x := .free) rfl,
      GroupState.relimited_eq_iff (x := .planning) rfl, GroupState.relimited_eq_iff (x := .starting) rfl]
    exact hkeys
  · have hon : (∃ x, some d = some x ∧ hasItem x.roster p = true) ↔ hasItem d.roster p = true :=
      ⟨fun ⟨x, hx, hp⟩ => Option.some.inj hx ▸ hp, fun hp => ⟨d, rfl, hp⟩⟩
    rw [Group.redefined_role]
    refine Iff.trans ?_ (not_congr hon).symm
    split
    · next hr => split <;> simp [*]
    · next hr => simp [hr]

end

section
variable {s : State} {g : GroupNo} {d : GroupDef}

theorem redefine_groupsKept (hst : (s.group g).state ≠ .free) (hl : 1 ≤ d.limit) : GroupsKept s (s.redefine g d) := by
  obtain ⟨hself, hstart, hothers, hcarrier, -, hrest⟩ := reroster_spec s g d
  have hlimit :=
    changeLimit_spec ((s.setGroup g { s.group g with definition := some d }).changeRoster g d.roster) g d.limit
  unfold State.redefine
  dsimp only at hlimit ⊢
  generalize (s.setGroup g { s.group g with definition := some d }).changeRoster g d.roster = v
    at hself hstart hothers hcarrier hrest hlimit ⊢
  generalize v.changeLimit g d.limit = t at hlimit ⊢
  obtain ⟨hself', hothers', -, hrest'⟩ := hlimit
  have hrelevant : ∀ x, v.relevant x = s.relevant x :=
    relevant_congr (fun c => by rw [hcarrier]) fun p => by rw [hrest]; rfl
  have hrelevant' : ∀ x, t.relevant x = v.relevant x :=
    relevant_congr (fun c => by rw [hrest']; rfl) fun p => by rw [hrest']; rfl
  have hgroup : t.group g = (s.group g).redefined d (v.group g).startTime := by
    rw [hself']
    conv_lhs => rw [hself]
    rfl
  refine .of_one (fun x hx => (hothers' x hx).trans (hothers x hx)) (fun x => (hrelevant' x).trans (hrelevant x))
    (fun hg => ?_) fun hs ht => ?_
  · rw [hgroup]
    exact Group.redefined_fits hg hst hl
  · have hstarting : (v.group g).state = .starting := by
      rw [hgroup, Group.redefined, GroupState.relimited_eq_iff rfl] at ht
      rw [hself]
      exact ht
    have hslot : t.slotState g .a = v.slotState g .a :=
      slotState_congr (by rw [hself']; rfl) (by rw [hself']) (by rw [hself']) (hrelevant' g)
    rw [hgroup, hslot]
    exact startFits_of_eq (by rw [hself]; rfl) (hstart hs) hstarting

/-! ### Packets (R88) -/

theorem storePacket_groupsKept {ph : Phase} {k : KeySlot} {p : PortNo} (body : List Byte)
    (hk : (s.group g).slot ph = some k) (hp : ((s.group g).roles[p.val]).active = true) :
    GroupsKept s (s.storePacket g ph k p body) := by
  obtain ⟨hself, hothers, hcarrier, hrest⟩ := storePacket_spec s g ph k p body
  generalize s.storePacket g ph k p body = t at hself hothers hcarrier hrest ⊢
  have hrelevant : ∀ x, t.relevant x = s.relevant x := relevant_congr (fun c => by
    rw [hcarrier]
    split <;> rfl) fun p => by rw [hrest]; rfl
  have hrestored := Group.stored_restored (x := ⟨body, 0⟩) hk hp
  have hstate := congrArg Group.state hself
  have hstart := congrArg Group.startTime hself
  rw [Group.setSlot_eq] at hstate
  generalize (s.group g).setSlot ph (some { k with packets := k.packets.set p.val (some ⟨body, 0⟩) }) = grp
    at hself hrestored
  refine .of_one hothers hrelevant (fun hg => ?_) fun _ => startFits_of_eq hstate hstart
  rw [hself]
  exact Group.fits_startTime (hrestored.fits hg)

end

end Sys2Proof.Machine

/-! SUPPORT. Carriers, programmes, allocation, output and ingest keep what the group records promise: they change no
group but in aired sets, and recompute the groups whose relevant carriers they change (R7 to R9, R15, R16, R37 to R66,
R90, R115 to R119, R133 to R141). -/

namespace Sys2Proof.Machine

/-! ### Programmes (R31, R43, R44, R48 to R50) -/

section
variable {k k' : Programme}

/-- A programme written over in its queue and its counts. -/
theorem Programme.Stays.of_eq (hs : k'.state = k.state) (hd : k'.definition = k.definition) : k.Stays k' where
  serving := by rw [Programme.serving, hs]; rfl
  definition _ := hd

/-- A programme that is LIVE or RESYNC becomes either. -/
theorem Programme.Stays.of_serving (hk : k.serving = true) (hs : k'.state = .live ∨ k'.state = .resync)
    (hd : k'.definition = k.definition) : k.Stays k' where
  serving := by rw [hk, Programme.serving]; rcases hs with hs | hs <;> rw [hs] <;> rfl
  definition _ := hd

theorem Programme.toResync_stays (k : Programme) : k.Stays k.toResync := by
  unfold Programme.toResync
  split
  · next h => exact .of_serving h (.inr rfl) rfl
  · exact .refl k

end

section
variable {s : State}

theorem freeUp_aside (s : State) (cells : List CellNo) : Aside s (s.freeUp cells) := .of_eq rfl rfl rfl

theorem resync_aside (s : State) (p : ProgrammeNo) : Aside s (s.resync p) :=
  .setProgramme (Programme.toResync_stays _)

theorem emptyQueue_aside (s : State) (p : ProgrammeNo) : Aside s (s.emptyQueue p) := by
  refine .trans _ _ _ ?_ (freeUp_aside _ _)
  exact .setProgramme (.of_eq rfl rfl)

theorem dropHead_aside (s : State) (p : ProgrammeNo) : Aside s (s.dropHead p) := by
  refine .trans _ _ _ ?_ (freeUp_aside _ _)
  exact .setProgramme (.of_eq rfl rfl)

theorem modCounters_aside (s : State) (c : CarrierNo) (f : Counters → Counters) : Aside s (s.modCounters c f) :=
  .setCarrier Iff.rfl

theorem countResync_aside (s : State) (c : CarrierNo) (n : Nat) : Aside s (s.countResync c n) := .setCarrier Iff.rfl

/-- A programme that was LIVE or RESYNC before is so after. -/
theorem Aside.serving {t : State} (h : Aside s t) {p : ProgrammeNo} (hp : (s.programme p).serving = true) :
    (t.programme p).serving = true := (h.programme p).serving.trans hp

/-- A programme that is LIVE or RESYNC becomes RESYNC, after what leaves it so. -/
theorem Aside.thenResync {t : State} (h : Aside s t) {p : ProgrammeNo} (hp : (s.programme p).serving = true)
    {k : Programme} (hk : k.state = .resync) (hd : k.definition = (t.programme p).definition) :
    Aside s (t.setProgramme p k) :=
  .trans _ _ _ h (.setProgramme (.of_serving (h.serving hp) (.inr hk) hd))

theorem blank_aside (v : Event) (c : CarrierNo) {p : ProgrammeNo} (h : (v.state.programme p).serving = true) :
    Aside v.state (v.blank c p).state :=
  (Aside.trans _ _ _ (emptyQueue_aside _ p) (countResync_aside _ c _)).thenResync h rfl rfl

theorem walk_aside (v : Event) (c : CarrierNo) {p : ProgrammeNo} (h : (v.state.programme p).serving = true) :
    Aside v.state (v.walk c p).state := by
  refine .trans _ _ _ ?_ (countResync_aside _ c _)
  refine .trans _ _ _ ?_ (freeUp_aside _ _)
  refine .setProgramme (.of_serving h ?_ rfl)
  dsimp only
  split
  · exact .inr rfl
  · exact .inl rfl

theorem stage3_aside (c : CarrierNo) (v : Event) (p : ProgrammeNo) : Aside v.state (Event.stage3 c v p).state := by
  unfold Event.stage3
  dsimp only
  split
  · next h =>
    have hp : (v.state.programme p).serving = true := (Bool.and_eq_true _ _ ▸ h).2
    split
    · exact blank_aside v c hp
    · split
      · exact walk_aside v c hp
      · exact .refl _
  · exact .refl _

theorem demote_aside (c : CarrierNo) (v : Event) {x : Candidate} (h : (v.state.programme x.programme).serving = true) :
    Aside v.state (Event.demote c v x).state := by
  have drop : ∀ f : Counters → Counters, Aside v.state ((v.state.dropHead x.programme).modCounters c f) :=
    fun f => .trans _ _ _ (dropHead_aside _ _) (modCounters_aside _ c f)
  unfold Event.demote Event.dropBridge
  split
  · dsimp only
    exact drop _
  · exact (drop _).thenResync h rfl rfl
  · split
    · exact .trans _ _ _ (modCounters_aside _ c _) (.setProgramme (.of_eq rfl rfl))
    · exact (drop _).thenResync h rfl rfl

/-- The demotions of programmes that are LIVE or RESYNC, one after another. -/
theorem demotes_aside (c : CarrierNo) : ∀ (l : List Candidate) (v : Event),
    (∀ x ∈ l, (v.state.programme x.programme).serving = true) → Aside v.state (l.foldl (Event.demote c) v).state
  | [], _, _ => .refl _
  | x :: l, v, h =>
      have hone := demote_aside c v (h x List.mem_cons_self)
      .trans _ _ _ hone (demotes_aside c l _ fun y hy => hone.serving (h y (List.mem_cons_of_mem x hy)))

theorem clearHeld_aside (s : State) (x : Candidate) : Aside s (clearHeld s x) := by
  unfold clearHeld
  split
  · exact .setProgramme (.of_eq rfl rfl)
  · exact .refl s

theorem select_aside (v : Event) (c : CarrierNo) (pool : Nat) : Aside v.state (v.select c pool).1.state := by
  unfold Event.select
  dsimp only
  refine .trans _ _ _ ?_ (.foldl clearHeld_aside _ _)
  have hstage : Aside v.state ((List.finRange 48).foldl (Event.stage3 c) v).state :=
    foldl_rel (fun v w : Event => Aside v.state w.state) (fun _ => .refl _) (fun _ _ _ => .trans _ _ _) _
      (stage3_aside c) _ v
  refine .trans _ _ _ hstage (demotes_aside c _ _ fun x hx => ?_)
  obtain ⟨p, d, u, rest, hlive, -, -, -, rfl⟩ := mem_candidatesOf.1 (demotions_subset _ _ hx)
  rw [Programme.serving_iff]
  exact .inl hlive

end

/-! ### Allocation events (R37 to R59, R118, R119) -/

section
variable {s : State}

theorem KeySlot.airing_isSome {k : KeySlot} {c : CarrierNo} {P : PortNo → Bool} {p : PortNo}
    (h : (k.airing c P).packets[p.val].isSome) : k.packets[p.val].isSome := by
  rwa [KeySlot.airing_packet, Option.isSome_map] at h

theorem accessTake_groupsKept (s : State) (c : CarrierNo) (b : Time) : GroupsKept s (s.accessTake c b).2 := by
  obtain ⟨hair, -⟩ := takeEntries_airs (c := c) (b := b) (s.carouselTake c (s.carrier c).spec.reserve b) ([], s)
  have hair : Airs c b _ s (s.accessTake c b).2 := hair
  refine ⟨fun g hg => Group.Restored.fits ?_ hg, fun g hs => startFits_of_eq (by rw [hair.group]) (hair.start g hs)⟩
  exact
    { rest := hair.group g
      slot := fun ph => by rw [hair.slot, Option.map_map]; rfl
      packets := fun ph k' hk' p hp => by
        rw [hair.slot, Option.map_eq_some_iff] at hk'
        obtain ⟨k, hk, rfl⟩ := hk'
        exact .inr ⟨k, hk, KeySlot.airing_isSome hp⟩ }

theorem leaveQueue_aside (s : State) (x : Candidate) : Aside s (s.leaveQueue x) := .setProgramme (.of_eq rfl rfl)

theorem allocate_groupsKept (s : State) (c : CarrierNo) (b : Time) : GroupsKept s (s.allocate c b) := by
  unfold State.allocate
  have hA := accessTake_groupsKept s c b
  generalize s.accessTake c b = A at hA ⊢
  obtain ⟨access, s₁⟩ := A
  have hB := (subscriberTake_shape s₁ c).aside
  dsimp only at hA ⊢
  generalize s₁.subscriberTake c = B at hB ⊢
  obtain ⟨subs, s₂⟩ := B
  generalize (s.carrier c).budget - 1 - accessSlices access - subs.length = pool
  have hV := select_aside ⟨s₂, s.directoryRecord c, false⟩ c pool
  dsimp only at hB hV ⊢
  generalize Event.select ⟨s₂, s.directoryRecord c, false⟩ c pool = V at hV ⊢
  obtain ⟨v, survivors⟩ := V
  generalize divide _ _ survivors = D
  obtain ⟨filler, rotate, granted⟩ := D
  dsimp only at hV ⊢
  refine .ite _ (fun u => u.setCarrierAlert c true) ?_ fun u => setCarrierAlert_groupsKept u c true
  have hleave : Aside v.state (granted.foldl State.leaveQueue v.state) := .foldl leaveQueue_aside _ _
  have hlist := Aside.trans _ _ _ (.trans _ _ _ hB hV) hleave
  refine .trans _ _ _ (.trans _ _ _ hA hlist.groupsKept) (Aside.groupsKept ?_)
  exact .setCarrier Iff.rfl

end

/-! ### The output side (R62 to R66, R133 to R141) -/

theorem shrinkNext_aside (s : State) (c : CarrierNo) : Aside s (s.shrinkNext c) := by
  unfold State.shrinkNext
  split
  · exact .refl s
  · split
    · exact .refl s
    · next e after _ =>
      have hmem : Aside s { s with memory := s.memory.shrink e } := .of_eq rfl rfl rfl
      refine .trans _ _ _ ?_ (freeUp_aside _ _)
      refine .trans _ _ _ hmem ?_
      exact .setCarrier Iff.rfl

theorem shrinkTimes_aside : ∀ (n : Nat) (s : State) (c : CarrierNo), Aside s (State.shrinkTimes n s c)
  | 0, s, _ => .refl s
  | n + 1, s, c => .trans _ _ _ (shrinkNext_aside s c) (shrinkTimes_aside n _ c)

theorem pushSlice_aside (s : State) (c : CarrierNo) (slice : Slice) (rest : List Item) :
    Aside s (s.pushSlice c slice rest) := .setCarrier Iff.rfl

theorem pushLast_aside (s : State) (c : CarrierNo) (slice : Slice) (rest : List Item) (copy : EmittedCopy) :
    Aside s (s.pushLast c slice rest copy) := .setCarrier Iff.rfl

theorem emitSlice_aside (s : State) (c : CarrierNo) : Aside s (s.emitSlice c) := by
  unfold State.emitSlice
  split
  · exact .refl s
  · exact .refl s
  · exact pushSlice_aside s c _ _
  · split
    · exact pushSlice_aside s c _ _
    · exact pushLast_aside s c _ _ _
  · exact pushLast_aside s c _ _ _
  · next e capture sent rest _ =>
    have hcount : Aside s (s.setProgramme e.unit.programme
      { s.programme e.unit.programme with continuity := (s.programme e.unit.programme).continuity + 1 }) :=
      .setProgramme (.of_eq rfl rfl)
    unfold State.emitProgramme
    dsimp only
    split
    · exact .trans _ _ _ hcount (pushSlice_aside _ c _ _)
    · exact .trans _ _ _ (.trans _ _ _ hcount (pushSlice_aside _ c _ _)) (freeUp_aside _ _)
  · exact .trans _ _ _ (pushSlice_aside s c _ _) (modCounters_aside _ c _)

theorem makeRoom_aside (s : State) (c : CarrierNo) : Aside s (s.makeRoom c) := by
  unfold State.makeRoom
  dsimp only
  split
  · exact .refl s
  · exact .setCarrier Iff.rfl

theorem emitTimes_aside : ∀ (n : Nat) (s : State) (c : CarrierNo), Aside s (State.emitTimes n s c)
  | 0, s, _ => .refl s
  | n + 1, s, c => by
      unfold State.emitTimes
      split
      · exact .trans _ _ _ (.trans _ _ _ (makeRoom_aside s c) (emitSlice_aside _ c)) (emitTimes_aside n _ c)
      · exact .refl s

theorem clearEmitting_aside (s : State) (c : CarrierNo) : Aside s (s.clearEmitting c) := .setCarrier Iff.rfl

theorem endInterval_aside (s : State) (c : CarrierNo) : Aside s (s.endInterval c) := by
  cases h : (s.carrier c).emitting with
  | none =>
    rw [endInterval_none h]
    exact clearEmitting_aside s c
  | some items =>
    rw [endInterval_some h]
    exact .trans _ _ _ (emitTimes_aside _ s c) (clearEmitting_aside _ c)

theorem beginInterval_aside (s : State) (c : CarrierNo) (final : Bool) : Aside s (s.beginInterval c final) := by
  unfold State.beginInterval
  split
  · exact .refl s
  · refine .trans _ _ _ ?_ (freeUp_aside _ _)
    exact .setCarrier Iff.rfl

theorem nextInterval_aside (s : State) (c : CarrierNo) (final : Bool) : Aside s (s.nextInterval c final) := by
  have hended : Aside s ((s.finishShrinks c).endInterval c) :=
    .trans _ _ _ (shrinkTimes_aside _ s c) (endInterval_aside _ c)
  unfold State.nextInterval
  dsimp only
  refine .trans _ _ _ ?_ (beginInterval_aside _ c final)
  refine .trans _ _ _ hended ?_
  exact .setCarrier Iff.rfl

/-! ### Boundaries (R7, R9) -/

theorem advance_aside (s : State) (c : CarrierNo) (b : Time) : Aside s (s.advance c b) := .setCarrier Iff.rfl

theorem KeySlot.without_isSome {k : KeySlot} {c : CarrierNo} {p : PortNo}
    (h : (k.without c).packets[p.val].isSome) : k.packets[p.val].isSome := by
  simpa [KeySlot.without] using h

/-- Aired sets that a carrier has left promise nothing of a record (R90). -/
theorem clearAired_fits {s : State} {c : CarrierNo} {g : GroupNo} (h : (s.group g).fits) :
    ((s.clearAired c).group g).fits := by
  rw [clearAired_group]
  refine (Group.Restored.of_slots (f := (·.without c)) rfl (fun ph => ?_) (fun _ => rfl)
    fun _ _ => KeySlot.without_isSome).fits h
  cases ph <;> rfl

theorem carrierOff_groupsKept (s : State) (c : CarrierNo) : GroupsKept s (s.carrierOff c) := by
  unfold State.carrierOff
  rw [servedBy_eq]
  obtain ⟨ps, hps, -⟩ := stopProgrammes_eq (s.servedBy c) (servedBy_nodup s c) s
  rw [hps]
  exact .recomputeAll fun g hg => clearAired_fits hg

theorem firstBoundary_groupsKept (s : State) (c : CarrierNo) (b : Time) : GroupsKept s (s.firstBoundary c b) := by
  unfold State.firstBoundary
  dsimp only
  refine .trans _ _ _ ?_ (advance_aside _ c b).groupsKept
  refine .trans _ _ _ ?_ (allocate_groupsKept _ c b)
  refine .recomputeAll fun g hg => ?_
  obtain ⟨cs, h⟩ := gainGroups_shape
    ((s.setCarrier c { s.carrier c with state := .onAir, interval := 1 }).firstInterval c) c b
  rw [h]
  exact hg

theorem boundary_groupsKept (s : State) (c : CarrierNo) : GroupsKept s (s.boundary c) := by
  unfold State.boundary
  split
  · next b _ =>
    split
    · unfold State.takeBoundary
      split
      · exact .refl s
      · exact firstBoundary_groupsKept s c b
      · refine .trans _ _ _ ?_ (advance_aside _ c b).groupsKept
        exact .trans _ _ _ (nextInterval_aside s c false).groupsKept (allocate_groupsKept _ c b)
      · unfold State.drainBoundary
        split
        · exact (Aside.trans _ _ _ (nextInterval_aside s c true) (advance_aside _ c b)).groupsKept
        · exact .trans _ _ _ (endInterval_aside s c).groupsKept (carrierOff_groupsKept _ c)
    · exact .refl s
  · exact .refl s

theorem shrinkCompletion_aside (s : State) (c : CarrierNo) : Aside s (s.shrinkCompletion c) := by
  unfold State.shrinkCompletion
  split
  · exact shrinkNext_aside s c
  · exact .refl s

theorem sliceEmission_aside (s : State) (c : CarrierNo) : Aside s (s.sliceEmission c) := by
  unfold State.sliceEmission
  split
  · exact emitSlice_aside s c
  · exact .refl s

end Sys2Proof.Machine

/-! SUPPORT. Every command keeps what the group records promise, and so every step does (R76 to R109). -/

namespace Sys2Proof.Machine

/-! ### Ingest (R19 to R31) -/

section
variable (s : State)

theorem setLink_aside (l : LinkNo) (k : IngestLink) : Aside s (s.setLink l k) := .of_eq rfl rfl rfl

theorem managerCause_aside (k : ManagerCondition) : Aside s (s.managerCause k) := .of_eq rfl rfl rfl

theorem leaveLocked_aside (l : LinkNo) (next : LinkState) : Aside s (s.leaveLocked l next) := by
  have hends : Aside s (s.endContext l) := by
    unfold State.endContext
    split
    · exact .trans _ _ _ (freeUp_aside s _) (resync_aside _ _)
    · exact .refl s
  unfold State.leaveLocked
  exact .trans _ _ _ (.trans _ _ _ hends (setLink_aside _ l _)) (managerCause_aside _ _)

theorem lossOfSignal_aside (l : LinkNo) : Aside s (s.lossOfSignal l) := by
  unfold State.lossOfSignal
  dsimp only
  split
  · exact setLink_aside s l _
  · exact .trans _ _ _ (setLink_aside s l _) (setLink_aside _ l _)
  · exact .trans _ _ _ (setLink_aside s l _) (leaveLocked_aside _ l _)

theorem missingSync_aside (l : LinkNo) : Aside s (s.missingSync l) := by
  unfold State.missingSync
  split
  · exact leaveLocked_aside s l _
  · exact .refl s

theorem runaway_aside (l : LinkNo) : Aside s (s.runaway l) := by
  unfold State.runaway
  split
  · exact leaveLocked_aside s l _
  · exact .refl s

theorem takeHeader_aside (l : LinkNo) (h : UnitHeader) : Aside s (s.takeHeader l h) := by
  unfold State.takeHeader
  split
  · split
    · exact setLink_aside s l _
    · exact .of_eq rfl rfl rfl
  · exact .of_eq rfl rfl rfl

theorem headerTaken_aside (l : LinkNo) (h : UnitHeader) : Aside s (s.headerTaken l h) := by
  unfold State.headerTaken
  split
  · exact takeHeader_aside s l h
  · exact .refl s

theorem syncMarkFound_aside (l : LinkNo) (h : UnitHeader) : Aside s (s.syncMarkFound l h) := by
  unfold State.syncMarkFound
  split
  · exact .refl s
  · exact .trans _ _ _ (setLink_aside s l _) (takeHeader_aside _ l h)
  · exact headerTaken_aside s l h

theorem cellClaim_aside (l : LinkNo) (stretch : List Byte) : Aside s (s.cellClaim l stretch) := by
  unfold State.cellClaim
  split
  · split
    · split
      · unfold State.exhaust
        refine .trans _ _ _ ?_ (setLink_aside _ l _)
        exact .trans _ _ _ (.trans _ _ _ (freeUp_aside s _) (resync_aside _ _)) (managerCause_aside _ _)
      · exact .of_eq rfl rfl rfl
    · exact .refl s
  · exact .refl s

theorem Programme.checkSequence_stays (k : Programme) (q : BitVec 16) : k.Stays (k.checkSequence q) := by
  unfold Programme.checkSequence
  dsimp only
  split
  · split
    · exact .of_eq rfl rfl
    · exact .trans (Programme.toResync_stays k) (.of_eq rfl rfl)
  · exact .of_eq rfl rfl

theorem placeUnit_aside (u : UnitRecord) : Aside s (s.placeUnit u) := by
  unfold State.placeUnit
  dsimp only
  split
  · exact .setProgramme (.of_eq rfl rfl)
  · split
    · refine .trans _ _ _ ?_ (freeUp_aside _ _)
      exact .setProgramme (.of_eq rfl rfl)
    · exact .trans _ _ _ (freeUp_aside s _) (resync_aside _ _)

theorem unitCompletion_aside (l : LinkNo) : Aside s (s.unitCompletion l) := by
  unfold State.unitCompletion
  dsimp only
  split
  · have hcleared : Aside s (s.setLink l { s.link l with context := .empty }) := setLink_aside s l _
    split
    · refine .trans _ _ _ hcleared ?_
      unfold State.completeUnit
      split
      · exact .trans _ _ _ (.setProgramme (Programme.checkSequence_stays _ _)) (placeUnit_aside _ _)
      · exact freeUp_aside _ _
    · exact hcleared
  · exact .refl s

/-! ### Resets, lines and the clock (R1, R145, R146, R149, R154, R155) -/

/-- A state whose groups are as a reset leaves them. -/
theorem GroupsKept.of_reset {t : State} (h : ∀ g, t.group g = Group.reset) : GroupsKept s t where
  fits g _ := by rw [h]; exact Group.reset_fits
  starts g _ hst := by rw [h] at hst; cases hst

theorem resetBlocks_groupsKept : GroupsKept s s.resetBlocks := .of_reset s reset_group

theorem setLine_aside (q : PortId) (ln : OrderLine) : Aside s (s.setLine q ln) := by
  cases q <;> exact .of_eq rfl rfl rfl

theorem countRefusal_aside (q : PortId) : Aside s (s.countRefusal q) := by
  cases q <;> exact .of_eq rfl rfl rfl

theorem linkDown_groupsKept (q : PortId) : GroupsKept s (s.linkDown q) := by
  unfold State.linkDown
  split
  · unfold State.managerLinkDown
    split
    · exact (setLine_aside s _ _).groupsKept
    · exact Aside.groupsKept (.of_eq rfl rfl rfl)
  · next p =>
    unfold State.accessLinkDown
    dsimp only
    split
    · exact (setLine_aside s _ _).groupsKept
    · exact .trans _ _ _ (setLine_aside s _ _).groupsKept (detachPort_groupsKept _ p)

theorem restartPart_groupsKept : GroupsKept s s.restartPart :=
  .trans _ _ _ (resetBlocks_groupsKept s) (Aside.groupsKept (.of_eq rfl rfl rfl))

theorem restartCompletion_aside : Aside s s.restartCompletion := by
  have idle : Aside s { s with restart := .idle } := .of_eq rfl rfl rfl
  unfold State.restartCompletion
  split
  · exact .refl s
  · dsimp only
    split
    · exact .trans _ _ _ idle (setLine_aside _ _ _)
    · exact .trans _ _ _ idle (setLine_aside _ _ _)

theorem Carrier.drain_state (k : Carrier) : k.drain.state = k.state := by
  unfold Carrier.drain
  split
  · rfl
  · dsimp only
    split <;> rfl

theorem tick_aside : Aside s s.tick := by
  have hclock : Aside s s.tickClock := by
    unfold State.tickClock
    split <;> exact .of_eq rfl rfl rfl
  unfold State.tick
  split
  · exact .refl s
  · refine .trans _ _ _ hclock ⟨fun _ => rfl, fun c => ?_, fun _ => .refl _⟩
    have hdrain : ({ s.tickClock with carriers := s.carriers.map Carrier.drain } : State).carrier c
        = (s.carrier c).drain := Vector.getElem_map ..
    rw [hdrain, Carrier.drain_state]
    exact (hclock.carrier c).symm

theorem idle_aside : Aside s s.idle := by
  unfold State.idle
  split
  · exact tick_aside s
  · exact .of_eq rfl rfl rfl

end

/-! ### Frames (R146, R147) -/

theorem groupsKept_offLine (s : State) : OffLine (GroupsKept s) where
  line t q ln h := .trans _ _ _ h (setLine_aside t q ln).groupsKept
  count t q h := .trans _ _ _ h (countRefusal_aside t q).groupsKept

/-- An order keeps what its effect keeps. -/
theorem takeOrder_groupsKept {s : State} {f : Frame} {o : Order} {effect : State → State × Response}
    (h : GroupsKept s (effect s).1) : GroupsKept s (s.takeOrder f o effect) :=
  (groupsKept_offLine s).takeOrder (.refl s) h

theorem takeAccessOrder_groupsKept {s : State} {f : Frame} {o : Order} {effect : PortNo → State → State × Response}
    (h : ∀ p, GroupsKept s (effect p s).1) : GroupsKept s (s.takeOrder f o (onAccess f effect)) :=
  takeOrder_groupsKept (onAccess_keeps (.refl s) h)

theorem takeRefused_groupsKept (s : State) (p : PortId) (code : Nat) (r r' : RefusalCode) :
    GroupsKept s (s.takeFrame p code r fun s => s.refuse p code r') :=
  (groupsKept_offLine s).takeFrame (.refl s) ((groupsKept_offLine s).refuse _ _ _ _ (.refl s))

theorem takeRestart_groupsKept (s : State) (f : Frame) : GroupsKept s (s.takeRestart f) := by
  refine (groupsKept_offLine s).takeFrame (.refl s) ?_
  split
  · exact (groupsKept_offLine s).refuse _ _ _ _ (.refl s)
  · exact restartPart_groupsKept s

/-- What an order does past a check keeps what it keeps; a refusal changes nothing. -/
theorem GroupsKept.unlessRefused {s : State} {b : Prop} [Decidable b] {r : RefusalCode} {x : State × Response}
    (h : ¬ b → GroupsKept s x.1) : GroupsKept s (if b then refused s r else x).1 := by
  split
  · exact .refl s
  · next hb => exact h hb

/-! ### The orders -/

section
variable (s : State)

theorem defineCarrier_groupsKept (carrier rate interval reserve : Nat) :
    GroupsKept s (defineCarrier carrier rate interval reserve s).1 := by
  unfold defineCarrier
  split
  · exact .refl s
  · exact .unlessRefused fun _ => .unlessRefused fun _ => .unlessRefused fun _ => .unlessRefused fun _ =>
      Aside.groupsKept (.setCarrier Iff.rfl)

theorem setCarrierOn_groupsKept (carrier : Nat) (target : Selector) :
    GroupsKept s (setCarrierOn carrier target s).1 := by
  unfold setCarrierOn
  split
  · dsimp only
    split
    · next h => exact Aside.groupsKept (.setCarrier (iff_of_false nofun (by rw [h.1]; decide)))
    · exact .refl s
  · exact .refl s

theorem setCarrierOff_groupsKept (carrier : Nat) : GroupsKept s (setCarrierOff carrier s).1 := by
  unfold setCarrierOff
  split
  · exact .refl s
  · dsimp only
    split
    · dsimp only
      exact carrierOff_groupsKept s _
    · dsimp only
      exact .recomputeAll fun _ hg => hg
    · exact .refl s
    · exact .refl s

theorem setAllowance_groupsKept (port carrier allowance : Nat) :
    GroupsKept s (setAllowance port carrier allowance s).1 := by
  unfold setAllowance
  split
  · exact .unlessRefused fun _ => .unlessRefused fun _ => .unlessRefused fun _ =>
      Aside.groupsKept (.setCarrier Iff.rfl)
  · exact .refl s

/-- A programme that is neither LIVE nor RESYNC stays neither. -/
theorem Programme.Stays.of_not_serving {k k' : Programme} (h : k.serving = false) (h' : k'.serving = false) :
    k.Stays k' := ⟨h'.trans h.symm, fun hs => by rw [h] at hs; cases hs⟩

theorem defineProgramme_groupsKept (programme carrier group weight floor cap : Nat) :
    GroupsKept s (defineProgramme programme carrier group weight floor cap s).1 := by
  unfold defineProgramme
  split
  · next p d _ _ =>
    refine .unlessRefused fun hst => ?_
    split
    · exact .refl s
    · refine .unlessRefused fun _ => .unlessRefused fun _ => .unlessRefused fun _ => .unlessRefused fun _ =>
        Aside.groupsKept (.setProgramme ?_)
      have hidle : (s.programme p).state = .unused ∨ (s.programme p).state = .idle := by
        simpa [or_iff_not_imp_left] using hst
      refine .of_not_serving ?_ ?_
      · rcases hidle with h | h <;> rw [Programme.serving, h] <;> rfl
      · unfold Programme.define
        rcases hidle with h | h <;> simp [h, Programme.serving]
  · exact .refl s

/-! ### Programmes that become RESYNC or IDLE (R15, R16) -/

theorem Programme.carries_other {k : Programme} {c : CarrierNo} {g : GroupNo} (h : k.group ≠ some g) :
    k.carries c g = false := by
  have hne : (k.group == some g) = false := beq_eq_false_iff_ne.2 h
  rw [Programme.carries, hne, Bool.and_false]

/-- A programme that keeps its definition makes no carrier relevant, or not, to a group that is not its own (R77). -/
theorem relevant_setProgramme {p : ProgrammeNo} {k : Programme} (hd : k.definition = (s.programme p).definition)
    {x : GroupNo} (hx : (s.programme p).group ≠ some x) : (s.setProgramme p k).relevant x = s.relevant x := by
  have hk : k.group = (s.programme p).group := by rw [Programme.group, hd]; rfl
  refine relevant_of_carries (fun _ => Iff.rfl) fun q c => ?_
  rw [State.setProgramme_programme]
  split
  · next hq => rw [hq, Programme.carries_other hx, Programme.carries_other (hk ▸ hx)]
  · rfl

/-- A programme without a group. -/
theorem setProgramme_groupsKept {p : ProgrammeNo} {k : Programme} (hd : k.definition = (s.programme p).definition)
    (hx : (s.programme p).group = none) : GroupsKept s (s.setProgramme p k) where
  fits _ hg := hg
  starts x := startFits_congr rfl (relevant_setProgramme s hd (by rw [hx]; nofun))

/-- A programme of a group, which is recomputed. -/
theorem setProgramme_recomputed {p : ProgrammeNo} {k : Programme} {g : GroupNo} {u : State}
    (hd : k.definition = (s.programme p).definition) (hx : (s.programme p).group = some g)
    (hu : Aside (s.setProgramme p k) u) : GroupsKept s (u.recompute g) := by
  refine .recomputed (fun x _ => hu.group x) (fun x hne => ?_) (fun hg => by rw [hu.group]; exact hg) (.refl _)
  rw [hu.relevant]
  refine relevant_setProgramme s hd ?_
  rw [hx]
  exact fun h => hne (Option.some.inj h).symm

theorem gainGroup_aside (c : CarrierNo) (g : GroupNo) (due : Time) : Aside s (s.gainGroup c g due) := by
  refine .setCarrier (iff_of_eq (congrArg (· = _) ?_))
  exact foldl_keeps (fun k : Carrier => k.state) Carrier.place (fun _ _ => rfl) _ _

theorem goLive_groupsKept (p : ProgrammeNo) : GroupsKept s (s.goLive p) := by
  unfold State.goLive
  dsimp only
  split
  · next d hd =>
    split
    · next g hg =>
      refine setProgramme_recomputed s (k := { s.programme p with state := .resync, expected := none }) rfl
        (by rw [Programme.group, hd]; exact hg) ?_
      split
      · exact gainGroup_aside _ _ _ _
      · exact .refl _
    · next hg => exact setProgramme_groupsKept s rfl (by rw [Programme.group, hd]; exact hg)
  · next hd => exact setProgramme_groupsKept s rfl (by rw [Programme.group, hd]; rfl)

theorem setProgrammeLive_groupsKept (programme : Nat) (target : Selector) :
    GroupsKept s (setProgrammeLive programme target s).1 := by
  unfold setProgrammeLive
  split
  · split
    · exact goLive_groupsKept s _
    · exact .refl s
  · exact .refl s

theorem goIdle_groupsKept (p : ProgrammeNo) : GroupsKept s (s.goIdle p) := by
  unfold State.goIdle
  dsimp only
  have hempty := (emptyQueue_aside s p).groupsKept
  generalize s.emptyQueue p = t at hempty ⊢
  refine .trans _ _ _ hempty ?_
  split
  · next d hd =>
    split
    · next g hg =>
      refine setProgramme_recomputed t (k := { t.programme p with state := .idle, held := 0 }) rfl
        (by rw [Programme.group, hd]; exact hg) ?_
      split
      · exact .refl _
      · exact .setCarrier Iff.rfl
    · next hg => exact setProgramme_groupsKept t rfl (by rw [Programme.group, hd]; exact hg)
  · next hd => exact setProgramme_groupsKept t rfl (by rw [Programme.group, hd]; rfl)

theorem setProgrammeIdle_groupsKept (programme : Nat) : GroupsKept s (setProgrammeIdle programme s).1 := by
  unfold setProgrammeIdle
  split
  · exact .refl s
  · split
    · exact goIdle_groupsKept s _
    · exact .refl s

theorem setProgrammeUnused_groupsKept (programme : Nat) : GroupsKept s (setProgrammeUnused programme s).1 := by
  unfold setProgrammeUnused
  split
  · exact .refl s
  · dsimp only
    split
    · next h =>
      refine Aside.groupsKept (.setProgramme (.of_not_serving ?_ rfl))
      rw [Programme.serving, h]
      rfl
    · exact .refl s

/-! ### Groups (R80 to R82, R94) -/

theorem defineGroup_groupsKept (group : Nat) (roster : BitVec 8) (preference : List Nat)
    (repeatMs limit policy : Nat) : GroupsKept s (defineGroup group roster preference repeatMs limit policy s).1 := by
  unfold defineGroup
  split
  · next g d _ hd =>
    have hlimit := toGroupDef_limit hd
    refine .trans _ _ _ ?_ (resolve_groupsKept _ _)
    split
    · exact defineFree_groupsKept hlimit
    · next hst => exact redefine_groupsKept hst hlimit
  · exact .refl s

theorem releaseGroup_groupsKept (group : Nat) : GroupsKept s (releaseGroup group s).1 := by
  unfold releaseGroup
  split
  · exact .refl s
  · split
    · exact .refl s
    · exact release_groupsKept s _

theorem restartGroupOrder_groupsKept (group : Nat) : GroupsKept s (restartGroup group s).1 := by
  unfold restartGroup
  split
  · exact .refl s
  · split
    · next h => exact restartGroup_groupsKept (by rcases h with h | h <;> rw [h] <;> rfl)
    · exact .refl s

/-! ### Access ports (R84, R87, R88, R99 to R103, R108, R125 to R128) -/

theorem planAck_groupsKept (group number : Nat) (o : Offer) (p : PortNo) :
    GroupsKept s (planAck group number o p s).1 := by
  unfold planAck
  split
  · exact .refl s
  · refine .unlessRefused fun _ => .unlessRefused fun hrole => .unlessRefused fun _ => ?_
    dsimp only
    split
    · exact join_groupsKept (not_not.1 hrole)
    · exact .trans _ _ _ (setPort_aside s p _).groupsKept (resolveFor_groupsKept _ p)

theorem fetchPending_aside (group : Nat) (p : PortNo) : Aside s (fetchPending group p s).1 := by
  unfold fetchPending
  split
  · split
    · exact .refl s
    · split
      · exact setPort_aside s p _
      · exact .refl s
  · exact .refl s

theorem slotOfSerial_slot {grp : Group} {serial : Serial} {ph : Phase} {k : KeySlot}
    (h : grp.slotOfSerial serial = some (ph, k)) : grp.slot ph = some k := by
  have hpending : grp.pendingSlot.bind (fun q => if q.serial = serial then some (grp.pendingPhase, q) else none)
      = some (ph, k) → grp.slot ph = some k := fun hbind => by
    obtain ⟨q, hq, hsome⟩ := Option.bind_eq_some_iff.1 hbind
    split at hsome
    · cases hsome
      exact hq
    · cases hsome
  unfold Group.slotOfSerial at h
  split at h
  · next ph' k' ha =>
    split at h
    · cases h
      obtain ⟨x, -, hx⟩ := Option.bind_eq_some_iff.1 ha
      obtain ⟨y, hy, hxy⟩ := Option.map_eq_some_iff.1 hx
      cases hxy
      exact hy
    · exact hpending h
  · exact hpending h

theorem submitAccess_groupsKept (group : Nat) (serial : Serial) (body : List Byte) (p : PortNo) :
    GroupsKept s (submitAccess group serial body p s).1 := by
  unfold submitAccess
  split
  · exact .refl s
  · refine .unlessRefused fun hact => ?_
    split
    · exact .refl s
    · next hslot =>
      split
      · dsimp only
        exact storePacket_groupsKept body (slotOfSerial_slot hslot) (by simpa using hact)
      · exact .refl s

theorem openBatch_groupsKept (present count : Nat) (p : PortNo) : GroupsKept s (openBatch present count p s).1 := by
  unfold openBatch
  have hport : ∀ k, GroupsKept s (s.setPort p k) := fun k => (setPort_aside s p k).groupsKept
  split
  · exact .refl s
  · dsimp only
    exact hport _

theorem detach_groupsKept (p : PortNo) : GroupsKept s (detach p s).1 := by
  unfold detach
  dsimp only
  exact detachPort_groupsKept s p

theorem submitSubscriber_groupsKept (body : List Byte) (mask : BitVec 8) (urgent : Nat) (p : PortNo) :
    GroupsKept s (submitSubscriber body mask urgent p s).1 := by
  unfold submitSubscriber
  split
  · dsimp only
    split
    · exact .refl s
    · exact (setPort_aside s p _).groupsKept
    · exact .unlessRefused fun _ => .unlessRefused fun _ => .unlessRefused fun _ => (setPort_aside s p _).groupsKept
  · exact .refl s

theorem readCondition_aside (f : Frame) : Aside s (readCondition f s).1 := by
  unfold readCondition
  split
  · exact .of_eq rfl rfl rfl
  · exact setPort_aside s _ _

theorem acknowledgeBatchEnd_aside (f : Frame) (kind : Selector) : Aside s (acknowledgeBatchEnd f kind s).1 := by
  unfold acknowledgeBatchEnd
  split
  · exact setPort_aside s _ _
  · exact .refl s

theorem acknowledgeGroupAlert_aside (f : Frame) (object : Nat) : Aside s (acknowledgeGroupAlert f object s).1 := by
  unfold acknowledgeGroupAlert
  split
  · dsimp only
    split
    · exact .refl s
    · exact .of_eq rfl rfl rfl
  · exact .refl s

theorem acknowledgeCarrierAlert_aside (f : Frame) (object : Nat) : Aside s (acknowledgeCarrierAlert f object s).1 := by
  unfold acknowledgeCarrierAlert
  split
  · dsimp only
    split
    · exact .refl s
    · exact .of_eq rfl rfl rfl
  · exact .refl s

end

/-! ### Every command, and every step -/

/-- No command breaks what a group record promises. -/
theorem exec_groupsKept (c : Instr) (s : State) : ∃ t, exec c s = .next t ∧ GroupsKept s t := by
  cases c
  case defineCarrier => exact ⟨_, rfl, takeOrder_groupsKept (defineCarrier_groupsKept s _ _ _ _)⟩
  case setCarrierOn => exact ⟨_, rfl, takeOrder_groupsKept (setCarrierOn_groupsKept s _ _)⟩
  case setCarrierOff => exact ⟨_, rfl, takeOrder_groupsKept (setCarrierOff_groupsKept s _)⟩
  case readCarrier => exact ⟨_, rfl, takeOrder_groupsKept (.of_state (readCarrier_state s _))⟩
  case defineProgramme => exact ⟨_, rfl, takeOrder_groupsKept (defineProgramme_groupsKept s _ _ _ _ _ _)⟩
  case setProgrammeLive => exact ⟨_, rfl, takeOrder_groupsKept (setProgrammeLive_groupsKept s _ _)⟩
  case setProgrammeIdle => exact ⟨_, rfl, takeOrder_groupsKept (setProgrammeIdle_groupsKept s _)⟩
  case setProgrammeUnused => exact ⟨_, rfl, takeOrder_groupsKept (setProgrammeUnused_groupsKept s _)⟩
  case readProgramme => exact ⟨_, rfl, takeOrder_groupsKept (.of_state (readProgramme_state s _))⟩
  case defineGroup => exact ⟨_, rfl, takeOrder_groupsKept (defineGroup_groupsKept s _ _ _ _ _ _)⟩
  case releaseGroup => exact ⟨_, rfl, takeOrder_groupsKept (releaseGroup_groupsKept s _)⟩
  case restartGroup => exact ⟨_, rfl, takeOrder_groupsKept (restartGroupOrder_groupsKept s _)⟩
  case readGroup => exact ⟨_, rfl, takeOrder_groupsKept (.of_state (readGroup_state s _))⟩
  case setAllowance => exact ⟨_, rfl, takeOrder_groupsKept (setAllowance_groupsKept s _ _ _)⟩
  case restartPart => exact ⟨_, rfl, takeRestart_groupsKept s _⟩
  case restartCompletion => exact ⟨_, rfl, (restartCompletion_aside s).groupsKept⟩
  case attach => exact ⟨_, rfl, takeAccessOrder_groupsKept fun p => attach_groupsKept s _ p⟩
  case detach => exact ⟨_, rfl, takeAccessOrder_groupsKept fun p => detach_groupsKept s p⟩
  case planAck => exact ⟨_, rfl, takeAccessOrder_groupsKept fun p => planAck_groupsKept s _ _ _ p⟩
  case fetchKeyActive => exact ⟨_, rfl, takeAccessOrder_groupsKept fun p => .of_state (fetchActive_state s _ _ p)⟩
  case fetchKeyPending => exact ⟨_, rfl, takeAccessOrder_groupsKept fun p => (fetchPending_aside s _ p).groupsKept⟩
  case submitAccess => exact ⟨_, rfl, takeAccessOrder_groupsKept fun p => submitAccess_groupsKept s _ _ _ p⟩
  case probeGroup => exact ⟨_, rfl, takeAccessOrder_groupsKept fun p => .of_state (probeGroup_state s _ p)⟩
  case openBatch => exact ⟨_, rfl, takeAccessOrder_groupsKept fun p => openBatch_groupsKept s _ _ p⟩
  case submitSubscriber => exact ⟨_, rfl, takeAccessOrder_groupsKept fun p => submitSubscriber_groupsKept s _ _ _ p⟩
  case readTime => exact ⟨_, rfl, takeOrder_groupsKept (.refl s)⟩
  case readCondition => exact ⟨_, rfl, takeOrder_groupsKept (readCondition_aside s _).groupsKept⟩
  case readSummary => exact ⟨_, rfl, takeOrder_groupsKept (.of_state (readSummary_state s _))⟩
  case acknowledgeBatchEnd => exact ⟨_, rfl, takeOrder_groupsKept (acknowledgeBatchEnd_aside s _ _).groupsKept⟩
  case acknowledgeGroupAlert => exact ⟨_, rfl, takeOrder_groupsKept (acknowledgeGroupAlert_aside s _ _).groupsKept⟩
  case acknowledgeCarrierAlert =>
    exact ⟨_, rfl, takeOrder_groupsKept (acknowledgeCarrierAlert_aside s _ _).groupsKept⟩
  case unknownOrderCode => exact ⟨_, rfl, takeRefused_groupsKept s _ _ _ _⟩
  case framingFailure => exact ⟨_, rfl, takeRefused_groupsKept s _ _ _ _⟩
  case replySent => exact ⟨_, rfl, (setLine_aside s _ _).groupsKept⟩
  case orderLinkUp => exact ⟨_, rfl, (setLine_aside s _ _).groupsKept⟩
  case orderLinkDown => exact ⟨_, rfl, linkDown_groupsKept s _⟩
  case signalDetected => exact ⟨_, rfl, (setLink_aside s _ _).groupsKept⟩
  case lossOfSignal => exact ⟨_, rfl, (lossOfSignal_aside s _).groupsKept⟩
  case syncMarkFound => exact ⟨_, rfl, (syncMarkFound_aside s _ _).groupsKept⟩
  case headerTaken => exact ⟨_, rfl, (headerTaken_aside s _ _).groupsKept⟩
  case cellClaim => exact ⟨_, rfl, (cellClaim_aside s _ _).groupsKept⟩
  case missingSyncMark => exact ⟨_, rfl, (missingSync_aside s _).groupsKept⟩
  case runawayUnit => exact ⟨_, rfl, (runaway_aside s _).groupsKept⟩
  case unitCompletion => exact ⟨_, rfl, (unitCompletion_aside s _).groupsKept⟩
  case boundary => exact ⟨_, rfl, boundary_groupsKept s _⟩
  case shrinkCompletion => exact ⟨_, rfl, (shrinkCompletion_aside s _).groupsKept⟩
  case sliceEmission => exact ⟨_, rfl, (sliceEmission_aside s _).groupsKept⟩
  case drawEvent => exact ⟨_, rfl, drawEvent_groupsKept s _⟩
  case startEvent => exact ⟨_, rfl, startEvent_groupsKept s _⟩
  case changeoverEvent => exact ⟨_, rfl, changeover_groupsKept s _⟩
  case powerOn => exact ⟨_, rfl, .trans _ _ _ (resetBlocks_groupsKept s) (Aside.groupsKept (.of_eq rfl rfl rfl))⟩
  case resetInputLow =>
    exact ⟨_, rfl, .trans _ _ _ (resetBlocks_groupsKept s) (Aside.groupsKept (.of_eq rfl rfl rfl))⟩

theorem step_groupsKept {s t : State} (h : step s = .next t) : GroupsKept s t := by
  unfold step at h
  split at h
  · next c rest _ =>
    obtain ⟨u, hu, hkept⟩ := exec_groupsKept c { s with pending := rest }
    cases hu.symm.trans h
    exact .trans _ _ _ (Aside.groupsKept (.of_eq (t := { s with pending := rest }) rfl rfl rfl)) hkept
  · cases h
    exact (idle_aside s).groupsKept

end Sys2Proof.Machine

namespace Sys2Proof.Settled

open Sys2Proof.Machine

/-- Settles O55: what every command keeps of the group records (`step_groupsKept`), read for every group. -/
theorem groupsAreKept : Obligations.GroupsAreKept := fun _ _ hstep =>
  have h := step_groupsKept hstep
  ⟨fun hfits g => h.fits g (hfits g), fun hstarts g => h.starts g (hstarts g)⟩

end Sys2Proof.Settled

/-! SUPPORT. What the part does to its groups, carriers, programmes and links leaves every order line as it is: the
lines are written by what reaches or leaves an order port alone (R145, R146). -/

namespace Sys2Proof.Machine

/-- From `s` to `t` no order line changes. -/
def LinesKept (s t : State) : Prop := ∀ q, t.line q = s.line q

section
variable {s t : State}

theorem LinesKept.refl (s : State) : LinesKept s s := fun _ => rfl

theorem LinesKept.trans (s t u : State) (h : LinesKept s t) (h' : LinesKept t u) : LinesKept s u :=
  fun q => (h' q).trans (h q)

/-- A fold keeps the lines that each of its steps keeps. -/
theorem LinesKept.foldl {α : Type} {f : State → α → State} (h : ∀ s a, LinesKept s (f s a)) (l : List α) (s : State) :
    LinesKept s (l.foldl f s) := foldl_rel LinesKept .refl .trans f h l s

/-- What is done or not done keeps the lines that doing it keeps. -/
theorem LinesKept.ite (b : Prop) [Decidable b] (f : State → State) (h : LinesKept s t) (hf : ∀ u, LinesKept u (f u)) :
    LinesKept s (if b then f t else t) := by
  split
  · exact .trans _ _ _ h (hf t)
  · exact h

theorem LinesKept.of_eq (hm : t.manager.line = s.manager.line) (ha : t.access = s.access) : LinesKept s t
  | .manager => hm
  | .access q => congrArg (·[q.val].line) ha

theorem LinesKept.of_state (h : t = s) : LinesKept s t := h ▸ .refl s

theorem LinesKept.setPort {p : PortNo} {k : AccessPort} (h : k.line = (s.port p).line) : LinesKept s (s.setPort p k)
  | .manager => rfl
  | .access q => by
      change ((s.setPort p k).port q).line = (s.port q).line
      rw [State.setPort_port]
      split
      · next hq => rw [hq, h]
      · rfl

/-- A port is written together with the attach order list. -/
theorem LinesKept.writePort {p : PortNo} {k : AccessPort} (order : List PortNo) (h : k.line = (s.port p).line) :
    LinesKept s { s.setPort p k with attachOrder := order } :=
  .trans _ _ _ (.setPort h) (.of_eq rfl rfl)

theorem GroupsOnly.linesKept : GroupsOnly s t → LinesKept s t := by
  rintro ⟨_, rfl⟩; exact .of_eq rfl rfl

theorem CarriersOnly.linesKept : CarriersOnly s t → LinesKept s t := by
  rintro ⟨_, rfl⟩; exact .of_eq rfl rfl

theorem OutputOnly.linesKept : OutputOnly s t → LinesKept s t := by
  rintro ⟨_, _, _, _, rfl⟩; exact .of_eq rfl rfl

end

/-! ### Single writes -/

section
variable (s : State)

theorem setGroup_linesKept (g : GroupNo) (k : Group) : LinesKept s (s.setGroup g k) := .of_eq rfl rfl

theorem setCarrier_linesKept (c : CarrierNo) (k : Carrier) : LinesKept s (s.setCarrier c k) := .of_eq rfl rfl

theorem setProgramme_linesKept (p : ProgrammeNo) (k : Programme) : LinesKept s (s.setProgramme p k) := .of_eq rfl rfl

theorem setLink_linesKept (l : LinkNo) (k : IngestLink) : LinesKept s (s.setLink l k) := .of_eq rfl rfl

theorem freeUp_linesKept (cells : List CellNo) : LinesKept s (s.freeUp cells) := .of_eq rfl rfl

theorem setGroupAlert_linesKept (g : GroupNo) (v : Bool) : LinesKept s (s.setGroupAlert g v) := .of_eq rfl rfl

theorem setCarrierAlert_linesKept (c : CarrierNo) (v : Bool) : LinesKept s (s.setCarrierAlert c v) := .of_eq rfl rfl

theorem managerCause_linesKept (k : ManagerCondition) : LinesKept s (s.managerCause k) := .of_eq rfl rfl

theorem setKeyWaiting_linesKept (p : PortNo) (g : GroupNo) (v : Bool) : LinesKept s (s.setKeyWaiting p g v) :=
  .setPort rfl

theorem setPlanWaiting_linesKept (p : PortNo) (g : GroupNo) (v : Bool) : LinesKept s (s.setPlanWaiting p g v) :=
  .setPort rfl

theorem addExcluded_linesKept (p : PortNo) (g : GroupNo) : LinesKept s (s.addExcluded p g) := .setPort rfl

theorem addLate_linesKept (p : PortNo) (g : GroupNo) : LinesKept s (s.addLate p g) := .setPort rfl

theorem keepEntries_linesKept (keep : CarouselEntry → Bool) : LinesKept s (s.keepEntries keep) := .of_eq rfl rfl

theorem recompute_linesKept (g : GroupNo) : LinesKept s (s.recompute g) := (recompute_shape s g).linesKept

/-! ### Flags of several ports -/

theorem raiseKeyWaiting_linesKept (g : GroupNo) : LinesKept s (s.raiseKeyWaiting g) :=
  .foldl (fun t p => .ite _ (fun u => u.setKeyWaiting p g true) (.refl t) fun u => setKeyWaiting_linesKept u p g _) _ s

theorem clearKeyWaiting_linesKept (g : GroupNo) : LinesKept s (s.clearKeyWaiting g) :=
  .foldl (fun t p => setKeyWaiting_linesKept t p g _) _ s

theorem raiseLate_linesKept (g : GroupNo) : LinesKept s (s.raiseLate g) :=
  .foldl (fun t p => .ite _ (fun u => u.addLate p g) (.refl t) fun u => addLate_linesKept u p g) _ s

theorem raiseExcluded_linesKept (g : GroupNo) (before : Vector Role 4) (fault : Bool) :
    LinesKept s (s.raiseExcluded g before fault) :=
  .foldl (fun t p => .ite _ (fun u => u.addExcluded p g) (.refl t) fun u => addExcluded_linesKept u p g) _ s

theorem raisePlanWaiting_linesKept (g : GroupNo) : LinesKept s (s.raisePlanWaiting g) :=
  .foldl (fun t p => .ite _ (fun u => u.setPlanWaiting p g true) (.refl t)
    fun u => setPlanWaiting_linesKept u p g _) _ s

/-! ### Roles and resolutions (R78, R99 to R103) -/

theorem setRole_linesKept (g : GroupNo) (p : PortNo) (r : Role) : LinesKept s (s.setRole g p r) := by
  unfold State.setRole
  refine .trans _ _ _ ?_ (recompute_linesKept _ g)
  refine .ite _ (fun t => t.setPlanWaiting p g false) ?_ fun u => setPlanWaiting_linesKept u p g _
  refine .ite _ (fun t => t.setKeyWaiting p g true) ?_ fun u => setKeyWaiting_linesKept u p g _
  refine .ite _ (fun t => (t.deleteMemberPackets g p).setKeyWaiting p g false) (setGroup_linesKept s g _) fun u => ?_
  exact .trans _ _ _ (.of_eq rfl rfl) (setKeyWaiting_linesKept _ p g _)

theorem resolve_linesKept (g : GroupNo) : LinesKept s (s.resolve g) := by
  unfold State.resolve
  dsimp only
  split
  · exact .refl s
  · split
    · exact .refl s
    · refine .ite _ (fun t => t.setGroupAlert g true) ?_ fun u => setGroupAlert_linesKept u g _
      refine .trans _ _ _ ?_ (setGroup_linesKept _ g _)
      refine .trans _ _ _ ?_ (raisePlanWaiting_linesKept _ g)
      refine .trans _ _ _ ?_ (raiseExcluded_linesKept _ g _ _)
      exact .foldl (fun t p => setRole_linesKept t g p _) _ s

theorem resolveFor_linesKept (p : PortNo) : LinesKept s (s.resolveFor p) :=
  .foldl (fun t g => .ite _ (fun u => u.resolve g) (.refl t) fun u => resolve_linesKept u g) _ s

theorem leaveGroups_linesKept (p : PortNo) : LinesKept s (s.leaveGroups p) :=
  .foldl (fun t g => .ite _ (fun u => u.setRole g p .absent) (.refl t) fun u => setRole_linesKept u g p _) _ s

/-- A port leaves the attach order list with its offer (R101). -/
theorem leaveOrder_linesKept (p : PortNo) :
    LinesKept s { s.setPort p { s.port p with state := .detached, offer := none } with
      attachOrder := s.attachOrder.filter (fun q => !(q == p)) } := .writePort _ rfl

theorem detachPort_linesKept (p : PortNo) : LinesKept s (s.detachPort p) := by
  unfold State.detachPort
  dsimp only
  refine .trans _ _ _ ?_ (resolveFor_linesKept _ p)
  refine .trans _ _ _ ?_ (.setPort ?_)
  · exact .trans _ _ _ (leaveOrder_linesKept s p) (leaveGroups_linesKept _ p)
  · generalize State.port _ p = k
    rfl

/-! ### Keys (R79, R84 to R94) -/

theorem drawPending_linesKept (g : GroupNo) (serial : Serial) : LinesKept s (s.drawPending g serial) := by
  obtain ⟨_, _, h, -⟩ := drawKey_spec s ((s.group g).activeSlot.map (·.2.key))
  unfold State.drawPending
  rw [h]
  refine .trans _ _ _ ?_ (raiseKeyWaiting_linesKept _ g)
  refine .trans _ _ _ ?_ (recompute_linesKept _ g)
  exact .of_eq rfl rfl

theorem drawEvent_linesKept (g : GroupNo) : LinesKept s (s.drawEvent g) := by
  unfold State.drawEvent
  dsimp only
  split
  · exact .trans _ _ _ (drawPending_linesKept s g _) (setGroup_linesKept _ g _)
  · exact .refl s

theorem startEvent_linesKept (g : GroupNo) : LinesKept s (s.startEvent g) := by
  unfold State.startEvent
  dsimp only
  split
  · exact .trans _ _ _ (setGroup_linesKept s g _) (clearKeyWaiting_linesKept _ g)
  · exact .refl s

theorem deferChangeover_linesKept (g : GroupNo) : LinesKept s (s.deferChangeover g) := by
  unfold State.deferChangeover
  dsimp only
  refine .ite _ (fun t => t.addGroupFrozen g) ?_ fun t => managerCause_linesKept t _
  refine .trans _ _ _ ?_ (setGroupAlert_linesKept _ g true)
  exact .trans _ _ _ (setGroup_linesKept s g _) (raiseLate_linesKept _ g)

theorem changeover_linesKept (g : GroupNo) : LinesKept s (s.changeover g) := by
  unfold State.changeover
  dsimp only
  split
  · split
    · unfold State.swapSlots
      refine .trans _ _ _ ?_ (clearKeyWaiting_linesKept _ g)
      exact .trans _ _ _ (setGroup_linesKept s g _) (keepEntries_linesKept _ _)
    · exact deferChangeover_linesKept s g
  · exact .refl s

theorem firstAgreement_linesKept (g : GroupNo) : LinesKept s (s.firstAgreement g) := by
  obtain ⟨_, _, h, -⟩ := drawKey_spec s none
  unfold State.firstAgreement
  rw [h]
  refine .trans _ _ _ ?_ (raiseKeyWaiting_linesKept _ g)
  refine .trans _ _ _ ?_ (recompute_linesKept _ g)
  exact .of_eq rfl rfl

theorem join_linesKept (g : GroupNo) (p : PortNo) : LinesKept s (s.join g p) := by
  refine .ite _ (fun t => t.agree g) ?_ fun u => ?_
  · exact .trans _ _ _ (setRole_linesKept s g p _) (setPlanWaiting_linesKept _ p g _)
  · exact .ite _ (fun t => t.firstAgreement g) (setGroup_linesKept u g _) fun t => firstAgreement_linesKept t g

theorem redefine_linesKept (g : GroupNo) (d : GroupDef) : LinesKept s (s.redefine g d) := by
  have hroster : ∀ t : State, LinesKept t (t.changeRoster g d.roster) := fun t =>
    .foldl (fun u p => by
      dsimp only
      split <;> split
      · exact setRole_linesKept u g p _
      · exact .refl u
      · exact .refl u
      · exact setRole_linesKept u g p _) _ t
  have hlimit : ∀ t : State, LinesKept t (t.changeLimit g d.limit) := fun t => by
    unfold State.changeLimit
    dsimp only
    split
    · split <;> exact .of_eq rfl rfl
    · exact setGroup_linesKept t g _
    · exact setGroup_linesKept t g _
  exact .trans _ _ _ (.trans _ _ _ (setGroup_linesKept s g _) (hroster _)) (hlimit _)

theorem release_linesKept (g : GroupNo) : LinesKept s (s.release g) := by
  unfold State.release
  refine .trans _ _ _ ?_ (.foldl (fun t p => ?_) _ _)
  · exact .trans _ _ _ (setGroup_linesKept s g _) (keepEntries_linesKept _ _)
  · exact .trans _ _ _ (setKeyWaiting_linesKept t p g _) (setPlanWaiting_linesKept _ p g _)

theorem restartGroup_linesKept (g : GroupNo) : LinesKept s (s.restartGroup g) :=
  .trans _ _ _ (.trans _ _ _ (keepEntries_linesKept s _) (drawPending_linesKept _ g _)) (setGroup_linesKept _ g _)

theorem storePacket_linesKept (g : GroupNo) (ph : Phase) (k : KeySlot) (p : PortNo) (body : List Byte) :
    LinesKept s (s.storePacket g ph k p body) := by
  unfold State.storePacket
  refine .trans _ _ _ ?_ (recompute_linesKept _ g)
  exact .trans _ _ _ (setGroup_linesKept s g _) (placeEverywhere_shape _ _).linesKept

/-! ### Allocation events (R37 to R59, R118, R119, R129) -/

theorem takeFrom_linesKept (c : CarrierNo) (p : PortNo) : LinesKept s (s.takeFrom c p).2 := .setPort rfl

theorem subscriberTake_linesKept (c : CarrierNo) : LinesKept s (s.subscriberTake c).2 := by
  unfold State.subscriberTake
  refine foldl_rel (fun x y : List SubscriberCopy × State => LinesKept x.2 y.2) (fun _ => .refl _)
    (fun _ _ _ => .trans _ _ _) _ ?_ _ ([], s)
  exact fun acc p => takeFrom_linesKept acc.2 c p

theorem accessTake_linesKept (c : CarrierNo) (b : Time) : LinesKept s (s.accessTake c b).2 :=
  foldl_rel (fun x y : List AccessCopy × State => LinesKept x.2 y.2) (fun _ => .refl _) (fun _ _ _ => .trans _ _ _) _
    (fun _ _ => .trans _ _ _ (.of_eq rfl rfl) (reportAiring_shape _ _ _ _ _).linesKept) _ ([], s)

theorem stage3_linesKept (c : CarrierNo) (v : Event) (p : ProgrammeNo) :
    LinesKept v.state (Event.stage3 c v p).state := by
  unfold Event.stage3
  dsimp only
  split
  · split
    · exact .of_eq rfl rfl
    · split <;> exact .of_eq rfl rfl
  · exact .refl _

theorem demote_linesKept (c : CarrierNo) (v : Event) (x : Candidate) :
    LinesKept v.state (Event.demote c v x).state := by
  unfold Event.demote Event.dropBridge
  split
  · exact .of_eq rfl rfl
  · exact .of_eq rfl rfl
  · split <;> exact .of_eq rfl rfl

theorem select_linesKept (v : Event) (c : CarrierNo) (pool : Nat) :
    LinesKept v.state (v.select c pool).1.state := by
  have events {α : Type} {f : Event → α → Event} (h : ∀ v a, LinesKept v.state (f v a).state) (l : List α)
      (v : Event) : LinesKept v.state (l.foldl f v).state :=
    foldl_rel (fun v w : Event => LinesKept v.state w.state) (fun _ => .refl _) (fun _ _ _ => .trans _ _ _) f h l v
  have hheld : ∀ t x, LinesKept t (clearHeld t x) := fun t x => by
    unfold clearHeld
    split
    · exact setProgramme_linesKept t _ _
    · exact .refl t
  unfold Event.select
  dsimp only
  refine .trans _ _ _ ?_ (.foldl hheld _ _)
  exact .trans _ _ _ (events (stage3_linesKept c) _ v) (events (demote_linesKept c) _ _)

theorem allocate_linesKept (c : CarrierNo) (b : Time) : LinesKept s (s.allocate c b) := by
  unfold State.allocate
  have hA := accessTake_linesKept s c b
  generalize s.accessTake c b = A at hA ⊢
  obtain ⟨access, s₁⟩ := A
  have hB := subscriberTake_linesKept s₁ c
  dsimp only at hA ⊢
  generalize s₁.subscriberTake c = B at hB ⊢
  obtain ⟨subs, s₂⟩ := B
  generalize (s.carrier c).budget - 1 - accessSlices access - subs.length = pool
  have hV := select_linesKept ⟨s₂, s.directoryRecord c, false⟩ c pool
  dsimp only at hB hV ⊢
  generalize Event.select ⟨s₂, s.directoryRecord c, false⟩ c pool = V at hV ⊢
  obtain ⟨v, survivors⟩ := V
  generalize divide _ _ survivors = D
  obtain ⟨filler, rotate, granted⟩ := D
  dsimp only at hV ⊢
  refine .ite _ (fun u => u.setCarrierAlert c true) ?_ fun u => setCarrierAlert_linesKept u c true
  have hleave : LinesKept v.state (granted.foldl State.leaveQueue v.state) :=
    .foldl (fun t _ => setProgramme_linesKept t _ _) _ _
  refine .trans _ _ _ (.trans _ _ _ (.trans _ _ _ hA hB) (.trans _ _ _ hV hleave)) ?_
  exact setCarrier_linesKept _ c _

/-! ### Boundaries (R7, R9) -/

theorem advance_linesKept (c : CarrierNo) (b : Time) : LinesKept s (s.advance c b) := setCarrier_linesKept s c _

theorem carrierOff_linesKept (c : CarrierNo) : LinesKept s (s.carrierOff c) := by
  have hstop : ∀ t p, LinesKept t (t.stopProgramme p) := fun _ _ => .of_eq rfl rfl
  have htrim : ∀ t : State, LinesKept t (t.trimQueues c)
    | _, .manager => rfl
    | t, .access q => by
        change ((t.trimQueues c).port q).line = (t.port q).line
        rw [trimQueues_port]
  have hclear : ∀ t : State, LinesKept t (t.clearAired c) := fun _ => .of_eq rfl rfl
  unfold State.carrierOff
  refine .trans _ _ _ ?_ (recomputeAll_shape _).linesKept
  refine .trans _ _ _ (.trans _ _ _ ?_ (htrim _)) (hclear _)
  exact .trans _ _ _ (.foldl hstop _ s) (setCarrier_linesKept _ c _)

theorem firstBoundary_linesKept (c : CarrierNo) (b : Time) : LinesKept s (s.firstBoundary c b) := by
  unfold State.firstBoundary
  dsimp only
  refine .trans _ _ _ ?_ (advance_linesKept _ c b)
  refine .trans _ _ _ ?_ (allocate_linesKept _ c b)
  refine .trans _ _ _ ?_ (recomputeAll_shape _).linesKept
  refine .trans _ _ _ ?_ (gainGroups_shape _ c b).linesKept
  exact .trans _ _ _ (setCarrier_linesKept s c _) (setCarrier_linesKept _ c _)

theorem boundary_linesKept (c : CarrierNo) : LinesKept s (s.boundary c) := by
  unfold State.boundary
  split
  · next b _ =>
    split
    · unfold State.takeBoundary
      split
      · exact .refl s
      · exact firstBoundary_linesKept s c b
      · refine .trans _ _ _ ?_ (advance_linesKept _ c b)
        exact .trans _ _ _ (nextInterval_shape s c false).linesKept (allocate_linesKept _ c b)
      · unfold State.drainBoundary
        split
        · exact .trans _ _ _ (nextInterval_shape s c true).linesKept (advance_linesKept _ c b)
        · exact .trans _ _ _ (endInterval_shape s c).linesKept (carrierOff_linesKept _ c)
    · exact .refl s
  · exact .refl s

theorem shrinkCompletion_linesKept (c : CarrierNo) : LinesKept s (s.shrinkCompletion c) := by
  unfold State.shrinkCompletion
  split
  · exact (shrinkNext_shape s c).linesKept
  · exact .refl s

theorem sliceEmission_linesKept (c : CarrierNo) : LinesKept s (s.sliceEmission c) := by
  unfold State.sliceEmission
  split
  · exact (emitSlice_shape s c).linesKept
  · exact .refl s

/-! ### Ingest (R19 to R31) -/

theorem leaveLocked_linesKept (l : LinkNo) (next : LinkState) : LinesKept s (s.leaveLocked l next) := by
  unfold State.leaveLocked State.endContext
  split <;> exact .of_eq rfl rfl

theorem lossOfSignal_linesKept (l : LinkNo) : LinesKept s (s.lossOfSignal l) := by
  unfold State.lossOfSignal
  dsimp only
  split
  · exact setLink_linesKept s l _
  · exact .trans _ _ _ (setLink_linesKept s l _) (setLink_linesKept _ l _)
  · exact .trans _ _ _ (setLink_linesKept s l _) (leaveLocked_linesKept _ l _)

theorem missingSync_linesKept (l : LinkNo) : LinesKept s (s.missingSync l) := by
  unfold State.missingSync
  split
  · exact leaveLocked_linesKept s l _
  · exact .refl s

theorem runaway_linesKept (l : LinkNo) : LinesKept s (s.runaway l) := by
  unfold State.runaway
  split
  · exact leaveLocked_linesKept s l _
  · exact .refl s

theorem takeHeader_linesKept (l : LinkNo) (h : UnitHeader) : LinesKept s (s.takeHeader l h) := by
  unfold State.takeHeader
  split
  · split <;> exact .of_eq rfl rfl
  · exact .of_eq rfl rfl

theorem headerTaken_linesKept (l : LinkNo) (h : UnitHeader) : LinesKept s (s.headerTaken l h) := by
  unfold State.headerTaken
  split
  · exact takeHeader_linesKept s l h
  · exact .refl s

theorem syncMarkFound_linesKept (l : LinkNo) (h : UnitHeader) : LinesKept s (s.syncMarkFound l h) := by
  unfold State.syncMarkFound
  split
  · exact .refl s
  · exact .trans _ _ _ (setLink_linesKept s l _) (takeHeader_linesKept _ l h)
  · exact headerTaken_linesKept s l h

theorem cellClaim_linesKept (l : LinkNo) (stretch : List Byte) : LinesKept s (s.cellClaim l stretch) := by
  unfold State.cellClaim
  split
  · split
    · split <;> exact .of_eq rfl rfl
    · exact .refl s
  · exact .refl s

theorem placeUnit_linesKept (u : UnitRecord) : LinesKept s (s.placeUnit u) := by
  unfold State.placeUnit
  dsimp only
  split
  · exact .of_eq rfl rfl
  · split <;> exact .of_eq rfl rfl

theorem unitCompletion_linesKept (l : LinkNo) : LinesKept s (s.unitCompletion l) := by
  unfold State.unitCompletion
  dsimp only
  split
  · have hcleared : LinesKept s (s.setLink l { s.link l with context := .empty }) := setLink_linesKept s l _
    split
    · refine .trans _ _ _ hcleared ?_
      unfold State.completeUnit
      split
      · exact .trans _ _ _ (setProgramme_linesKept _ _ _) (placeUnit_linesKept _ _)
      · exact freeUp_linesKept _ _
    · exact hcleared
  · exact .refl s

end

end Sys2Proof.Machine

/-! SUPPORT. The order lines: no command but FETCH KEY makes a line begin to send a key (R83, R87, R111). -/

namespace Sys2Proof.Machine

/-! ### Lines that begin to send no key -/

/-- The response carries a key, as the reply to FETCH KEY does (R87). -/
def Response.carriesKey : Response → Bool
  | .done (.key _) => true
  | _ => false

theorem sendsKey_of_sending {ln : OrderLine} {code : Nat} {r : Response} (h : ln.sending = some ⟨code, r⟩) :
    ln.sendsKey = r.carriesKey := by
  rw [OrderLine.sendsKey, h]
  cases r with
  | refused c => rfl
  | done b => cases b <;> rfl

/-- From `s` to `t` no line on which at most a refusal waits begins to send a key. -/
def KeysHeld (s t : State) : Prop :=
  ∀ q, (s.line q).waitsRefusal → (t.line q).sendsKey = true → (s.line q).sendsKey = true

section
variable {s t u : State}

theorem LinesKept.thenHeld (h : LinesKept s t) (h' : KeysHeld t u) : KeysHeld s u := fun q hw hk => by
  rw [← h q] at hw ⊢
  exact h' q hw hk

theorem KeysHeld.thenKept (h : KeysHeld s t) (h' : LinesKept t u) : KeysHeld s u := fun q hw hk =>
  h q hw (by rwa [h' q] at hk)

theorem LinesKept.keysHeld (h : LinesKept s t) : KeysHeld s t := fun q _ hk => by rwa [h q] at hk

/-- Lines that send nothing send no key. -/
theorem KeysHeld.of_idle (h : ∀ q, (t.line q).sending = none) : KeysHeld s t := fun q _ hk => by
  rw [OrderLine.sendsKey, h q] at hk
  cases hk

theorem KeysHeld.setLine {q : PortId} {ln : OrderLine}
    (h : (s.line q).waitsRefusal → ln.sendsKey = true → (s.line q).sendsKey = true) : KeysHeld s (s.setLine q ln) :=
  fun r hw hk => by
    by_cases hr : r = q
    · subst hr
      rw [State.setLine_line] at hk
      exact h hw hk
    · rwa [State.setLine_line_ne _ _ _ _ hr] at hk

end

section
variable (s : State)

theorem countRefusal_linesKept (q : PortId) : LinesKept s (s.countRefusal q) := fun r => State.countRefusal_line s q r

theorem refuse_keysHeld (q : PortId) (code : Nat) (r : RefusalCode) : KeysHeld s (s.refuse q code r) :=
  (countRefusal_linesKept s q).thenHeld (.setLine fun _ hk => nomatch hk)

theorem refuseBusy_keysHeld (q : PortId) (code : Nat) (r : RefusalCode) : KeysHeld s (s.refuseBusy q code r) := by
  unfold State.refuseBusy
  dsimp only
  split
  · exact (countRefusal_linesKept s q).keysHeld
  · exact (countRefusal_linesKept s q).thenHeld (.setLine fun _ hk => hk)

/-- The refusal that waits is sent next, and carries no key (R146). -/
theorem replySent_keysHeld (q : PortId) : KeysHeld s (s.replySent q) := by
  refine .setLine fun hw hk => ?_
  unfold OrderLine.sent at hk
  split at hk
  · unfold OrderLine.sendsKey at hk
    dsimp only at hk
    split at hk
    · next heq =>
      obtain ⟨c, hc⟩ := hw _ heq
      cases hc
    · cases hk
  · exact hk

theorem linkUp_keysHeld (q : PortId) : KeysHeld s (s.linkUp q) := .setLine fun _ hk => hk

theorem linkDown_keysHeld (q : PortId) : KeysHeld s (s.linkDown q) := by
  have lost : ∀ q, KeysHeld s (s.setLine q ((s.line q).lost s.time)) := fun q => .setLine fun _ hk => nomatch hk
  unfold State.linkDown
  split
  · unfold State.managerLinkDown
    split
    · exact lost .manager
    · have down : KeysHeld s
          (s.setLine .manager { s.manager.line.lost s.time with inHand := s.manager.line.inHand }) :=
        .setLine fun _ hk => nomatch hk
      exact down.thenKept (.of_eq rfl rfl)
  · next p =>
    unfold State.accessLinkDown
    dsimp only
    split
    · exact lost (.access p)
    · exact (lost (.access p)).thenKept (detachPort_linesKept _ p)

/-! ### Resets (R154, R155) -/

theorem resetBlocks_sending (q : PortId) : (s.resetBlocks.line q).sending = none := by
  cases q with
  | manager => rfl
  | access p =>
    have hport : s.resetBlocks.port p = { AccessPort.reset with line := (s.port p).line.resetKeeping } :=
      Vector.getElem_map ..
    change (s.resetBlocks.port p).line.sending = none
    rw [hport]
    rfl

theorem restartPart_keysHeld : KeysHeld s s.restartPart := .of_idle fun q => by
  cases q with
  | manager => rfl
  | access p => exact resetBlocks_sending s (.access p)

theorem restartCompletion_keysHeld : KeysHeld s s.restartCompletion := by
  have idle : LinesKept s { s with restart := .idle } := .of_eq rfl rfl
  unfold State.restartCompletion
  split
  · exact (LinesKept.refl s).keysHeld
  · dsimp only
    split
    · exact idle.thenHeld (.setLine fun _ hk => nomatch hk)
    · exact idle.thenHeld (.setLine fun _ hk => hk)

theorem takeFrame_keysHeld {p : PortId} {code : Nat} {r : RefusalCode} {judge : State → State}
    (h : KeysHeld s (judge s)) : KeysHeld s (s.takeFrame p code r judge) := by
  unfold State.takeFrame
  split
  · exact (LinesKept.refl s).keysHeld
  · split
    · exact (LinesKept.refl s).keysHeld
    · split
      · exact refuseBusy_keysHeld s p code r
      · exact h

theorem takeRestart_keysHeld (f : Frame) : KeysHeld s (s.takeRestart f) := by
  refine takeFrame_keysHeld s ?_
  split
  · exact refuse_keysHeld s _ _ _
  · exact restartPart_keysHeld s

end

/-! ### Orders -/

/-- Of all lines, an answer makes only its own port's send a key, and only where it carries one. -/
theorem sendsKey_of_answer {s : State} {p q : PortId} {o : Order} {r : Response}
    (h : ((s.answer p o r).line q).sendsKey = true) : (s.line q).sendsKey = true ∨ q = p ∧ r.carriesKey = true := by
  cases r with
  | refused r =>
    by_cases hq : q = p
    · subst hq
      rw [State.answer, State.send, State.setLine_line] at h
      cases h
    · rw [State.answer, State.send, State.setLine_line_ne _ _ _ _ hq, State.countRefusal_line] at h
      exact .inl h
  | done b =>
    by_cases hq : q = p
    · subst hq
      rw [State.answer, State.send, State.setLine_line] at h
      exact .inr ⟨rfl, h ▸ (sendsKey_of_sending rfl).symm⟩
    · rw [State.answer, State.send, State.setLine_line_ne _ _ _ _ hq] at h
      exact .inl h

/-- A line begins to send a key at an order alone that reaches it, passes its checks and is answered with the key. -/
theorem takeOrder_sendsKey {s : State} {f : Frame} {o : Order} {effect : State → State × Response} {q : PortId}
    (hlines : LinesKept s (effect s).1) (hw : (s.line q).waitsRefusal) (hs : (s.line q).sendsKey = false)
    (ht : ((s.takeOrder f o effect).line q).sendsKey = true) :
    q = f.port ∧ s.judge f o = none ∧ (effect s).2.carriesKey = true := by
  have held : ∀ t, KeysHeld s t → s.takeOrder f o effect ≠ t := fun t hheld he => by
    have hk := hheld q hw (he ▸ ht)
    rw [hs] at hk
    cases hk
  rcases takeOrder_cases s f o effect with he | ⟨-, he⟩ | he | ⟨r, -, he⟩ | ⟨hj, he⟩
  · exact absurd he (held _ (LinesKept.refl s).keysHeld)
  · exact absurd he (held _ (countRefusal_linesKept s _).keysHeld)
  · exact absurd he (held _ (refuseBusy_keysHeld s _ _ _))
  · exact absurd he (held _ (refuse_keysHeld s _ _ r))
  · rw [he] at ht
    rcases sendsKey_of_answer ht with hk | ⟨hq, hkey⟩
    · rw [hlines q, hs] at hk
      cases hk
    · exact ⟨hq, hj, hkey⟩

/-- An order's outcome that writes no line and answers without a key. -/
structure Silent (s : State) (x : State × Response) : Prop where
  lines : LinesKept s x.1
  keyless : x.2.carriesKey = false

section
variable {s : State}

theorem Silent.refusal (r : RefusalCode) : Silent s (refused s r) := ⟨.refl s, rfl⟩

theorem Silent.done {t : State} {b : ReplyBody} (h : LinesKept s t) (hb : (Response.done b).carriesKey = false) :
    Silent s (t, .done b) := ⟨h, hb⟩

/-- What an order does past a check is silent; a refusal is silent anyway. -/
theorem Silent.unlessRefused {b : Prop} [Decidable b] {r : RefusalCode} {x : State × Response} (h : Silent s x) :
    Silent s (if b then refused s r else x) := by
  split
  · exact .refusal r
  · exact h

/-- What an order does where it is not refused is silent. -/
theorem Silent.elseRefused {b : Prop} [Decidable b] {r : RefusalCode} {x : State × Response} (h : Silent s x) :
    Silent s (if b then x else refused s r) := by
  split
  · exact h
  · exact .refusal r

theorem takeOrder_keysHeld {f : Frame} {o : Order} {effect : State → State × Response} (h : Silent s (effect s)) :
    KeysHeld s (s.takeOrder f o effect) := fun q hw hk => by
  cases hs : (s.line q).sendsKey with
  | true => rfl
  | false =>
    have hkey := (takeOrder_sendsKey h.lines hw hs hk).2.2
    rw [h.keyless] at hkey
    cases hkey

theorem takeAccessOrder_keysHeld {f : Frame} {o : Order} {effect : PortNo → State → State × Response}
    (h : ∀ p, Silent s (effect p s)) : KeysHeld s (s.takeOrder f o (onAccess f effect)) := by
  refine takeOrder_keysHeld ?_
  unfold onAccess
  split
  · exact h _
  · exact .refusal _

end

/-! ### The orders that answer without a key -/

section
variable (s : State)

theorem defineCarrier_silent (carrier rate interval reserve : Nat) :
    Silent s (defineCarrier carrier rate interval reserve s) := by
  unfold defineCarrier
  split
  · exact .refusal _
  · exact .unlessRefused (.unlessRefused (.unlessRefused (.unlessRefused
      (.done (setCarrier_linesKept s _ _) rfl))))

theorem setCarrierOn_silent (carrier : Nat) (target : Selector) : Silent s (setCarrierOn carrier target s) := by
  unfold setCarrierOn
  split
  · exact .elseRefused (.done (setCarrier_linesKept s _ _) rfl)
  · exact .refusal _

theorem setCarrierOff_silent (carrier : Nat) : Silent s (setCarrierOff carrier s) := by
  unfold setCarrierOff
  split
  · exact .refusal _
  · dsimp only
    split
    · exact .done (carrierOff_linesKept s _) rfl
    · exact .done (.trans _ _ _ (setCarrier_linesKept s _ _) (recomputeAll_shape _).linesKept) rfl
    · exact .refusal _
    · exact .refusal _

theorem readCarrier_silent (carrier : Nat) : Silent s (readCarrier carrier s) := by
  unfold readCarrier
  split
  · exact .refusal _
  · exact .done (.refl s) rfl

theorem setAllowance_silent (port carrier allowance : Nat) : Silent s (setAllowance port carrier allowance s) := by
  unfold setAllowance
  split
  · exact .unlessRefused (.unlessRefused (.unlessRefused (.done (setCarrier_linesKept s _ _) rfl)))
  · exact .refusal _

theorem defineProgramme_silent (programme carrier group weight floor cap : Nat) :
    Silent s (defineProgramme programme carrier group weight floor cap s) := by
  unfold defineProgramme
  split
  · refine .unlessRefused ?_
    split
    · exact .refusal _
    · exact .unlessRefused (.unlessRefused (.unlessRefused (.unlessRefused
        (.done (setProgramme_linesKept s _ _) rfl))))
  · exact .refusal _

theorem goLive_linesKept (p : ProgrammeNo) : LinesKept s (s.goLive p) := by
  have gain : ∀ (t : State) c g due, LinesKept t (t.gainGroup c g due) := fun t c _ _ => setCarrier_linesKept t c _
  unfold State.goLive
  dsimp only
  split
  · split
    · refine .trans _ _ _ ?_ (recompute_linesKept _ _)
      exact .ite _ (fun t => t.gainGroup _ _ _) (setProgramme_linesKept s p _) fun t => gain t _ _ _
    · exact setProgramme_linesKept s p _
  · exact setProgramme_linesKept s p _

theorem setProgrammeLive_silent (programme : Nat) (target : Selector) :
    Silent s (setProgrammeLive programme target s) := by
  unfold setProgrammeLive
  split
  · exact .elseRefused (.done (goLive_linesKept s _) rfl)
  · exact .refusal _

theorem goIdle_linesKept (p : ProgrammeNo) : LinesKept s (s.goIdle p) := by
  have idle : LinesKept s ((s.emptyQueue p).setProgramme p
    { (s.emptyQueue p).programme p with state := .idle, held := 0 }) := .of_eq rfl rfl
  unfold State.goIdle
  dsimp only
  generalize State.setProgramme _ p _ = t at idle ⊢
  split
  · split
    · refine .trans _ _ _ ?_ (recompute_linesKept _ _)
      split
      · exact idle
      · exact .trans _ _ _ idle (setCarrier_linesKept t _ _)
    · exact idle
  · exact idle

theorem setProgrammeIdle_silent (programme : Nat) : Silent s (setProgrammeIdle programme s) := by
  unfold setProgrammeIdle
  split
  · exact .refusal _
  · exact .elseRefused (.done (goIdle_linesKept s _) rfl)

theorem setProgrammeUnused_silent (programme : Nat) : Silent s (setProgrammeUnused programme s) := by
  unfold setProgrammeUnused
  split
  · exact .refusal _
  · exact .elseRefused (.done (setProgramme_linesKept s _ _) rfl)

theorem readProgramme_silent (programme : Nat) : Silent s (readProgramme programme s) := by
  unfold readProgramme
  split
  · exact .refusal _
  · exact .done (.refl s) rfl

theorem defineGroup_silent (group : Nat) (roster : BitVec 8) (preference : List Nat) (repeatMs limit policy : Nat) :
    Silent s (defineGroup group roster preference repeatMs limit policy s) := by
  unfold defineGroup
  split
  · refine .done (.trans _ _ _ ?_ (resolve_linesKept _ _)) rfl
    split
    · exact setGroup_linesKept s _ _
    · exact redefine_linesKept s _ _
  · exact .refusal _

theorem releaseGroup_silent (group : Nat) : Silent s (releaseGroup group s) := by
  unfold releaseGroup
  split
  · exact .refusal _
  · exact .unlessRefused (.done (release_linesKept s _) rfl)

theorem restartGroup_silent (group : Nat) : Silent s (restartGroup group s) := by
  unfold restartGroup
  split
  · exact .refusal _
  · exact .elseRefused (.done (restartGroup_linesKept s _) rfl)

theorem readGroup_silent (group : Nat) : Silent s (readGroup group s) := by
  unfold readGroup
  split
  · exact .refusal _
  · exact .done (.refl s) rfl

theorem attach_silent (o : Offer) (p : PortNo) : Silent s (attach o p s) := by
  unfold attach
  refine .unlessRefused (.done (.trans _ _ _ ?_ (resolveFor_linesKept _ p)) rfl)
  split
  · exact .writePort _ rfl
  · exact .setPort rfl

theorem detach_silent (p : PortNo) : Silent s (detach p s) := by
  unfold detach
  exact .done (detachPort_linesKept s p) rfl

theorem planAck_silent (group number : Nat) (o : Offer) (p : PortNo) : Silent s (planAck group number o p s) := by
  unfold planAck
  split
  · exact .refusal _
  · refine .unlessRefused (.unlessRefused (.unlessRefused (.done ?_ rfl)))
    split
    · exact join_linesKept s _ p
    · refine .trans _ _ _ ?_ (resolveFor_linesKept _ p)
      exact .setPort rfl

theorem submitAccess_silent (group : Nat) (serial : Serial) (body : List Byte) (p : PortNo) :
    Silent s (submitAccess group serial body p s) := by
  unfold submitAccess
  split
  · exact .refusal _
  · refine .unlessRefused ?_
    split
    · exact .refusal _
    · exact .elseRefused (.done (storePacket_linesKept s _ _ _ p body) rfl)

theorem probeGroup_silent (group : Nat) (p : PortNo) : Silent s (probeGroup group p s) := by
  unfold probeGroup
  split
  · exact .refusal _
  · exact .done (.refl s) rfl

theorem openBatch_silent (present count : Nat) (p : PortNo) : Silent s (openBatch present count p s) := by
  unfold openBatch
  exact .unlessRefused (.done (.setPort rfl) rfl)

theorem submitSubscriber_silent (body : List Byte) (mask : BitVec 8) (urgent : Nat) (p : PortNo) :
    Silent s (submitSubscriber body mask urgent p s) := by
  unfold submitSubscriber
  split
  · dsimp only
    split
    · exact .refusal _
    · exact ⟨.setPort rfl, rfl⟩
    · exact .unlessRefused (.unlessRefused (.unlessRefused (.done (.setPort rfl) rfl)))
  · exact .refusal _

theorem readTime_silent : Silent s (readTime s) := .done (.refl s) rfl

theorem readCondition_silent (f : Frame) : Silent s (readCondition f s) := by
  unfold readCondition
  split
  · exact .done (.of_eq rfl rfl) rfl
  · exact .done (.setPort rfl) rfl

theorem readSummary_silent (f : Frame) : Silent s (readSummary f s) := by
  unfold readSummary
  split <;> exact .done (.refl s) rfl

theorem acknowledgeBatchEnd_silent (f : Frame) (kind : Selector) : Silent s (acknowledgeBatchEnd f kind s) := by
  unfold acknowledgeBatchEnd
  split
  · exact .done (.setPort rfl) rfl
  · exact .refusal _

theorem acknowledgeGroupAlert_silent (f : Frame) (object : Nat) : Silent s (acknowledgeGroupAlert f object s) := by
  unfold acknowledgeGroupAlert
  split
  · refine .done ?_ rfl
    split
    · exact .refl s
    · exact setGroupAlert_linesKept s _ _
  · exact .refusal _

theorem acknowledgeCarrierAlert_silent (f : Frame) (object : Nat) :
    Silent s (acknowledgeCarrierAlert f object s) := by
  unfold acknowledgeCarrierAlert
  split
  · refine .done ?_ rfl
    split
    · exact .refl s
    · exact setCarrierAlert_linesKept s _ _
  · exact .refusal _

end

end Sys2Proof.Machine

/-! SUPPORT. Every command holds the keys but FETCH KEY, whose key goes to a member (R83, R87, R111). -/

namespace Sys2Proof.Machine

/-! ### FETCH KEY (R87) -/

/-- An order that passes its checks comes in a frame of the right length (R147). -/
theorem fits_of_judge {s : State} {f : Frame} {o : Order} (h : s.judge f o = none) : f.fits = true := by
  cases hf : f.fits with
  | true => rfl
  | false =>
    unfold State.judge at h
    rw [hf] at h
    split at h
    · cases h
    · split at h
      · cases h
      · split at h <;> cases h

section
variable {s : State} {group : Nat} {p : PortNo}

/-- FETCH KEY ACTIVE answers with a key the members of its group alone. -/
theorem fetchActive_member {selector : Selector} (h : (fetchActive group selector p s).2.carriesKey = true) :
    ∃ g : GroupNo, group = g.val ∧ selector = .named ∧ (s.group g).roles[p.val].active = true := by
  unfold fetchActive at h
  split at h
  · next g hg =>
    split at h
    · cases h
    · next hact => exact ⟨g, toIndex_some hg, rfl, by simpa using hact⟩
  · cases h

/-- FETCH KEY PENDING answers with a key the members of its group alone. -/
theorem fetchPending_member (h : (fetchPending group p s).2.carriesKey = true) :
    ∃ g : GroupNo, group = g.val ∧ (s.group g).roles[p.val].active = true := by
  unfold fetchPending at h
  split at h
  · next g hg =>
    split at h
    · cases h
    · next hact => exact ⟨g, toIndex_some hg, by simpa using hact⟩
  · cases h

theorem fetchActive_linesKept (selector : Selector) : LinesKept s (fetchActive group selector p s).1 :=
  .of_state (fetchActive_state s group selector p)

theorem fetchPending_linesKept : LinesKept s (fetchPending group p s).1 := by
  unfold fetchPending
  split
  · split
    · exact .refl s
    · split
      · exact setKeyWaiting_linesKept s p _ _
      · exact .refl s
  · exact .refl s

end

/-- An order of an access port that makes a line send a key makes its own port's send it, in a frame of the right length
whose effect carries the key. -/
theorem takeAccessOrder_sendsKey {s : State} {f : Frame} {o : Order} {effect : PortNo → State → State × Response}
    {q : PortId} (hlines : ∀ p, LinesKept s (effect p s).1) (hw : (s.line q).waitsRefusal)
    (hs : (s.line q).sendsKey = false) (ht : ((s.takeOrder f o (onAccess f effect)).line q).sendsKey = true) :
    ∃ p, q = .access p ∧ f = ⟨.access p, true⟩ ∧ (effect p s).2.carriesKey = true := by
  obtain ⟨hq, hj, hkey⟩ := takeOrder_sendsKey (onAccess_keeps (.refl s) hlines) hw hs ht
  have hfits := fits_of_judge hj
  obtain ⟨port, fits⟩ := f
  obtain rfl : fits = true := hfits
  cases port with
  | manager => cases hkey
  | access p => exact ⟨p, hq, rfl, hkey⟩

/-! ### Every command -/

/-- Every command but FETCH KEY holds the keys. -/
theorem exec_keysHeld (c : Instr) (s : State) :
    (∃ f group selector, c = .fetchKeyActive f group selector) ∨ (∃ f group, c = .fetchKeyPending f group)
      ∨ ∃ t, exec c s = .next t ∧ KeysHeld s t := by
  cases c
  case fetchKeyActive f group selector => exact .inl ⟨f, group, selector, rfl⟩
  case fetchKeyPending f group => exact .inr (.inl ⟨f, group, rfl⟩)
  all_goals refine .inr (.inr ⟨_, rfl, ?_⟩)
  case defineCarrier => exact takeOrder_keysHeld (defineCarrier_silent s _ _ _ _)
  case setCarrierOn => exact takeOrder_keysHeld (setCarrierOn_silent s _ _)
  case setCarrierOff => exact takeOrder_keysHeld (setCarrierOff_silent s _)
  case readCarrier => exact takeOrder_keysHeld (readCarrier_silent s _)
  case defineProgramme => exact takeOrder_keysHeld (defineProgramme_silent s _ _ _ _ _ _)
  case setProgrammeLive => exact takeOrder_keysHeld (setProgrammeLive_silent s _ _)
  case setProgrammeIdle => exact takeOrder_keysHeld (setProgrammeIdle_silent s _)
  case setProgrammeUnused => exact takeOrder_keysHeld (setProgrammeUnused_silent s _)
  case readProgramme => exact takeOrder_keysHeld (readProgramme_silent s _)
  case defineGroup => exact takeOrder_keysHeld (defineGroup_silent s _ _ _ _ _ _)
  case releaseGroup => exact takeOrder_keysHeld (releaseGroup_silent s _)
  case restartGroup => exact takeOrder_keysHeld (restartGroup_silent s _)
  case readGroup => exact takeOrder_keysHeld (readGroup_silent s _)
  case setAllowance => exact takeOrder_keysHeld (setAllowance_silent s _ _ _)
  case restartPart => exact takeRestart_keysHeld s _
  case restartCompletion => exact restartCompletion_keysHeld s
  case attach => exact takeAccessOrder_keysHeld fun p => attach_silent s _ p
  case detach => exact takeAccessOrder_keysHeld fun p => detach_silent s p
  case planAck => exact takeAccessOrder_keysHeld fun p => planAck_silent s _ _ _ p
  case submitAccess => exact takeAccessOrder_keysHeld fun p => submitAccess_silent s _ _ _ p
  case probeGroup => exact takeAccessOrder_keysHeld fun p => probeGroup_silent s _ p
  case openBatch => exact takeAccessOrder_keysHeld fun p => openBatch_silent s _ _ p
  case submitSubscriber => exact takeAccessOrder_keysHeld fun p => submitSubscriber_silent s _ _ _ p
  case readTime => exact takeOrder_keysHeld (readTime_silent s)
  case readCondition => exact takeOrder_keysHeld (readCondition_silent s _)
  case readSummary => exact takeOrder_keysHeld (readSummary_silent s _)
  case acknowledgeBatchEnd => exact takeOrder_keysHeld (acknowledgeBatchEnd_silent s _ _)
  case acknowledgeGroupAlert => exact takeOrder_keysHeld (acknowledgeGroupAlert_silent s _ _)
  case acknowledgeCarrierAlert => exact takeOrder_keysHeld (acknowledgeCarrierAlert_silent s _ _)
  case unknownOrderCode => exact takeFrame_keysHeld s (refuse_keysHeld s _ _ _)
  case framingFailure => exact takeFrame_keysHeld s (refuse_keysHeld s _ _ _)
  case replySent => exact replySent_keysHeld s _
  case orderLinkUp => exact linkUp_keysHeld s _
  case orderLinkDown => exact linkDown_keysHeld s _
  case signalDetected => exact (setLink_linesKept s _ _).keysHeld
  case lossOfSignal => exact (lossOfSignal_linesKept s _).keysHeld
  case syncMarkFound => exact (syncMarkFound_linesKept s _ _).keysHeld
  case headerTaken => exact (headerTaken_linesKept s _ _).keysHeld
  case cellClaim => exact (cellClaim_linesKept s _ _).keysHeld
  case missingSyncMark => exact (missingSync_linesKept s _).keysHeld
  case runawayUnit => exact (runaway_linesKept s _).keysHeld
  case unitCompletion => exact (unitCompletion_linesKept s _).keysHeld
  case boundary => exact (boundary_linesKept s _).keysHeld
  case shrinkCompletion => exact (shrinkCompletion_linesKept s _).keysHeld
  case sliceEmission => exact (sliceEmission_linesKept s _).keysHeld
  case drawEvent => exact (drawEvent_linesKept s _).keysHeld
  case startEvent => exact (startEvent_linesKept s _).keysHeld
  case changeoverEvent => exact (changeover_linesKept s _).keysHeld
  case powerOn => exact .of_idle (resetBlocks_sending s)
  case resetInputLow => exact .of_idle (resetBlocks_sending s)

end Sys2Proof.Machine

namespace Sys2Proof.Settled

open Sys2Proof.Machine

/-- Settles O57: every command but FETCH KEY holds the keys (`exec_keysHeld`), and FETCH KEY answers members alone. -/
theorem keysAreConfined : Obligations.KeysAreConfined := by
  intro c s t q hexec hw hs ht
  rcases exec_keysHeld c s with ⟨f, group, selector, rfl⟩ | ⟨f, group, rfl⟩ | ⟨u, hu, hheld⟩
  · obtain rfl : s.takeOrder f .fetchKey (onAccess f (fetchActive group selector)) = t := Host.Outcome.next.inj hexec
    obtain ⟨p, rfl, rfl, hkey⟩ := takeAccessOrder_sendsKey (fun _ => fetchActive_linesKept selector) hw hs ht
    obtain ⟨g, rfl, rfl, hact⟩ := fetchActive_member hkey
    exact ⟨p, g, rfl, .inl rfl, (Role.active_iff _).1 hact⟩
  · obtain rfl : s.takeOrder f .fetchKey (onAccess f (fetchPending group)) = t := Host.Outcome.next.inj hexec
    obtain ⟨p, rfl, rfl, hkey⟩ := takeAccessOrder_sendsKey (fun _ => fetchPending_linesKept) hw hs ht
    obtain ⟨g, rfl, hact⟩ := fetchPending_member hkey
    exact ⟨p, g, rfl, .inr rfl, (Role.active_iff _).1 hact⟩
  · cases hu.symm.trans hexec
    have hk := hheld q hw ht
    rw [hs] at hk
    cases hk

end Sys2Proof.Settled

/-! SUPPORT. The compatible set of a resolution and the plan it chooses (R103, R104), in the words of the statements:
when a period suits a set of ports, and what the walk down the attach order list adds and leaves out. -/

namespace Sys2Proof.Machine

/-! ### The largest lead time (R104) -/

section
variable {s : State} {d : GroupDef} {set : List PortNo} {l : Period} {p : PortNo}

theorem max?_leads (s : State) (set : List PortNo) : (0 :: set.map s.leadOf).max? = some (s.maxLead set) := by
  rw [List.max?_cons', List.foldl_map, State.maxLead]

theorem leadOf_le_maxLead (h : p ∈ set) : s.leadOf p ≤ s.maxLead set :=
  (List.max?_eq_some_iff.1 (max?_leads s set)).2 _ (List.mem_cons_of_mem 0 (List.mem_map_of_mem h))

theorem maxLead_mem (s : State) (set : List PortNo) : s.maxLead set = 0 ∨ ∃ p ∈ set, s.leadOf p = s.maxLead set := by
  obtain hzero | hmem := List.mem_cons.1 (List.max?_eq_some_iff.1 (max?_leads s set)).1
  · exact .inl hzero
  · exact .inr (List.mem_map.1 hmem)

/-- Some port of a set that is not empty has its largest lead time. -/
theorem exists_leadOf_eq_maxLead (h : set ≠ []) : ∃ p ∈ set, s.leadOf p = s.maxLead set := by
  obtain hzero | hport := maxLead_mem s set
  · obtain ⟨p, hp⟩ := List.exists_mem_of_ne_nil set h
    exact ⟨p, hp, by have := leadOf_le_maxLead (s := s) hp; omega⟩
  · exact hport

theorem Period.two_le_seconds (l : Period) : 2 ≤ l.seconds := by cases l <;> decide

/-- A lead time bound on a set is one on each of its ports: every standard period is longer than 2 s. -/
theorem maxLead_add_two_le : s.maxLead set + 2 ≤ l.seconds ↔ ∀ p ∈ set, s.leadOf p + 2 ≤ l.seconds := by
  constructor
  · intro h p hp
    have := leadOf_le_maxLead (s := s) hp
    omega
  · intro h
    obtain hzero | ⟨p, hp, hlead⟩ := maxLead_mem s set
    · have := l.two_le_seconds
      omega
    · exact hlead ▸ h p hp

/-! ### The candidates (R104) -/

/-- A period of the preference list is in every offer of a set of ports and at least 2 s longer than every lead time. -/
def State.Suits (s : State) (d : GroupDef) (ports : List PortNo) (l : Period) : Prop :=
  l ∈ d.preference
    ∧ ∀ p ∈ ports, ∃ o, (s.port p).offer = some o ∧ hasItem o.mask l.index = true ∧ o.lead + 2 ≤ l.seconds

theorem accepts_with_lead_iff :
    s.accepts p l = true ∧ s.leadOf p + 2 ≤ l.seconds ↔
      ∃ o, (s.port p).offer = some o ∧ hasItem o.mask l.index = true ∧ o.lead + 2 ≤ l.seconds := by
  unfold State.accepts State.leadOf
  cases (s.port p).offer <;> simp

/-- The candidates for a set of ports are the periods that suit it. -/
theorem mem_candidates : l ∈ s.candidates d set ↔ s.Suits d set l := by
  simp only [State.candidates, State.Suits, List.mem_filter, Bool.and_eq_true, List.all_eq_true, decide_eq_true_eq,
    maxLead_add_two_le, ← accepts_with_lead_iff, forall₂_and]

/-- A period that suits a set of ports suits every part of it. -/
theorem State.Suits.mono {ports : List PortNo} (h : s.Suits d ports l) (hsub : ∀ p ∈ set, p ∈ ports) :
    s.Suits d set l :=
  ⟨h.1, fun p hp => h.2 p (hsub p hp)⟩

/-! ### The walk (R103) -/

/-- The walk adds a port where some period suits the set with it. -/
theorem walkStep_cases (s : State) (d : GroupDef) (set : List PortNo) (p : PortNo) :
    ((∀ l, ¬ s.Suits d (set ++ [p]) l) ∧ s.walkStep d set p = set)
      ∨ ((∃ l, s.Suits d (set ++ [p]) l) ∧ s.walkStep d set p = set ++ [p]) := by
  simp only [← mem_candidates]
  unfold State.walkStep
  split
  · next h => exact .inl ⟨fun l hl => List.ne_nil_of_mem hl (List.isEmpty_iff.1 h), rfl⟩
  · next h => exact .inr ⟨List.exists_mem_of_ne_nil _ (mt List.isEmpty_iff.2 h), rfl⟩

/-- The walk appends some of the ports it passes, in their order. -/
theorem walk_appends (s : State) (d : GroupDef) : ∀ ports set : List PortNo,
    ∃ added, added.Sublist ports ∧ ports.foldl (s.walkStep d) set = set ++ added
  | [], set => ⟨[], .slnil, (List.append_nil set).symm⟩
  | p :: ports, set => by
      obtain ⟨added, hsub, hwalk⟩ := walk_appends s d ports (s.walkStep d set p)
      rw [List.foldl_cons, hwalk]
      obtain ⟨-, hstep⟩ | ⟨-, hstep⟩ := walkStep_cases s d set p
      · exact ⟨added, hsub.cons p, by rw [hstep]⟩
      · exact ⟨p :: added, hsub.cons_cons p, by rw [hstep, List.append_assoc]; rfl⟩

theorem walk_nil_sublist (s : State) (d : GroupDef) (ports : List PortNo) :
    (ports.foldl (s.walkStep d) []).Sublist ports := by
  obtain ⟨added, hsub, hwalk⟩ := walk_appends s d ports []
  rw [hwalk]
  exact hsub

theorem compatibleSet_sublist (s : State) (d : GroupDef) : (s.compatibleSet d).Sublist s.attachOrder :=
  (walk_nil_sublist s d _).trans List.filter_sublist

/-- Some period suits the compatible set while it is not empty. -/
theorem compatibleSet_suited (h : s.compatibleSet d ≠ []) : ∃ l, s.Suits d (s.compatibleSet d) l := by
  refine foldl_preserves (fun set => set ≠ [] → ∃ l, s.Suits d set l) (s.walkStep d) (fun set p hset => ?_) _ []
    (fun hnil => absurd rfl hnil) h
  obtain ⟨-, hstep⟩ | ⟨hl, hstep⟩ := walkStep_cases s d set p
  · rwa [hstep]
  · rw [hstep]
    exact fun _ => hl

/-- A port of the roster that the walk leaves out: no period suits it together with the ports of the set before it. The
walk had taken no others when it came to the port. -/
theorem not_suits_of_left_out {before after : List PortNo} (horder : s.attachOrder = before ++ p :: after)
    (hroster : hasItem d.roster p = true) (hout : p ∉ s.compatibleSet d) (l : Period) :
    ¬ s.Suits d (before.filter (fun q => decide (q ∈ s.compatibleSet d)) ++ [p]) l := by
  have hset : s.compatibleSet d = (after.filter (fun q => hasItem d.roster q)).foldl (s.walkStep d)
      (s.walkStep d ((before.filter (fun q => hasItem d.roster q)).foldl (s.walkStep d) []) p) := by
    rw [State.compatibleSet, horder, List.filter_append, List.filter_cons_of_pos hroster, List.foldl_append,
      List.foldl_cons]
  have hbefore : ∀ q ∈ (before.filter (fun q => hasItem d.roster q)).foldl (s.walkStep d) [], q ∈ before := fun q hq =>
    (List.mem_filter.1 ((walk_nil_sublist s d _).mem hq)).1
  generalize (before.filter (fun q => hasItem d.roster q)).foldl (s.walkStep d) [] = taken at hset hbefore
  obtain ⟨added, -, hwalk⟩ := walk_appends s d (after.filter (fun q => hasItem d.roster q)) (s.walkStep d taken p)
  rw [hwalk] at hset
  obtain ⟨hnone, hstep⟩ | ⟨-, hstep⟩ := walkStep_cases s d taken p
  · refine fun hl => hnone l (hl.mono fun q hq => ?_)
    obtain hq | hq := List.mem_append.1 hq
    · have hin : q ∈ s.compatibleSet d := by
        rw [hset, hstep]
        exact List.mem_append_left added hq
      exact List.mem_append_left _ (List.mem_filter.2 ⟨hbefore q hq, decide_eq_true hin⟩)
    · exact List.mem_append_right _ hq
  · refine absurd ?_ hout
    rw [hset, hstep]
    simp

/-! ### The chosen plan (R104) -/

theorem chosenPlan_some {plan : Plan} (h : s.chosenPlan d set = some plan) :
    set ≠ [] ∧ (s.candidates d set).head? = some plan.period ∧ plan.lead = s.maxLead set := by
  unfold State.chosenPlan at h
  split at h
  · cases h
  · next hset =>
    obtain ⟨l, hl, rfl⟩ := Option.map_eq_some_iff.1 h
    exact ⟨mt List.isEmpty_iff.2 hset, hl, rfl⟩

/-- The first entry of a list that passes a test stands no later than any other that does. -/
theorem head?_filter_mem {α : Type} {f : α → Bool} {a b : α} {before after : List α}
    (h : ((before ++ a :: after).filter f).head? = some b) (ha : f a = true) : b ∈ before ++ [a] := by
  have hpass : a ∈ (before ++ [a]).filter f := List.mem_filter.2 ⟨by simp, ha⟩
  rw [List.append_cons, List.filter_append, List.head?_append,
    Option.or_of_isSome (List.isSome_head?.2 (List.ne_nil_of_mem hpass))] at h
  exact (List.mem_filter.1 (List.mem_of_mem_head? h)).1

/-- The first candidate stands no later in the preference list than any other period that suits the set. -/
theorem head_candidates_first {first : Period} {before after : List Period}
    (h : (s.candidates d set).head? = some first) (hpref : d.preference = before ++ l :: after)
    (hl : s.Suits d set l) : first ∈ before ++ [l] := by
  have hcand := List.mem_filter.1 (mem_candidates.2 hl)
  rw [State.candidates, hpref] at h
  exact head?_filter_mem h hcand.2

/-- A resolution chooses a plan exactly where its compatible set is not empty. -/
theorem chosen_eq_none_iff : s.chosenPlan d (s.compatibleSet d) = none ↔ s.compatibleSet d = [] := by
  unfold State.chosenPlan
  split
  · next h => exact iff_of_true rfl (List.isEmpty_iff.1 h)
  · next h =>
    have hset := mt List.isEmpty_iff.2 h
    obtain ⟨l, hl⟩ := compatibleSet_suited hset
    refine iff_of_false ?_ hset
    rw [Option.map_eq_none_iff, List.head?_eq_none_iff]
    exact List.ne_nil_of_mem (mem_candidates.2 hl)

end

end Sys2Proof.Machine

namespace Sys2Proof.Settled

open Sys2Proof.Machine

/-- Settles O35: the walk by `walk_appends` and `walkStep_cases`, the plan as the first candidate. -/
theorem compatibleSet : Obligations.CompatibleSet := by
  intro d s set works
  refine ⟨compatibleSet_sublist s d, fun p hp => compatibleSet_onRoster hp, compatibleSet_suited,
    fun before p after horder hroster hout => not_suits_of_left_out horder hroster hout, fun plan hplan => ?_,
    chosen_eq_none_iff⟩
  obtain ⟨hne, hhead, hlead⟩ := chosenPlan_some hplan
  refine ⟨hne, mem_candidates.1 (List.mem_of_mem_head? hhead), fun p hp => ?_, ?_, fun l before after hpref hl => ?_⟩
  · rw [hlead]
    exact leadOf_le_maxLead hp
  · rw [hlead]
    exact exists_leadOf_eq_maxLead hne
  · exact head_candidates_first hhead hpref hl

end Sys2Proof.Settled

/-! SUPPORT. ATTACH and PROBE GROUP (R99, R100, R111): what an accepted order answers, and the port's role in a group
that does not name it. -/

namespace Sys2Proof.Machine

section
variable {s : State} {p : PortNo}

/-! ### ATTACH (R99, R100) -/

/-- The offer is recorded, and a DETACHED port is attached at the tail of the list; no group is resolved yet. -/
def State.offered (s : State) (p : PortNo) (o : Offer) : State :=
  if (s.port p).state = .detached then
    { s.setPort p { s.port p with state := .ready, offer := some o } with attachOrder := s.attachOrder ++ [p] }
  else s.setPort p { s.port p with offer := some o }

theorem offered_groups (s : State) (p : PortNo) (o : Offer) : (s.offered p o).groups = s.groups := by
  unfold State.offered
  split <;> rfl

theorem offered_group (s : State) (p : PortNo) (o : Offer) (g : GroupNo) : (s.offered p o).group g = s.group g := by
  rw [State.group, offered_groups, State.group]

theorem Offer.not_valid_iff {o : Offer} : (!o.valid) = true ↔ o.mask = 0 ∨ o.lead = 0 ∨ 30 < o.lead := by
  simp only [Offer.valid, Bool.not_eq_true', Bool.and_eq_false_iff, bne_eq_false_iff_eq, decide_eq_false_iff_not]
  exact or_congr_right (by omega)

/-- Resolutions leave the attach order list. -/
theorem resolvedFor_attachOrder (s : State) (p : PortNo) : (s.resolvedFor p).attachOrder = s.attachOrder := by
  obtain ⟨_, _, _, _, hshape⟩ := resolveFor_shape s p
  rw [← resolveFor_eq, hshape]

theorem attach_eq (s : State) (p : PortNo) (o : Offer) :
    attach o p s =
      if o.mask = 0 ∨ o.lead = 0 ∨ 30 < o.lead then refused s .range
      else ((s.offered p o).resolvedFor p, .done (.place ((s.offered p o).attachOrder.idxOf p))) := by
  have hplace : ((s.offered p o).resolvedFor p).place p = (s.offered p o).attachOrder.idxOf p := by
    rw [State.place, resolvedFor_attachOrder]
  rw [← hplace, ← resolveFor_eq]
  exact if_congr Offer.not_valid_iff rfl rfl

/-- ATTACH leaves a group that does not name the port. -/
theorem offered_resolvedFor_group (o : Offer) {g : GroupNo} (h : s.rosterNames g p = false) :
    ((s.offered p o).resolvedFor p).group g = s.group g := by
  have hgroup := offered_group s p o g
  have hn : g ∉ (s.offered p o).namedBy p := by
    rw [mem_namedBy, rosterNames_congr (s := s) (by rw [hgroup]) (by rw [hgroup]) p, h]
    exact Bool.false_ne_true
  exact (resolves_group_of_notMem _ hn _).trans hgroup

/-! ### PROBE GROUP (R111) -/

theorem probeGroup_eq (s : State) (p : PortNo) (g : GroupNo) :
    probeGroup g.val p s =
      (s, .done (.probe (s.group g).roles[p.val] (s.group g).state (s.group g).plan.number (s.group g).plan.status
        (if (s.group g).plan.status = .proposed then (s.group g).plan.proposed else (s.group g).plan.agreed))) := by
  rw [probeGroup, toGroup_val]
  rfl

/-- A FREE group has no definition. -/
theorem Group.extensionsFit.definition_of_free {grp : Group} (h : grp.extensionsFit) (hfree : grp.state = .free) :
    grp.definition = none := by
  cases hd : grp.definition with
  | none => rfl
  | some d =>
    rw [Group.extensionsFit, hd] at h
    exact absurd hfree h.1

/-- A port is NOT_MEMBER in a FREE group and in one whose roster does not name it (R76, R111). -/
theorem Group.fits.role_notMember {grp : Group} (h : grp.fits)
    (hn : grp.state = .free ∨ ∃ d, grp.definition = some d ∧ hasItem d.roster p = false) :
    grp.roles[p.val] = .notMember := by
  obtain ⟨hext, -, -, -, hroles⟩ := h
  refine (hroles p).2 ?_
  rintro ⟨d, hd, hroster⟩
  obtain hfree | ⟨d', hd', hoff⟩ := hn
  · cases hd.symm.trans (hext.definition_of_free hfree)
  · cases hd.symm.trans hd'
    cases hroster.symm.trans hoff

end

end Sys2Proof.Machine

namespace Sys2Proof.Settled

open Sys2Proof.Machine

/-- Settles O32, from the equation of the order. -/
theorem attach : Obligations.Attach := fun p o s h =>
  ⟨congrArg Host.Outcome.next (takeOrder_ite h (attach_eq s p o)), fun _ hg => offered_resolvedFor_group o hg⟩

/-- Settles O34: the role of a port that is no member is what `Group.fits` says of roles and definitions. -/
theorem probeGroup : Obligations.ProbeGroup := by
  intro p s h
  refine ⟨fun group hg => congrArg _ (takeOrder_rejected h ?_), fun g => ⟨?_, fun hfits hn => hfits.role_notMember hn⟩⟩
  · rw [onAccess_access, Machine.probeGroup, toGroup_none hg]
  · exact congrArg _ (takeOrder_done h (probeGroup_eq s p g))

end Sys2Proof.Settled

/-! SUPPORT. What an order refused by its owning rule leaves: its outcome spares the state, but for the BATCH_END of a
SUBMIT SUBSCRIBER that finds its batch spent (R128, R147). -/

namespace Sys2Proof.Machine

/-! ### Outcomes that spare the state -/

/-- Where an order's outcome is a refusal, the state stays. -/
def Spares (s : State) (x : State × Response) : Prop := ∀ r, x.2 = .refused r → x.1 = s

section
variable {s : State}

theorem Spares.refusal (r : RefusalCode) : Spares s (refused s r) := fun _ _ => rfl

theorem Spares.done (t : State) (b : ReplyBody) : Spares s (t, .done b) := fun _ h => nomatch h

theorem Spares.ite {b : Prop} [Decidable b] {x y : State × Response} (hx : Spares s x) (hy : Spares s y) :
    Spares s (if b then x else y) := by
  split
  · exact hx
  · exact hy

theorem Spares.onAccess {f : Frame} {effect : PortNo → State → State × Response} (h : ∀ p, Spares s (effect p s)) :
    Spares s (onAccess f effect s) := by
  unfold Machine.onAccess
  split
  · exact h _
  · exact .refusal _

end

/-! ### The orders, one by one -/

section
variable (s : State)

theorem defineCarrier_spares (carrier rate interval reserve : Nat) :
    Spares s (defineCarrier carrier rate interval reserve s) := by
  unfold defineCarrier
  split
  · exact .refusal _
  · exact .ite (.refusal _) (.ite (.refusal _) (.ite (.refusal _) (.ite (.refusal _) (.done _ _))))

theorem setCarrierOn_spares (carrier : Nat) (target : Selector) : Spares s (setCarrierOn carrier target s) := by
  unfold setCarrierOn
  split
  · exact .ite (.done _ _) (.refusal _)
  · exact .refusal _

theorem setCarrierOff_spares (carrier : Nat) : Spares s (setCarrierOff carrier s) := by
  unfold setCarrierOff
  split
  · exact .refusal _
  · dsimp only
    split
    · exact .done _ _
    · exact .done _ _
    · exact .refusal _
    · exact .refusal _

theorem readCarrier_spares (carrier : Nat) : Spares s (readCarrier carrier s) := by
  unfold readCarrier
  split
  · exact .refusal _
  · exact .done _ _

theorem setAllowance_spares (port carrier allowance : Nat) : Spares s (setAllowance port carrier allowance s) := by
  unfold setAllowance
  split
  · exact .ite (.refusal _) (.ite (.refusal _) (.ite (.refusal _) (.done _ _)))
  · exact .refusal _

theorem defineProgramme_spares (programme carrier group weight floor cap : Nat) :
    Spares s (defineProgramme programme carrier group weight floor cap s) := by
  unfold defineProgramme
  split
  · refine .ite (.refusal _) ?_
    split
    · exact .refusal _
    · exact .ite (.refusal _) (.ite (.refusal _) (.ite (.refusal _) (.ite (.refusal _) (.done _ _))))
  · exact .refusal _

theorem setProgrammeLive_spares (programme : Nat) (target : Selector) :
    Spares s (setProgrammeLive programme target s) := by
  unfold setProgrammeLive
  split
  · exact .ite (.done _ _) (.refusal _)
  · exact .refusal _

theorem setProgrammeIdle_spares (programme : Nat) : Spares s (setProgrammeIdle programme s) := by
  unfold setProgrammeIdle
  split
  · exact .refusal _
  · exact .ite (.done _ _) (.refusal _)

theorem setProgrammeUnused_spares (programme : Nat) : Spares s (setProgrammeUnused programme s) := by
  unfold setProgrammeUnused
  split
  · exact .refusal _
  · exact .ite (.done _ _) (.refusal _)

theorem readProgramme_spares (programme : Nat) : Spares s (readProgramme programme s) := by
  unfold readProgramme
  split
  · exact .refusal _
  · exact .done _ _

theorem defineGroup_spares (group : Nat) (roster : BitVec 8) (preference : List Nat) (repeatMs limit policy : Nat) :
    Spares s (defineGroup group roster preference repeatMs limit policy s) := by
  unfold defineGroup
  split
  · exact .done _ _
  · exact .refusal _

theorem releaseGroup_spares (group : Nat) : Spares s (releaseGroup group s) := by
  unfold releaseGroup
  split
  · exact .refusal _
  · exact .ite (.refusal _) (.done _ _)

theorem restartGroup_spares (group : Nat) : Spares s (restartGroup group s) := by
  unfold restartGroup
  split
  · exact .refusal _
  · exact .ite (.done _ _) (.refusal _)

theorem readGroup_spares (group : Nat) : Spares s (readGroup group s) := by
  unfold readGroup
  split
  · exact .refusal _
  · exact .done _ _

theorem attach_spares (o : Offer) (p : PortNo) : Spares s (attach o p s) := by
  unfold attach
  exact .ite (.refusal _) (.done _ _)

theorem planAck_spares (group number : Nat) (o : Offer) (p : PortNo) : Spares s (planAck group number o p s) := by
  unfold planAck
  split
  · exact .refusal _
  · exact .ite (.refusal _) (.ite (.refusal _) (.ite (.refusal _) (.done _ _)))

theorem fetchPending_spares (group : Nat) (p : PortNo) : Spares s (fetchPending group p s) := by
  unfold fetchPending
  split
  · refine .ite (.refusal _) ?_
    split
    · exact .done _ _
    · exact .refusal _
  · exact .refusal _

theorem submitAccess_spares (group : Nat) (serial : Serial) (body : List Byte) (p : PortNo) :
    Spares s (submitAccess group serial body p s) := by
  unfold submitAccess
  split
  · exact .refusal _
  · refine .ite (.refusal _) ?_
    split
    · exact .refusal _
    · exact .ite (.done _ _) (.refusal _)

theorem openBatch_spares (present count : Nat) (p : PortNo) : Spares s (openBatch present count p s) := by
  unfold openBatch
  exact .ite (.refusal _) (.done _ _)

theorem readCondition_spares (f : Frame) : Spares s (readCondition f s) := by
  unfold readCondition
  split <;> exact .done _ _

theorem acknowledgeBatchEnd_spares (f : Frame) (kind : Selector) : Spares s (acknowledgeBatchEnd f kind s) := by
  unfold acknowledgeBatchEnd
  split
  · exact .done _ _
  · exact .refusal _

theorem acknowledgeGroupAlert_spares (f : Frame) (object : Nat) : Spares s (acknowledgeGroupAlert f object s) := by
  unfold acknowledgeGroupAlert
  split
  · exact .done _ _
  · exact .refusal _

theorem acknowledgeCarrierAlert_spares (f : Frame) (object : Nat) : Spares s (acknowledgeCarrierAlert f object s) := by
  unfold acknowledgeCarrierAlert
  split
  · exact .done _ _
  · exact .refusal _

end

/-! ### Every order -/

/-- SUBMIT SUBSCRIBER either spares the state or is refused BATCH_SPENT, which sets BATCH_END (R128). -/
theorem submitSubscriber_spares_or_spent (body : List Byte) (mask : BitVec 8) (urgent : Nat) (p : PortNo) (s : State) :
    Spares s (submitSubscriber body mask urgent p s)
      ∨ submitSubscriber body mask urgent p s = (s.setBatchEnd p true, .refused .batchSpent) := by
  unfold submitSubscriber
  split
  · dsimp only
    split
    · exact .inl (.refusal _)
    · exact .inr rfl
    · exact .inl (.ite (.refusal _) (.ite (.refusal _) (.ite (.refusal _) (.done _ _))))
  · exact .inl (.refusal _)

/-- Where the outcome of order `o` in frame `f` is a refusal, the state stays; a SUBMIT SUBSCRIBER refused BATCH_SPENT alone
sets its port's BATCH_END (R128, R147). -/
def SparesBut (f : Frame) (o : Order) (s : State) (x : State × Response) : Prop :=
  ∀ r, x.2 = .refused r →
    x.1 = s ∨ (o = .submitSubscriber ∧ r = .batchSpent ∧ ∃ p, f.port = .access p ∧ x.1 = s.setBatchEnd p true)

theorem Spares.but {f : Frame} {o : Order} {s : State} {x : State × Response} (h : Spares s x) : SparesBut f o s x :=
  fun r hr => .inl (h r hr)

theorem submitSubscriber_sparesBut (f : Frame) (body : List Byte) (mask : BitVec 8) (urgent : Nat) (s : State) :
    SparesBut f .submitSubscriber s (onAccess f (submitSubscriber body mask urgent) s) := by
  obtain ⟨port, fits⟩ := f
  cases port with
  | manager => exact (Spares.refusal _).but
  | access p =>
    rw [onAccess_access]
    obtain hspares | hspent := submitSubscriber_spares_or_spent body mask urgent p s
    · exact hspares.but
    · rw [hspent]
      rintro r hr
      cases hr
      exact .inr ⟨rfl, rfl, p, rfl, rfl⟩

/-- Every order but RESTART PART goes through the one operation of R147, and its outcome spares the state where it is a
refusal. -/
theorem exec_order {i : Instr} {f : Frame} {o : Order} (h : orderIn i = some (f, o)) :
    (o = .restartPart ∧ ∀ s, exec i s = .next (s.takeRestart f))
      ∨ ∃ effect, (∀ s, exec i s = .next (s.takeOrder f o effect)) ∧ ∀ s, SparesBut f o s (effect s) := by
  cases i <;> cases h
  case restartPart => exact .inl ⟨rfl, fun _ => rfl⟩
  all_goals refine .inr ⟨_, fun _ => rfl, fun s => ?_⟩
  case defineCarrier => exact (defineCarrier_spares s _ _ _ _).but
  case setCarrierOn => exact (setCarrierOn_spares s _ _).but
  case setCarrierOff => exact (setCarrierOff_spares s _).but
  case readCarrier => exact (readCarrier_spares s _).but
  case defineProgramme => exact (defineProgramme_spares s _ _ _ _ _ _).but
  case setProgrammeLive => exact (setProgrammeLive_spares s _ _).but
  case setProgrammeIdle => exact (setProgrammeIdle_spares s _).but
  case setProgrammeUnused => exact (setProgrammeUnused_spares s _).but
  case readProgramme => exact (readProgramme_spares s _).but
  case defineGroup => exact (defineGroup_spares s _ _ _ _ _ _).but
  case releaseGroup => exact (releaseGroup_spares s _).but
  case restartGroup => exact (restartGroup_spares s _).but
  case readGroup => exact (readGroup_spares s _).but
  case setAllowance => exact (setAllowance_spares s _ _ _).but
  case attach => exact (Spares.onAccess (attach_spares s _)).but
  case detach => exact (Spares.onAccess fun _ => .done _ _).but
  case planAck => exact (Spares.onAccess (planAck_spares s _ _ _)).but
  case fetchKeyActive => exact (Spares.onAccess fun p _ _ => fetchActive_state s _ _ p).but
  case fetchKeyPending => exact (Spares.onAccess (fetchPending_spares s _)).but
  case submitAccess => exact (Spares.onAccess (submitAccess_spares s _ _ _)).but
  case probeGroup => exact (Spares.onAccess fun p _ _ => probeGroup_state s _ p).but
  case openBatch => exact (Spares.onAccess (openBatch_spares s _ _)).but
  case submitSubscriber => exact submitSubscriber_sparesBut _ _ _ _ s
  case readTime => exact (Spares.done _ _).but
  case readCondition => exact (readCondition_spares s _).but
  case readSummary => exact Spares.but fun _ _ => readSummary_state s _
  case acknowledgeBatchEnd => exact (acknowledgeBatchEnd_spares s _ _).but
  case acknowledgeGroupAlert => exact (acknowledgeGroupAlert_spares s _ _).but
  case acknowledgeCarrierAlert => exact (acknowledgeCarrierAlert_spares s _ _).but

/-! ### What is being sent tells the outcome -/

/-- A line sends a refusal of an accepted order only where the order's outcome is that refusal. -/
theorem refused_of_answer {t : State} {p : PortId} {o : Order} {x : Response} {r : RefusalCode}
    (h : ((t.answer p o x).line p).sending = some ⟨o.code, .refused r⟩) : x = .refused r := by
  cases x with
  | done b => rw [State.answer, State.send, State.setLine_line] at h; cases h
  | refused r' => rw [State.answer, State.send, State.setLine_line] at h; cases h; rfl

/-- A restart in progress has nothing being sent (R155). -/
theorem restartPart_sending (s : State) (q : PortId) : (s.restartPart.line q).sending = none := by
  cases q with
  | manager => rfl
  | access p => exact resetBlocks_sending s (.access p)

/-- An accepted RESTART PART begins the restart (R155). -/
theorem takeRestart_accepts {s : State} {f : Frame} (h : s.Accepts f .restartPart) : s.takeRestart f = s.restartPart := by
  rw [State.takeRestart, takeFrame_free h.1, judge_accepts h]

end Sys2Proof.Machine

namespace Sys2Proof.Settled

open Sys2Proof.Machine

/-- Settles O6: what is being sent tells that the order's outcome is the refusal, and `exec_order` what that leaves. -/
theorem refusalChangesNothing : Obligations.RefusalChangesNothing := by
  intro i f o r s t horder haccepts hexec hsending
  obtain ⟨rfl, hrestart⟩ | ⟨effect, htake, hspares⟩ := exec_order horder
  · cases (hrestart s).symm.trans hexec
    rw [takeRestart_accepts haccepts, restartPart_sending] at hsending
    cases hsending
  · cases (htake s).symm.trans hexec
    rw [takeOrder_accepts haccepts] at hsending ⊢
    have hrefused := refused_of_answer hsending
    rw [hrefused, answer_refused]
    obtain hstays | ⟨hsubmit, hspent, p, hport, hflag⟩ := hspares s r hrefused
    · exact .inl (by rw [hstays])
    · exact .inr ⟨hsubmit, hspent, p, hport, by rw [hflag]⟩

end Sys2Proof.Settled

/-! SUPPORT. What every frame comes to, order or not: one refusal counted where it fell with the loss of its link,
`State.takeFrame` otherwise (R132, R145, R146). -/

namespace Sys2Proof.Machine

/-- The DETACHED check of R147, the second of its order. -/
theorem judge_detached_iff {s : State} {f : Frame} {o : Order} :
    s.judge f o = some .detached ↔
      o.allowedOn f.port = true ∧ s.portDetached f.port = true ∧ o.whileDetached = false := by
  unfold State.judge
  split
  · simp_all
  · split
    · simp_all
    · split
      · simp_all
      · split <;> simp_all

/-- The frame of command `i` fell with the loss of its port's link, and a DETACHED port does not accept its order (R132;
log entry 19). -/
def State.Fell (s : State) (i : Instr) (p : PortId) : Prop :=
  s.resetLow = false ∧ s.restart = .idle ∧ (s.line p).up = false ∧ (s.line p).lostAt = some s.time
    ∧ s.portDetached p = true ∧ ∃ f o, orderIn i = some (f, o) ∧ o.allowedOn p = true ∧ o.whileDetached = false

theorem fell_iff {s : State} {i : Instr} {f : Frame} {o : Order} (h : orderIn i = some (f, o)) :
    s.Fell i f.port ↔ s.fellWithLoss f o = true := by
  simp [State.Fell, State.fellWithLoss, judge_detached_iff, h, and_assoc, and_left_comm]

theorem not_fell_of_no_order {s : State} {i : Instr} {p : PortId} (h : orderIn i = none) : ¬ s.Fell i p := by
  rintro ⟨-, -, -, -, -, f, o, horder, -⟩
  cases h.symm.trans horder

/-- No RESTART PART falls so: an access port has no right to it, and the manager port is never DETACHED. -/
theorem restartPart_not_fell (s : State) (f : Frame) : s.fellWithLoss f .restartPart = false := by
  rw [← Bool.not_eq_true, State.fellWithLoss]
  intro h
  simp only [Bool.and_eq_true, beq_iff_eq, judge_detached_iff] at h
  obtain ⟨-, hright, hdetached, -⟩ := h
  cases hport : f.port <;> rw [hport] at hright hdetached
  · cases hdetached
  · cases hright

/-- A frame is that of an order, one whose code names no order, or a framing failure. -/
theorem frameOf_cases {i : Instr} {p : PortId} {code : Nat} {r : RefusalCode} (h : frameOf i = some (p, code, r)) :
    (∃ f o, orderIn i = some (f, o) ∧ p = f.port ∧ code = o.code ∧ r = .busy)
      ∨ (i = .unknownOrderCode p code ∧ r = .busy) ∨ (i = .framingFailure p code ∧ r = .check) := by
  unfold frameOf at h
  split at h
  · next f o horder => cases h; exact .inl ⟨f, o, horder, rfl, rfl, rfl⟩
  · split at h
    · cases h; exact .inr (.inl ⟨rfl, rfl⟩)
    · cases h; exact .inr (.inr ⟨rfl, rfl⟩)
    · cases h

/-- What any frame comes to on its port. -/
theorem exec_frame {i : Instr} {p : PortId} {code : Nat} {r : RefusalCode} (h : frameOf i = some (p, code, r))
    (s : State) :
    (s.Fell i p → exec i s = .next (s.countRefusal p))
      ∧ (¬ s.Fell i p → ∃ judge, exec i s = .next (s.takeFrame p code r judge)) := by
  obtain ⟨f, o, horder, rfl, rfl, rfl⟩ | ⟨rfl, rfl⟩ | ⟨rfl, rfl⟩ := frameOf_cases h
  · rw [fell_iff horder]
    obtain ⟨rfl, hrestart⟩ | ⟨effect, htake, -⟩ := exec_order horder
    · rw [restartPart_not_fell]
      exact ⟨fun hfell => absurd hfell Bool.false_ne_true, fun _ => ⟨_, hrestart s⟩⟩
    · rw [htake s]
      exact ⟨fun hfell => by rw [takeOrder_fell hfell],
        fun hnot => ⟨_, by rw [State.takeOrder, if_neg hnot]⟩⟩
  · exact ⟨fun hfell => absurd hfell (not_fell_of_no_order rfl), fun _ => ⟨_, rfl⟩⟩
  · exact ⟨fun hfell => absurd hfell (not_fell_of_no_order rfl), fun _ => ⟨_, rfl⟩⟩

end Sys2Proof.Machine

namespace Sys2Proof.Settled

open Sys2Proof.Machine

/-- Settles O5: `exec_frame` tells the frame that fell from the others, which are not heard or meet a busy port. -/
theorem busyAndDeafPorts : Obligations.BusyAndDeafPorts := by
  intro i p code r s hframe fell
  obtain ⟨hfell, hother⟩ := exec_frame hframe s
  refine ⟨fun hdeaf hnot => ?_, hfell, fun hlow hidle hup hbusy => ?_⟩
  · obtain ⟨judge, hexec⟩ := hother hnot
    rw [hexec, takeFrame_deaf (hdeaf.imp_right Or.symm)]
  · have hnot : ¬ s.Fell i p := fun ⟨_, _, hdown, _⟩ => by cases hup.symm.trans hdown
    obtain ⟨judge, hexec⟩ := hother hnot
    rw [hexec, takeFrame_busy hlow hidle hup hbusy]
    simp only [State.refuseBusy, State.countRefusal_line]

end Sys2Proof.Settled

/-! SUPPORT. OPEN BATCH and SUBMIT SUBSCRIBER: one equation each (R125 to R128). -/

namespace Sys2Proof.Machine

theorem openBatch_eq (present count : Nat) (p : PortNo) (s : State) :
    openBatch present count p s =
      if 1 < present ∨ (present = 1 ∧ (count = 0 ∨ 65535 < count)) then refused s .range
      else
        (s.setPort p { s.port p with batch := some (if present = 1 then count else 65535), batchEnd := false },
          .done (.batch (if present = 1 then count else 65535) (s.port p).queue.length)) :=
  if_congr (by omega) rfl rfl

theorem hasItem_and {n : Nat} (m k : BitVec n) (i : Fin n) : hasItem (m &&& k) i = (hasItem m i && hasItem k i) := by
  simp [hasItem]

theorem toSet4_of (m : BitVec 4) : toSet4 (m.setWidth 8) = some m := by
  have hlt : (m.setWidth 8).toNat < 16 := by rw [BitVec.toNat_setWidth]; omega
  rw [toSet4, if_pos hlt]
  simp

theorem toSet4_none {m : BitVec 8} (h : 16 ≤ m.toNat) : toSet4 m = none := if_neg (Nat.not_lt.2 h)

@[simp] theorem toFlag_toNat (u : Bool) : toFlag u.toNat = some u := by cases u <;> rfl

theorem toFlag_none {n : Nat} (h : 1 < n) : toFlag n = none := by
  match n, h with
  | n + 2, _ => rfl

theorem hasItem_openCarriers (s : State) (c : CarrierNo) :
    hasItem s.openCarriers c = decide ((s.carrier c).state = .armed ∨ (s.carrier c).state = .onAir) := by
  simp [State.openCarriers, Bool.beq_eq_decide_eq]

/-- The carriers of a mask that are ARMED or ON_AIR (R126). -/
theorem and_openCarriers {s : State} {m r : CarrierSet}
    (h : ∀ c : CarrierNo, hasItem r c =
      (hasItem m c && decide ((s.carrier c).state = .armed ∨ (s.carrier c).state = .onAir))) :
    m &&& s.openCarriers = r :=
  set_ext fun c => by rw [hasItem_and, hasItem_openCarriers, h]

/-- A mask that names a carrier above 3, or an urgent flag above 1 (R126). -/
theorem submitSubscriber_range {mask : BitVec 8} {urgent : Nat} (h : 16 ≤ mask.toNat ∨ 1 < urgent) (body : List Byte)
    (p : PortNo) (s : State) : submitSubscriber body mask urgent p s = refused s .range := by
  unfold submitSubscriber
  rcases h with h | h
  · rw [toSet4_none h]
  · rw [toFlag_none h]
    cases toSet4 mask <;> rfl

section
variable {s : State} {p : PortNo} {m r : CarrierSet} {u : Bool} {body : List Byte}

theorem submitSubscriber_noBatch (hb : (s.port p).batch = none) :
    submitSubscriber body (m.setWidth 8) u.toNat p s = refused s .noBatch := by
  simp [submitSubscriber, toSet4_of, hb]

theorem submitSubscriber_spent (hb : (s.port p).batch = some 0) :
    submitSubscriber body (m.setWidth 8) u.toNat p s = (s.setBatchEnd p true, .refused .batchSpent) := by
  simp [submitSubscriber, toSet4_of, hb]

/-- A packet for an open batch: the later checks of R126's table, then the entry, its batch count and BATCH_END (R126 to
R128). -/
theorem submitSubscriber_open {n : Nat} (hb : (s.port p).batch = some (n + 1)) (hr : m &&& s.openCarriers = r) :
    submitSubscriber body (m.setWidth 8) u.toNat p s =
      if body.length = 0 ∨ 248 < body.length then refused s .length
      else if r = 0 then refused s .noCarrier
      else if 64 ≤ (s.port p).queue.length then refused s .queueFull
      else
        (s.setPort p
          { s.port p with
            queue := if u then ⟨body, r, u⟩ :: (s.port p).queue else (s.port p).queue ++ [⟨body, r, u⟩]
            batch := some n
            batchEnd := if n = 0 then true else (s.port p).batchEnd },
          .done (.placed r u ((s.port p).queue.length + 1) n)) := by
  have hlength : (¬ (1 ≤ body.length ∧ body.length ≤ Config.payloadBytes)) ↔
      body.length = 0 ∨ 248 < body.length := by
    unfold Config.payloadBytes; omega
  have hflag : ((s.port p).batchEnd || n == 0) = if n = 0 then true else (s.port p).batchEnd := by
    cases n <;> simp
  have hqueue : ∀ e : SubscriberEntry,
      (if u then e :: (s.port p).queue else (s.port p).queue ++ [e]).length = (s.port p).queue.length + 1 := by
    intro e; cases u <;> simp
  simp only [submitSubscriber, toSet4_of, toFlag_toNat, hb, hr, AccessPort.enqueue, hlength, hflag, hqueue,
    Config.subscriberLimit, Nat.add_sub_cancel]

end

end Sys2Proof.Machine

namespace Sys2Proof.Settled

open Sys2Proof.Machine

/-- Settles O37: by the equation of each order; SUBMIT SUBSCRIBER by the batch its port has open. -/
theorem batches : Obligations.Batches := by
  refine ⟨fun p present count s h => ?_, fun p body s h => ⟨fun mask urgent hr => ?_, fun m r u hr => ?_⟩⟩
  · exact congrArg _ (takeOrder_ite h (openBatch_eq present count p s))
  · exact congrArg _ (takeOrder_rejected h (submitSubscriber_range hr body p s))
  · have hr := and_openCarriers hr
    dsimp only
    split
    · next hb => exact congrArg _ (takeOrder_rejected h (submitSubscriber_noBatch hb))
    · next hb =>
      refine congrArg Host.Outcome.next (?_ : s.takeOrder _ _ _ = _)
      rw [takeOrder_accepts h, onAccess_access, submitSubscriber_spent hb]
      rfl
    · next n hb =>
      refine congrArg Host.Outcome.next (?_ : s.takeOrder _ _ _ = _)
      rw [takeOrder_accepts h, onAccess_access, submitSubscriber_open hb hr]
      split
      · rfl
      · split
        · rfl
        · split <;> rfl

end Sys2Proof.Settled

/-! SUPPORT. Slices: what a payload holds byte by byte, and what the emission of the next slice gives for each kind of
item (R133, R136 to R142, R159). -/

namespace Sys2Proof.Machine

/-! ### Payloads (R136, R159) -/

/-- Content that fits fills a payload up with pad bytes to 248. -/
theorem padPayload_length {content : List Byte} (h : content.length ≤ 248) : (padPayload content).length = 248 := by
  simp only [padPayload, Config.payloadBytes, List.length_append, List.length_replicate]
  omega

/-- A byte of a payload is the content's, or a pad byte past its end. -/
theorem padPayload_getElem? {content : List Byte} {i : Nat} (hi : i < 248) :
    (padPayload content)[i]? = some (content[i]?.getD 255) := by
  unfold padPayload
  by_cases h : i < content.length
  · rw [List.getElem?_append_left h, List.getElem?_eq_getElem h]
    rfl
  · have hpad : i - content.length < Config.payloadBytes - content.length := by unfold Config.payloadBytes; omega
    rw [List.getElem?_append_right (by omega), List.getElem?_replicate_of_lt hpad, List.getElem?_eq_none (by omega)]
    rfl

@[simp] theorem scramble_length (key : Key) (p : ProgrammeNo) (cc : BitVec 4) (payload : List Byte) :
    (scramble key p cc payload).length = payload.length := by
  simp [scramble]

/-- Each byte of a scrambled payload is combined with the keystream's byte at its place (R136). -/
theorem scramble_getElem? (key : Key) (p : ProgrammeNo) (cc : BitVec 4) (payload : List Byte) (i : Nat) :
    (scramble key p cc payload)[i]? = payload[i]?.map (fun b => b ^^^ Config.keystreamByte key p cc i) := by
  rw [scramble, List.getElem?_zipWith]
  by_cases h : i < payload.length
  · rw [List.getElem?_range h, List.getElem?_eq_getElem h]
    rfl
  · rw [List.getElem?_eq_none (l := payload) (by omega)]
    split <;> simp_all

@[simp] theorem bodyBytes_length (m : Memory) (cells : List CellNo) (i n : Nat) : (bodyBytes m cells i n).length = n := by
  simp [bodyBytes]

theorem bodyBytes_getElem? (m : Memory) (cells : List CellNo) (j n i : Nat) :
    (bodyBytes m cells j n)[i]? = if i < n then some (bodyByte m cells (j + i)) else none := by
  unfold bodyBytes
  split
  · next h => simp [h]
  · next h => simp [Nat.le_of_not_lt h]

/-- A programme slice carries 248 bytes, scrambled or clear (R136, R141). -/
theorem programmeSlice_payload_length (m : Memory) (e : ProgrammeEntry) (capture : Option (Phase × Key))
    (cc : BitVec 4) (i : Nat) : (programmeSlice m e capture cc i).payload.length = 248 := by
  have hclear : (padPayload (bodyBytes m e.unit.cells (i * Config.payloadBytes)
      (min Config.payloadBytes (e.bodyLength - i * Config.payloadBytes)))).length = 248 :=
    padPayload_length ((bodyBytes_length ..).trans_le (Nat.min_le_left ..))
  cases capture with
  | none => exact hclear
  | some c => exact (scramble_length ..).trans hclear

/-! ### The emission of the next slice (R133, R138 to R142) -/

section
variable {s : State} {c : CarrierNo} {rest : List Item}

theorem emitSlice_of_not_emits (h : (s.carrier c).emitting = none ∨ (s.carrier c).emitting = some []) :
    s.emitSlice c = s := by
  unfold State.emitSlice
  rcases h with h | h <;> rw [h]

theorem sliceEmission_of_room (h : (s.carrier c).buffer.length < 2) : s.sliceEmission c = s.emitSlice c :=
  if_pos (decide_eq_true h)

theorem sliceEmission_of_full (h : 2 ≤ (s.carrier c).buffer.length) : s.sliceEmission c = s :=
  if_neg fun hroom => Nat.not_lt.2 h (of_decide_eq_true hroom)

theorem emitSlice_directory {d : DirectoryBody} (h : (s.carrier c).emitting = some (.directory d :: rest)) :
    s.emitSlice c = s.pushSlice c (directorySlice d) rest := by
  unfold State.emitSlice; rw [h]

theorem emitSlice_access {a : AccessCopy} {part : Nat} (h : (s.carrier c).emitting = some (.access a part :: rest)) :
    s.emitSlice c =
      if part < a.slices then s.pushSlice c (accessSlice a part) (.access a (part + 1) :: rest)
      else s.pushLast c (accessSlice a part) rest (.access a) := by
  unfold State.emitSlice; rw [h]

theorem emitSlice_subscriber {u : SubscriberCopy} (h : (s.carrier c).emitting = some (.subscriber u :: rest)) :
    s.emitSlice c = s.pushLast c (subscriberSlice u) rest (.subscriber u) := by
  unfold State.emitSlice; rw [h]

theorem emitSlice_programme {e : ProgrammeEntry} {capture : Option (Phase × Key)} {sent : Nat}
    (h : (s.carrier c).emitting = some (.programme e capture sent :: rest)) :
    s.emitSlice c = s.emitProgramme c e capture sent rest := by
  unfold State.emitSlice; rw [h]

/-- A filler slice joins the buffer and is counted, in one write of the carrier's record (R142). -/
theorem emitSlice_filler {n : Nat} (h : (s.carrier c).emitting = some (.filler n :: rest)) :
    s.emitSlice c = s.setCarrier c
      { s.carrier c with
        buffer := (s.carrier c).buffer ++ [fillerSlice]
        emitting := some (if 1 < n then .filler (n - 1) :: rest else rest)
        counters := { (s.carrier c).counters with filler := count32 (s.carrier c).counters.filler } } := by
  unfold State.emitSlice
  rw [h]
  simp only [State.pushSlice, State.modCounters, State.setCarrier_self, State.setCarrier_twice]

end

end Sys2Proof.Machine

namespace Sys2Proof.Settled

open Sys2Proof.Machine

/-- Settles O51, by the equation of each kind of item. -/
theorem sliceEmission : Obligations.SliceEmission := by
  intro c s
  refine ⟨fun hidle => congrArg Host.Outcome.next (?_ : s.sliceEmission c = s), fun rest hroom => ?_⟩
  · rcases hidle with hfull | hlist
    · exact sliceEmission_of_full hfull
    · exact ite_eq_right_iff.2 fun _ => emitSlice_of_not_emits hlist
  · have hexec {t : State} (h : s.emitSlice c = t) : exec (.sliceEmission c) s = .next t :=
      congrArg _ ((sliceEmission_of_room hroom).trans h)
    refine ⟨fun body h => hexec (emitSlice_directory h), fun a part h => hexec (emitSlice_access h),
      fun u h => hexec (emitSlice_subscriber h), fun n h => hexec (emitSlice_filler h), fun e capture sent h => ?_⟩
    exact ⟨rfl, rfl, rfl, rfl, beq_iff_eq, rfl, programmeSlice_payload_length .., rfl, rfl, rfl, rfl, rfl,
      hexec (emitSlice_programme h)⟩

end Sys2Proof.Settled

/-! SUPPORT. Numbers and blocks of bytes: a number read back from its bytes, and an item of a block in a row of blocks
(chapter 11). -/

namespace Sys2Proof

@[simp] theorem beBytes_length : ∀ n v : Nat, (beBytes n v).length = n
  | 0, _ => rfl
  | n + 1, v => congrArg (· + 1) (beBytes_length n v)

/-- Bytes spell on from the number that the bytes before them spell. -/
theorem foldl_beBytes (v : Nat) : ∀ n acc : Nat,
    (beBytes n v).foldl (fun n b => n * 256 + b.toNat) acc = acc * 256 ^ n + v % 256 ^ n
  | 0, acc => by simp [beBytes, Nat.mod_one]
  | n + 1, acc => by
      have hsplit : v % 256 ^ (n + 1) = v % 256 ^ n + 256 ^ n * (v / 256 ^ n % 256) := by rw [pow_succ, Nat.mod_mul]
      rw [beBytes, List.foldl_cons, foldl_beBytes v n, BitVec.toNat_ofNat, hsplit]
      ring

/-- A number is read back from its bytes. -/
theorem beNat_beBytes {n v : Nat} (h : v < 256 ^ n) : beNat (beBytes n v) = v := by
  rw [beNat, foldl_beBytes, Nat.mod_eq_of_lt h, Nat.zero_mul, Nat.zero_add]

section
variable {α β : Type} {f : α → List β} {w : Nat}

/-- A row of blocks of `w` items each is as long as the blocks together. -/
theorem flatMap_block_length (hf : ∀ a, (f a).length = w) (l : List α) : (l.flatMap f).length = w * l.length := by
  simp [List.length_flatMap, hf, Nat.mul_comm]

/-- Item `j` of block `i` in a row of blocks of `w` items each. -/
theorem flatMap_block_getElem? (hf : ∀ a, (f a).length = w) {j : Nat} (hj : j < w) :
    ∀ {l : List α} {i : Nat} {a : α}, l[i]? = some a → (l.flatMap f)[w * i + j]? = (f a)[j]?
  | [], _, _, h => nomatch h
  | b :: l, 0, a, h => by
      cases h
      rw [List.flatMap_cons, Nat.mul_zero, Nat.zero_add, List.getElem?_append_left (by rwa [hf])]
  | b :: l, i + 1, a, h => by
      have hskip : w * (i + 1) + j = (f b).length + (w * i + j) := by rw [hf]; ring
      rw [List.flatMap_cons, hskip, List.getElem?_append_right (Nat.le_add_right ..), Nat.add_sub_cancel_left]
      exact flatMap_block_getElem? hf hj h

end

@[simp] theorem byteBits_length (b : Byte) : (byteBits b).length = 8 := rfl

/-- Bit `j` of a byte on the line, the most significant first. -/
theorem byteBits_getElem? (b : Byte) {j : Nat} (hj : j < 8) : (byteBits b)[j]? = some (b.getLsbD (7 - j)) := by
  simp [byteBits, hj]

end Sys2Proof

/-! SUPPORT. The bytes of slices: headers, the bodies of each kind, the keystream, and the output line (R133, R136,
R139, R140, R142, R158, R159). -/

namespace Sys2Proof.Machine

/-! ### Headers (R158) -/

theorem byteOf_toNat {n : Nat} (h : n < 256) : (byteOf n).toNat = n := by
  rw [byteOf, BitVec.toNat_ofNat, Nat.mod_eq_of_lt h]

theorem SliceKind.code_le (k : SliceKind) : k.code ≤ 5 := by cases k <;> decide

theorem phaseCode_le (ph : Option Phase) : phaseCode ph ≤ 2 := by rcases ph with _ | _ | _ <;> decide

/-- The eight bytes of a header. -/
theorem Slice.header_eq (x : Slice) :
    x.header =
      [byteOf (x.kind.code * 32 + phaseCode x.phase * 8 + (if x.unitStart then 4 else 0) + x.part),
        byteOf (x.source * 4 + x.parts), byteOf (x.continuity.toNat * 16), byteOf x.step, byteOf x.group,
        byteOf (x.serial.toNat / 256), byteOf (x.serial.toNat % 256), byteOf x.fill] := by
  have hlow : BitVec.ofNat 8 (x.serial.toNat / 256 ^ 0) = byteOf (x.serial.toNat % 256) := by
    apply BitVec.eq_of_toNat_eq
    simp [byteOf]
  rw [Slice.header, beBytes, beBytes, beBytes, hlow]
  rfl

@[simp] theorem Slice.header_length (x : Slice) : x.header.length = 8 := by rw [x.header_eq]; rfl

/-- The fields of a header, each within the bits it has (R158). -/
theorem Slice.header_fields {x : Slice} (hpart : x.part < 4) (hsource : x.source < 64) (hparts : x.parts < 4)
    (hstep : x.step < 256) (hgroup : x.group < 256) (hfill : x.fill < 256) :
    let at_ := fun (i : Nat) => (x.header.getD i 0).toNat
    at_ 0 / 32 = x.kind.code ∧ at_ 0 / 8 % 4 = phaseCode x.phase
      ∧ at_ 0 / 4 % 2 = (if x.unitStart then 1 else 0) ∧ at_ 0 % 4 = x.part
      ∧ at_ 1 / 4 = x.source ∧ at_ 1 % 4 = x.parts ∧ at_ 2 / 16 = x.continuity.toNat ∧ at_ 2 % 16 = 0
      ∧ at_ 3 = x.step ∧ at_ 4 = x.group ∧ at_ 5 * 256 + at_ 6 = x.serial.toNat ∧ at_ 7 = x.fill := by
  have hkind := x.kind.code_le
  have hphase := phaseCode_le x.phase
  obtain ⟨start, hstart, hfour, hle⟩ : ∃ n, (if x.unitStart then 1 else 0) = n
      ∧ (if x.unitStart then 4 else 0) = 4 * n ∧ n ≤ 1 := ⟨_, rfl, by split <;> rfl, by split <;> decide⟩
  simp only [x.header_eq, List.getD_cons_zero, List.getD_cons_succ, hfour, hstart]
  rw [byteOf_toNat (by omega), byteOf_toNat (by omega), byteOf_toNat (by omega), byteOf_toNat hstep,
    byteOf_toNat hgroup, byteOf_toNat (by omega), byteOf_toNat (by omega), byteOf_toNat hfill]
  omega

/-! ### The directory body (R139, R158, R159) -/

section
variable (b : DirectoryBody)

/-- What stands before the entries: station, carrier, interval, final flag and the number of entries. -/
def DirectoryBody.head : List Byte :=
  [b.station.setWidth 8, BitVec.ofNat 8 b.carrier.val] ++ beBytes 4 b.interval.toNat
    ++ [if b.final then 1 else 0, BitVec.ofNat 8 b.entries.length]

/-- A directory body is its head, its entries and the check over both. -/
theorem DirectoryBody.bytes_eq :
    b.bytes = b.head ++ b.entries.flatMap (·.bytes)
      ++ beBytes 4 (directoryCheck (b.head ++ b.entries.flatMap (·.bytes))).toNat := rfl

theorem DirectoryBody.head_length : b.head.length = 8 := rfl

theorem DirectoryEntry.bytes_length (e : DirectoryEntry) : e.bytes.length = 3 := rfl

theorem DirectoryBody.entries_length : (b.entries.flatMap (·.bytes)).length = 3 * b.entries.length :=
  flatMap_block_length DirectoryEntry.bytes_length _

theorem DirectoryBody.covered_length : (b.head ++ b.entries.flatMap (·.bytes)).length = 8 + 3 * b.entries.length := by
  rw [List.length_append, b.head_length, b.entries_length]

theorem DirectoryBody.bytes_length : b.bytes.length = 12 + 3 * b.entries.length := by
  rw [b.bytes_eq, List.length_append, b.covered_length, beBytes_length]
  omega

/-- The head's bytes stand at the front. -/
theorem DirectoryBody.bytes_head {i : Nat} (hi : i < 8) : b.bytes[i]? = b.head[i]? := by
  rw [b.bytes_eq, List.append_assoc, List.getElem?_append_left hi]

theorem DirectoryBody.bytes_interval : beNat ((b.bytes.drop 2).take 4) = b.interval.toNat :=
  beNat_beBytes (n := 4) b.interval.isLt

/-- The three bytes of entry `i` begin at byte 8 + 3 × i (R158). -/
theorem DirectoryBody.bytes_entry {i j : Nat} (hi : i < b.entries.length) (hj : j < 3) :
    b.bytes[8 + j + 3 * i]? = b.entries[i].bytes[j]? := by
  have hat : 3 * i + j < (b.entries.flatMap (·.bytes)).length := by rw [b.entries_length]; omega
  have hplace : 8 + j + 3 * i = b.head.length + (3 * i + j) := by rw [b.head_length]; omega
  rw [b.bytes_eq, List.append_assoc, hplace, List.getElem?_append_right (Nat.le_add_right ..), Nat.add_sub_cancel_left,
    List.getElem?_append_left hat]
  exact flatMap_block_getElem? DirectoryEntry.bytes_length hj (List.getElem?_eq_getElem hi)

/-- The check stands behind what it covers. -/
theorem DirectoryBody.bytes_check :
    beNat (b.bytes.drop (8 + 3 * b.entries.length))
      = (directoryCheck (b.bytes.take (8 + 3 * b.entries.length))).toNat := by
  rw [b.bytes_eq, ← b.covered_length, List.drop_left, List.take_left]
  exact beNat_beBytes (BitVec.isLt _)

end

/-- The flags byte: bit 0 repeated, bit 1 held, bit 2 blanked (R158). -/
theorem DirectoryEntry.flagsByte_bits (e : DirectoryEntry) :
    e.flagsByte.toNat < 8 ∧ e.flagsByte.getLsbD 0 = e.repeated ∧ e.flagsByte.getLsbD 1 = e.held
      ∧ e.flagsByte.getLsbD 2 = e.blanked := by
  obtain ⟨_, _, repeated, held, blanked⟩ := e
  unfold DirectoryEntry.flagsByte
  cases repeated <;> cases held <;> cases blanked <;> simp

/-! ### Access packets and units (R137, R140, R141) -/

/-- The content of part `n` of an access packet fills a payload, or ends with the packet's body. -/
theorem accessContent_length (body : List Byte) (n : Nat) :
    ((body.drop ((n - 1) * Config.payloadBytes)).take Config.payloadBytes).length
      = min 248 (body.length - (n - 1) * 248) := by
  rw [List.length_take, List.length_drop]
  rfl

/-- The header of a part of an access packet: unit start on the first, fill the content's length (R137). -/
theorem accessSlice_eq (a : AccessCopy) (n : Nat) :
    accessSlice a n =
      { kind := .access, source := a.member.val, phase := some a.phase, continuity := 0, unitStart := decide (n = 1),
        step := 0, group := a.group.val, serial := a.serial, part := n, parts := a.slices,
        fill := min 248 (a.body.length - (n - 1) * 248), payload := (accessSlice a n).payload } := by
  rw [accessSlice, accessContent_length, Bool.beq_eq_decide_eq]

/-- The payload of part `n` holds the packet's body from byte (n − 1) × 248 on, then pad bytes (R140). -/
theorem accessSlice_payload (a : AccessCopy) (n : Nat) :
    (accessSlice a n).payload.length = 248
      ∧ ∀ i, i < 248 → (accessSlice a n).payload[i]? = some ((a.body[(n - 1) * 248 + i]?).getD 255) := by
  refine ⟨padPayload_length ((accessContent_length ..).trans_le (Nat.min_le_left ..)), fun i hi => ?_⟩
  refine (padPayload_getElem? hi).trans ?_
  rw [List.getElem?_take_of_lt (show i < Config.payloadBytes from hi), List.getElem?_drop]
  rfl

/-- A byte of a clear programme slice is the kept body's at its place, or a pad byte past its end (R141). -/
theorem programmeSlice_clear_getElem? (m : Memory) (e : ProgrammeEntry) (cc : BitVec 4) (n : Nat) {i : Nat}
    (hi : i < 248) :
    (programmeSlice m e none cc n).payload[i]? =
      some (if n * 248 + i < e.bodyLength then bodyByte m e.unit.cells (n * 248 + i) else 255) := by
  refine (padPayload_getElem? hi).trans ?_
  have hfill : i < min Config.payloadBytes (e.bodyLength - n * Config.payloadBytes) ↔ n * 248 + i < e.bodyLength := by
    unfold Config.payloadBytes; omega
  rw [bodyBytes_getElem?, if_congr hfill rfl rfl]
  split <;> rfl

/-! ### Keystreams (R136) -/

/-- A number below a power of 2 is read back from a wider word. -/
theorem toNat_ofNat_of_lt_pow {m w n : Nat} (hw : m ≤ w) (h : n < 2 ^ m) : (BitVec.ofNat w n).toNat = n := by
  rw [BitVec.toNat_ofNat, Nat.mod_eq_of_lt (Nat.lt_of_lt_of_le h (Nat.pow_le_pow_right (by decide) hw))]

/-- A programme number and a continuity count are read back from their name. -/
theorem streamName_inj {p q : ProgrammeNo} {cc dd : BitVec 4} (h : Config.streamName p cc = Config.streamName q dd) :
    p = q ∧ cc = dd := by
  have toNat (p : ProgrammeNo) (cc : BitVec 4) : (Config.streamName p cc).toNat = p.val * 16 + cc.toNat :=
    toNat_ofNat_of_lt_pow (m := 10) (by decide) (by omega)
  have heq := congrArg BitVec.toNat h
  rw [toNat, toNat] at heq
  exact ⟨Fin.ext (by omega), BitVec.eq_of_toNat_eq (by omega)⟩

/-- A string of 8 × `n` bits is known by its bytes. -/
theorem eq_of_bytes_eq {n : Nat} {x y : BitVec (8 * n)}
    (h : ∀ i, i < n → x.extractLsb' (8 * i) 8 = y.extractLsb' (8 * i) 8) : x = y := by
  refine BitVec.eq_of_getLsbD_eq fun k hk => ?_
  have hbit := congrArg (BitVec.getLsbD · (k % 8)) (h (k / 8) (by omega))
  simpa [BitVec.getLsbD_extractLsb', Nat.mod_lt, Nat.div_add_mod] using hbit

/-- Keystreams under one key that agree in every byte are of one programme and one count. -/
theorem keystreamByte_inj {key : Key} {p q : ProgrammeNo} {cc dd : BitVec 4}
    (h : ∀ i, i < 248 → Config.keystreamByte key p cc i = Config.keystreamByte key q dd i) : p = q ∧ cc = dd :=
  streamName_inj ((Config.keystream key).injective (eq_of_bytes_eq (n := 248) h))

/-- Under one key the keystreams of two programmes or two counts differ in some byte. -/
theorem exists_keystreamByte_ne (key : Key) {p q : ProgrammeNo} {cc dd : BitVec 4} (hne : p ≠ q ∨ cc ≠ dd) :
    ∃ i, i < 248 ∧ Config.keystreamByte key p cc i ≠ Config.keystreamByte key q dd i := by
  by_contra! hsame
  obtain ⟨hp, hcc⟩ := keystreamByte_inj hsame
  exact hne.elim (· hp) (· hcc)

/-! ### The output line (R133, R154) -/

/-- Bit `j` of byte `i` of the slice at the front of the buffer. -/
theorem lineBit_of_front {k : Carrier} {x : Slice} {rest : List Slice} {i j : Nat} {b : Byte}
    (hbuffer : k.buffer = x :: rest) (hsent : k.bitsSent = i * 8 + j) (hj : j < 8) (hb : x.bytes[i]? = some b) :
    k.lineBit = b.getLsbD (7 - j) := by
  have hbit : (x.bytes.flatMap byteBits)[8 * i + j]? = some (b.getLsbD (7 - j)) :=
    (flatMap_block_getElem? byteBits_length hj hb).trans (byteBits_getElem? b hj)
  rw [Carrier.lineBit, hbuffer]
  simp only [hsent, Nat.mul_comm i 8, List.getD_eq_getElem?_getD, hbit, Option.getD_some]

theorem lineBit_of_empty {k : Carrier} (h : k.buffer = []) : k.lineBit = false := by
  rw [Carrier.lineBit, h]

section
variable {s : State} {c : CarrierNo}

theorem outputLevel_of_resetLow (h : s.resetLow = true) : s.outputLevel c = false := by
  rw [State.outputLevel, h, Bool.not_true, Bool.false_and]

theorem outputLevel_of_resetHigh (h : s.resetLow = false) : s.outputLevel c = (s.carrier c).lineBit := by
  rw [State.outputLevel, h, Bool.not_false, Bool.true_and]

/-- A line is at logic 0 while there is nothing to send. -/
theorem outputLevel_of_empty (h : (s.carrier c).buffer = []) : s.outputLevel c = false := by
  rw [State.outputLevel, lineBit_of_empty h, Bool.and_false]

end

end Sys2Proof.Machine

namespace Sys2Proof.Settled

open Sys2Proof.Machine

/-- Settles O52: each conjunct by the lemma of its field, body or stream. -/
theorem slicePayloads : Obligations.SlicePayloads := by
  refine ⟨fun x => ⟨x.header_length, fun hpart hsource hparts hstep hgroup hfill => ?header⟩, fun b hb => ?directory,
    fun a n i _ hi => ?access, fun u i hu hi => ?subscriber, rfl, fun i hi => ?filler, fun m e cc n i hi => ?programme,
    fun key p q cc dd hne => exists_keystreamByte_ne key hne, fun c s => ?line⟩
  case header =>
    obtain ⟨hkind, hphase, hrest⟩ := Slice.header_fields hpart hsource hparts hstep hgroup hfill
    exact ⟨hkind.trans (by cases x.kind <;> rfl), hphase.trans (by rcases x.phase with _ | _ | _ <;> rfl), hrest⟩
  case directory =>
    have hfits : b.bytes.length ≤ 248 := by rw [b.bytes_length]; omega
    exact ⟨rfl, padPayload_length hfits, b.bytes_length, b.bytes_head (by decide), b.bytes_head (by decide),
      b.bytes_interval, b.bytes_head (by decide), b.bytes_head (by decide),
      fun i hi => ⟨b.bytes_entry hi (by decide : 0 < 3), b.bytes_entry hi (by decide : 1 < 3), _,
        b.bytes_entry hi (by decide : 2 < 3), b.entries[i].flagsByte_bits⟩, b.bytes_check⟩
  case access => exact ⟨accessSlice_eq a n, (accessSlice_payload a n).imp_right fun h => h i hi⟩
  case subscriber => exact ⟨rfl, padPayload_length hu, padPayload_getElem? hi⟩
  case filler => exact ⟨padPayload_length (Nat.zero_le _), padPayload_getElem? hi⟩
  case programme => exact ⟨programmeSlice_clear_getElem? m e cc n hi, fun ph key => scramble_getElem? ..⟩
  case line =>
    exact ⟨fun h => h.elim outputLevel_of_resetLow outputLevel_of_empty,
      fun x rest i j b hhigh hbuffer hsent hj hb =>
        (outputLevel_of_resetHigh hhigh).trans (lineBit_of_front hbuffer hsent hj hb)⟩

end Sys2Proof.Settled

/-! SUPPORT. A frame on a free port that a check refuses (R145, R147). -/

namespace Sys2Proof.Machine

/-- A refusal of a frame that is not accepted, in the words of the statements. -/
theorem refuse_eq_turnedAway (s : State) (p : PortId) (code : Nat) (r : RefusalCode) :
    s.refuse p code r = s.turnedAway p code r := rfl

/-- The checks of R147 in their order: the first that fails gives the refusal. -/
theorem judge_eq (s : State) (f : Frame) (o : Order) :
    s.judge f o =
      if o.allowedOn f.port = false then some .notPermitted
      else if s.portDetached f.port = true ∧ o.whileDetached = false then some .detached
      else if s.portException f.port = true ∧ o.whileException = false then some .exceptionPending
      else if f.fits = false then some .range
      else none := by
  simp only [State.judge, Bool.not_eq_true', Bool.and_eq_true]

/-- The refusal of a frame that is not accepted: where the other checks pass, its body has the wrong length (R147). -/
theorem judge_of_not_accepts {s : State} {f : Frame} {o : Order} (hfree : s.Free f.port) (h : ¬ s.Accepts f o) :
    s.judge f o = some
      (if o.allowedOn f.port = false then .notPermitted
        else if s.portDetached f.port = true ∧ o.whileDetached = false then .detached
        else if s.portException f.port = true ∧ o.whileException = false then .exceptionPending
        else .range) := by
  rw [judge_eq]
  split_ifs with hright hdetached hexception hfits
  · rfl
  · rfl
  · rfl
  · rfl
  · refine absurd ⟨hfree, Bool.not_eq_false _ ▸ hright, fun hd => ?_, fun he => ?_, Bool.not_eq_false _ ▸ hfits⟩ h
    · simpa [hd] using hdetached
    · simpa [he] using hexception

end Sys2Proof.Machine

namespace Sys2Proof.Settled

open Sys2Proof.Machine

/-- Settles O4: the tables of rights order by order, the refusals by `judge_of_not_accepts`. -/
theorem framesJudged : Obligations.FramesJudged := by
  refine ⟨fun o => ?rights, fun i f o s horder hfree hnot => ?refusal, fun p code s hfree => ?noOrder⟩
  case rights =>
    cases o <;> simp [Order.allowedOn, Order.forManager, Order.forAccess, Order.whileDetached, Order.whileException]
  case refusal =>
    have hjudge := judge_of_not_accepts hfree hnot
    obtain ⟨rfl, hrestart⟩ | ⟨effect, htake, -⟩ := exec_order horder
    · rw [hrestart s, State.takeRestart, takeFrame_free hfree, hjudge]
      rfl
    · rw [htake s, takeOrder_refused hfree hjudge, refuse_eq_turnedAway]
  case noOrder =>
    exact ⟨congrArg _ (takeFrame_free hfree _ _ _), congrArg _ (takeFrame_free hfree _ _ _)⟩

end Sys2Proof.Settled

/-! SUPPORT. Attention flags and condition records, read and cleared (R150 to R153). -/

namespace Sys2Proof.Machine

/-! ### Lists of flags and causes (R152) -/

/-- As many objects are listed as flags of the table are set. -/
theorem setAt_length {n : Nat} (v : Vector Bool n) : (setAt v).length = v.toList.count true := by
  have hlist : v.toList = (List.finRange n).map (fun i => v[i.val]) := by
    apply List.ext_getElem <;> simp
  rw [hlist, List.count_eq_countP, List.countP_map, setAt, List.countP_eq_length_filter]
  congr 1
  exact List.filter_congr fun i _ => by simp

theorem setAt_ne_nil_iff {n : Nat} {v : Vector Bool n} : setAt v ≠ [] ↔ ∃ i : Fin n, v[i.val] = true := by
  simp [setAt, List.filter_eq_nil_iff]

theorem ManagerCondition.causes_length (k : ManagerCondition) :
    k.causes.length =
      k.groupFrozen.toList.count true + (if k.storeExhausted then 1 else 0) + k.linkFault.toList.count true := by
  simp only [ManagerCondition.causes, List.length_append, List.length_map, setAt_length]
  split <;> rfl

theorem AccessCondition.causes_length (k : AccessCondition) :
    k.causes.length = k.late.toList.count true + k.excluded.toList.count true := by
  simp only [AccessCondition.causes, List.length_append, List.length_map, setAt_length]

theorem ManagerPort.flags_ne_nil_iff {k : ManagerPort} :
    k.flags ≠ [] ↔ (∃ g : GroupNo, k.groupAlert[g.val] = true) ∨ ∃ c : CarrierNo, k.carrierAlert[c.val] = true := by
  simp only [← setAt_ne_nil_iff, ManagerPort.flags, ne_eq, List.append_eq_nil_iff, List.map_eq_nil_iff, not_and_or]

theorem AccessPort.flags_ne_nil_iff {k : AccessPort} :
    k.flags ≠ [] ↔
      (∃ g : GroupNo, k.keyWaiting[g.val] = true ∨ k.planWaiting[g.val] = true) ∨ k.batchEnd = true := by
  have hbatch : (if k.batchEnd then [Flag.batchEnd] else []) = [] ↔ ¬ k.batchEnd = true := by
    split <;> simp_all
  simp only [exists_or, ← setAt_ne_nil_iff, AccessPort.flags, ne_eq, List.append_eq_nil_iff, List.map_eq_nil_iff,
    hbatch, not_and_or, not_not]

/-! ### Attention lines (R152, R154, R155) -/

theorem attention_manager_iff {s : State} :
    s.attention .manager = true ↔
      s.resetLow = false ∧ s.restart = .idle ∧ (s.manager.flags ≠ [] ∨ s.manager.state = .exception) := by
  simp [State.attention, and_assoc]

theorem attention_access_iff {s : State} {p : PortNo} :
    s.attention (.access p) = true ↔
      s.resetLow = false ∧ s.restart = .idle ∧ ((s.port p).flags ≠ [] ∨ (s.port p).state = .exception) := by
  simp [State.attention, and_assoc]

/-! ### READ CONDITION (R151) -/

/-- READ CONDITION passes every check of R147 on a free port. -/
theorem exec_readCondition {s t : State} {p : PortId} {b : ReplyBody} (h : s.Free p)
    (he : readCondition ⟨p, true⟩ s = (t, .done b)) :
    exec (.readCondition ⟨p, true⟩) s = .next (t.done ⟨p, true⟩ .readCondition b) := by
  have haccepts : s.Accepts ⟨p, true⟩ .readCondition := ⟨h, by cases p <;> rfl, fun _ => rfl, fun _ => rfl, rfl⟩
  exact congrArg Host.Outcome.next (takeOrder_done haccepts he)

theorem PortState.afterRead_eq (k : PortState) : k.afterRead = if k = .detached then .detached else .ready := by
  cases k <;> rfl

theorem readAccessCondition_eq (p : PortNo) (s : State) :
    readAccessCondition p s =
      (s.setPort p
        { s.port p with
          state := if (s.port p).state = .detached then .detached else .ready
          condition := AccessCondition.cleared },
        .done (.accessCondition (s.port p).condition (s.port p).state)) := by
  rw [← PortState.afterRead_eq]
  rfl

/-- Sending a reply is an affair of the line: the port's flags stay. -/
theorem done_access_flags (t : State) (p : PortNo) (o : Order) (b : ReplyBody) :
    ((t.done ⟨.access p, true⟩ o b).port p).flags = (t.port p).flags := by
  simp [State.done, State.setLine, AccessPort.flags]

/-! ### ACKNOWLEDGE (R153) -/

theorem acknowledgeGroupAlert_eq (s : State) (g : GroupNo) :
    acknowledgeGroupAlert ⟨.manager, true⟩ g.val s =
      if (s.group g).state = .extended ∨ (s.group g).state = .frozen ∨ (s.group g).plan.status = .fault then
        (s, .done (.acknowledged s.manager.groupAlert[g.val]))
      else (s.setGroupAlert g false, .done (.acknowledged false)) := by
  rw [acknowledgeGroupAlert, toGroup_val]
  simp only [Group.alert_iff]
  split
  · rfl
  · simp [State.setGroupAlert]

theorem acknowledgeCarrierAlert_eq (s : State) (c : CarrierNo) :
    acknowledgeCarrierAlert ⟨.manager, true⟩ c.val s =
      if (s.carrier c).degraded = true then (s, .done (.acknowledged s.manager.carrierAlert[c.val]))
      else (s.setCarrierAlert c false, .done (.acknowledged false)) := by
  rw [acknowledgeCarrierAlert, toCarrier_val]
  dsimp only
  split
  · rfl
  · simp [State.setCarrierAlert]

end Sys2Proof.Machine

namespace Sys2Proof.Settled

open Sys2Proof.Machine

/-- Settles O10: the order passes every check of a free port, and clears the record but no flag. -/
theorem readCondition : Obligations.ReadCondition := by
  refine ⟨fun s h => ?manager, fun p s h => ?access⟩
  case manager =>
    have hexec := exec_readCondition h rfl
    refine ⟨hexec, fun t ht hflags => ?_⟩
    cases hexec.symm.trans ht
    obtain ⟨hreset, hidle, -⟩ := h
    exact attention_manager_iff.2 ⟨hreset, hidle, .inl hflags⟩
  case access =>
    have hexec := exec_readCondition h (readAccessCondition_eq p s)
    refine ⟨hexec, fun t ht hflags => ?_⟩
    cases hexec.symm.trans ht
    obtain ⟨hreset, hidle, -⟩ := h
    refine attention_access_iff.2 ⟨hreset, hidle, .inl ?_⟩
    rw [done_access_flags, State.setPort_self]
    exact hflags

/-- Settles O11: the causes are counted by `setAt_length`; the attention lines read the lists of set flags. -/
theorem readSummary : Obligations.ReadSummary := by
  refine ⟨fun s h => ?manager, fun p s h => ?access, fun s => ⟨?_, fun p => ?_⟩⟩
  case manager =>
    refine congrArg _ (takeOrder_done h ?_)
    rw [← ManagerCondition.causes_length]
    rfl
  case access =>
    refine congrArg _ (takeOrder_done h ?_)
    rw [← AccessCondition.causes_length]
    rfl
  · rw [attention_manager_iff, ManagerPort.flags_ne_nil_iff, or_assoc]
  · rw [attention_access_iff, AccessPort.flags_ne_nil_iff, or_assoc]

/-- Settles O12: each kind on the port that has it by its equation; every other port, kind or object is refused. -/
theorem acknowledge : Obligations.Acknowledge := by
  intro s
  refine ⟨fun p object h => ⟨?_, ?_, ?_, fun kind => ?_⟩,
    fun h => ⟨fun kind object => ?_, fun object ho => ?_, fun object ho => ?_, fun g => ?_, fun c => ?_⟩⟩
  · exact congrArg _ (takeOrder_done h rfl)
  · exact congrArg _ (takeOrder_rejected h rfl)
  · exact congrArg _ (takeOrder_rejected h rfl)
  · exact congrArg _ (takeOrder_rejected h rfl)
  · exact congrArg _ (takeOrder_rejected h rfl)
  · exact congrArg _ (takeOrder_rejected h (by rw [acknowledgeGroupAlert, toGroup_none ho]))
  · exact congrArg _ (takeOrder_rejected h (by rw [acknowledgeCarrierAlert, toCarrier_none ho]))
  · refine congrArg Host.Outcome.next (?_ : s.takeOrder _ _ _ = _)
    rw [takeOrder_accepts h, acknowledgeGroupAlert_eq]
    split <;> rfl
  · refine congrArg Host.Outcome.next (?_ : s.takeOrder _ _ _ = _)
    rw [takeOrder_accepts h, acknowledgeCarrierAlert_eq]
    split <;> rfl

end Sys2Proof.Settled

/-! SUPPORT. A port's line, and the restart (R145, R146, R149, R154, R155). -/

namespace Sys2Proof.Machine

/-! ### Lines (R145, R146, R149) -/

theorem State.setLine_same (s : State) (p : PortId) : s.setLine p (s.line p) = s := by
  cases p with
  | manager => rfl
  | access p => exact State.setPort_same s p

/-- Where nothing is being sent nothing happens; otherwise what waited is sent (R146). -/
theorem replySent_eq (s : State) (p : PortId) :
    s.replySent p =
      if (s.line p).sending = none then s
      else s.setLine p { s.line p with inHand := none, sending := (s.line p).waiting, waiting := none } := by
  rw [State.replySent, OrderLine.sent]
  split_ifs with hsome hnone hnone
  · rw [hnone] at hsome; cases hsome
  · rfl
  · exact s.setLine_same p
  · exact absurd (Option.isSome_iff_ne_none.2 hnone) hsome

/-- The line of an access port is held by the reset input and by a restart (R154, R155). -/
theorem not_lineHeld_access (s : State) (p : PortNo) :
    (!s.lineHeld (.access p)) = (!s.resetLow && decide (s.restart = .idle)) := by
  rw [State.lineHeld, Bool.not_or, bne, Bool.not_not, Bool.beq_eq_decide_eq]

/-- The line of a DETACHED port loses its signal: no other record changes. -/
theorem accessLinkDown_detached {s : State} {p : PortNo} (h : (s.port p).state = .detached) :
    s.accessLinkDown p = s.setLine (.access p) ((s.port p).line.lost s.time) := by
  refine if_pos ?_
  rw [State.setLine, State.setPort_self]
  exact h

theorem managerLinkDown_idle {s : State} (h : s.restart = .idle) :
    s.managerLinkDown = s.setLine .manager (s.manager.line.lost s.time) := by
  rw [State.managerLinkDown, h]

theorem managerLinkDown_running {s : State} {b : Bool} (h : s.restart = .running b) :
    s.managerLinkDown =
      { s.setLine .manager { s.manager.line.lost s.time with inHand := s.manager.line.inHand } with
        restart := .running false } := by
  rw [State.managerLinkDown, h]

/-! ### The completion of a restart (R149, R155) -/

theorem restartCompletion_wanted {s : State} (h : s.restart = .running true) :
    s.restartCompletion =
      State.done { s with restart := .idle } ⟨.manager, true⟩ .restartPart (.restart s.stationNumber s.time) := by
  rw [State.restartCompletion, h]
  rfl

theorem restartCompletion_unwanted {s : State} (h : s.restart = .running false) :
    s.restartCompletion =
      { s with restart := .idle, manager := { s.manager with line := { s.manager.line with inHand := none } } } := by
  rw [State.restartCompletion, h]
  rfl

theorem restartCompletion_idle {s : State} (h : s.restart = .idle) : s.restartCompletion = s := by
  rw [State.restartCompletion, h]

end Sys2Proof.Machine

namespace Sys2Proof.Settled

open Sys2Proof.Machine

/-- Settles O7, from the equation of each event of a line. -/
theorem linesOfPorts : Obligations.LinesOfPorts := by
  intro s lostAt
  refine ⟨fun p => congrArg _ (replySent_eq s p), rfl, fun p => ?up,
    fun hidle => congrArg Host.Outcome.next (managerLinkDown_idle hidle),
    fun b hrunning => congrArg Host.Outcome.next (managerLinkDown_running hrunning),
    fun p hdetached => congrArg Host.Outcome.next (accessLinkDown_detached hdetached)⟩
  rw [← not_lineHeld_access s p]
  rfl

/-- Settles O14: the acceptance by `takeRestart_accepts`, the completion from its equations. -/
theorem restartPart : Obligations.RestartPart :=
  ⟨fun _ h => congrArg Host.Outcome.next (takeRestart_accepts h),
    fun _ h => congrArg Host.Outcome.next (restartCompletion_wanted h),
    fun _ h => congrArg Host.Outcome.next (restartCompletion_unwanted h),
    fun _ h => congrArg Host.Outcome.next (restartCompletion_idle h)⟩

end Sys2Proof.Settled

/-! SUPPORT. Every command completes and leaves the waiting commands alone: of each operation, that it writes no command
queue (R1, R146; log entry 1). -/

namespace Sys2Proof.Machine

/-! ### Operations with a shape -/

section
variable {s t : State}

theorem BoundaryOnly.pending : BoundaryOnly s t → t.pending = s.pending := by
  rintro ⟨_, _, _, _, _, _, _, rfl⟩; rfl

theorem AllocationOnly.pending (h : AllocationOnly s t) : t.pending = s.pending := h.boundary.pending
theorem OutputOnly.pending (h : OutputOnly s t) : t.pending = s.pending := h.boundary.pending
theorem KeySideOnly.pending (h : KeySideOnly s t) : t.pending = s.pending := h.allocation.pending
theorem AccessOnly.pending (h : AccessOnly s t) : t.pending = s.pending := h.keySide.pending
theorem CarriersOnly.pending (h : CarriersOnly s t) : t.pending = s.pending := h.keySide.pending
theorem GroupsOnly.pending (h : GroupsOnly s t) : t.pending = s.pending := h.keySide.pending

end

/-- A fold whose steps keep the waiting commands keeps them. -/
theorem foldl_pending {α : Type} {f : State → α → State} (h : ∀ s a, (f s a).pending = s.pending) (l : List α)
    (s : State) : (l.foldl f s).pending = s.pending := by
  induction l generalizing s with
  | nil => rfl
  | cons a l ih => exact (ih _).trans (h s a)

section
variable (s : State)

@[simp] theorem recompute_pending (g : GroupNo) : (s.recompute g).pending = s.pending := (recompute_shape s g).pending

@[simp] theorem recomputeAll_pending : s.recomputeAll.pending = s.pending := (recomputeAll_shape s).pending

@[simp] theorem raiseKeyWaiting_pending (g : GroupNo) : (s.raiseKeyWaiting g).pending = s.pending :=
  (raiseKeyWaiting_shape s g).pending

@[simp] theorem clearKeyWaiting_pending (g : GroupNo) : (s.clearKeyWaiting g).pending = s.pending :=
  (clearKeyWaiting_shape s g).pending

@[simp] theorem raiseLate_pending (g : GroupNo) : (s.raiseLate g).pending = s.pending := (raiseLate_shape s g).pending

@[simp] theorem setRole_pending (g : GroupNo) (p : PortNo) (r : Role) : (s.setRole g p r).pending = s.pending :=
  (setRole_shape s g p r).pending

@[simp] theorem storePacket_pending (g : GroupNo) (ph : Phase) (k : KeySlot) (p : PortNo) (body : List Byte) :
    (s.storePacket g ph k p body).pending = s.pending := (storePacket_shape s g ph k p body).pending

@[simp] theorem resolve_pending (g : GroupNo) : (s.resolve g).pending = s.pending := (resolve_shape s g).pending

@[simp] theorem resolveFor_pending (p : PortNo) : (s.resolveFor p).pending = s.pending := (resolveFor_shape s p).pending

@[simp] theorem leaveGroups_pending (p : PortNo) : (s.leaveGroups p).pending = s.pending :=
  (leaveGroups_shape s p).pending

@[simp] theorem carrierOff_pending (c : CarrierNo) : (s.carrierOff c).pending = s.pending :=
  (carrierOff_shape s c).pending

@[simp] theorem drawPending_pending (g : GroupNo) (serial : Serial) : (s.drawPending g serial).pending = s.pending := by
  obtain ⟨_, _, _, h⟩ := drawPending_shape s g serial
  rw [h]

/-! ### Flags, roles and plans (R78, R84, R101, R109) -/

@[simp] theorem setPlanWaiting_pending (p : PortNo) (g : GroupNo) (v : Bool) :
    (s.setPlanWaiting p g v).pending = s.pending := rfl

@[simp] theorem setGroupAlert_pending (g : GroupNo) (v : Bool) : (s.setGroupAlert g v).pending = s.pending := rfl

@[simp] theorem managerCause_pending (k : ManagerCondition) : (s.managerCause k).pending = s.pending := rfl

@[simp] theorem keepEntries_pending (keep : CarouselEntry → Bool) : (s.keepEntries keep).pending = s.pending := rfl

@[simp] theorem detachPort_pending (p : PortNo) : (s.detachPort p).pending = s.pending := by
  unfold State.detachPort
  simp

theorem firstAgreement_pending (g : GroupNo) : (s.firstAgreement g).pending = s.pending := by
  obtain ⟨_, _, h, -⟩ := drawKey_spec s none
  unfold State.firstAgreement
  simp [h]

theorem agree_pending (g : GroupNo) : (s.agree g).pending = s.pending := by
  unfold State.agree
  dsimp only
  split
  · exact firstAgreement_pending _ g
  · rfl

@[simp] theorem join_pending (g : GroupNo) (p : PortNo) : (s.join g p).pending = s.pending := by
  unfold State.join
  dsimp only
  split
  · simp [agree_pending]
  · simp

theorem changeRoster_pending (g : GroupNo) (roster : PortSet) : (s.changeRoster g roster).pending = s.pending :=
  foldl_pending (fun s p => by dsimp only; split <;> split <;> simp) _ s

theorem changeLimit_pending (g : GroupNo) (limit : Nat) : (s.changeLimit g limit).pending = s.pending := by
  unfold State.changeLimit
  dsimp only
  split
  · split <;> rfl
  · rfl
  · rfl

@[simp] theorem redefine_pending (g : GroupNo) (d : GroupDef) : (s.redefine g d).pending = s.pending := by
  unfold State.redefine
  simp [changeLimit_pending, changeRoster_pending]

@[simp] theorem release_pending (g : GroupNo) : (s.release g).pending = s.pending :=
  foldl_pending (f := fun s p => (s.setKeyWaiting p g false).setPlanWaiting p g false) (fun _ _ => rfl) _ _

@[simp] theorem restartGroup_pending (g : GroupNo) : (s.restartGroup g).pending = s.pending := by
  unfold State.restartGroup State.removeSlotEntries
  simp

/-! ### Group events (R85, R86, R91, R92) -/

theorem drawEvent_pending (g : GroupNo) : (s.drawEvent g).pending = s.pending := by
  unfold State.drawEvent
  dsimp only
  split
  · simp
  · rfl

theorem startEvent_pending (g : GroupNo) : (s.startEvent g).pending = s.pending := by
  unfold State.startEvent
  dsimp only
  split
  · simp
  · rfl

theorem deferChangeover_pending (g : GroupNo) : (s.deferChangeover g).pending = s.pending := by
  unfold State.deferChangeover State.addGroupFrozen
  simp [apply_ite State.pending]

theorem swapSlots_pending (g : GroupNo) : (s.swapSlots g).pending = s.pending := by
  unfold State.swapSlots State.removeSlotEntries
  simp

theorem changeover_pending (g : GroupNo) : (s.changeover g).pending = s.pending := by
  unfold State.changeover
  dsimp only
  split
  · split
    · exact swapSlots_pending s g
    · exact deferChangeover_pending s g
  · rfl

/-! ### Programmes in service (R15, R16) -/

@[simp] theorem goLive_pending (p : ProgrammeNo) : (s.goLive p).pending = s.pending := by
  unfold State.goLive
  dsimp only
  split
  · split
    · rw [recompute_pending]; split <;> rfl
    · rfl
  · rfl

@[simp] theorem goIdle_pending (p : ProgrammeNo) : (s.goIdle p).pending = s.pending := by
  unfold State.goIdle
  dsimp only
  split
  · split
    · rw [recompute_pending]; split <;> rfl
    · rfl
  · rfl

/-! ### Ingest (R19 to R30) -/

theorem leaveLocked_pending (l : LinkNo) (next : LinkState) : (s.leaveLocked l next).pending = s.pending := by
  unfold State.leaveLocked State.addLinkFault State.endContext
  split <;> rfl

theorem lossOfSignal_pending (l : LinkNo) : (s.lossOfSignal l).pending = s.pending := by
  unfold State.lossOfSignal
  dsimp only
  split
  · rfl
  · rfl
  · exact leaveLocked_pending _ l _

theorem missingSync_pending (l : LinkNo) : (s.missingSync l).pending = s.pending := by
  unfold State.missingSync
  split
  · exact leaveLocked_pending s l _
  · rfl

theorem runaway_pending (l : LinkNo) : (s.runaway l).pending = s.pending := by
  unfold State.runaway
  split
  · exact leaveLocked_pending s l _
  · rfl

theorem takeHeader_pending (l : LinkNo) (h : UnitHeader) : (s.takeHeader l h).pending = s.pending := by
  unfold State.takeHeader
  split
  · split <;> rfl
  · rfl

theorem headerTaken_pending (l : LinkNo) (h : UnitHeader) : (s.headerTaken l h).pending = s.pending := by
  unfold State.headerTaken
  split
  · exact takeHeader_pending s l h
  · rfl

theorem syncMarkFound_pending (l : LinkNo) (h : UnitHeader) : (s.syncMarkFound l h).pending = s.pending := by
  unfold State.syncMarkFound
  split
  · rfl
  · exact takeHeader_pending _ l h
  · exact headerTaken_pending s l h

theorem cellClaim_pending (l : LinkNo) (stretch : List Byte) : (s.cellClaim l stretch).pending = s.pending := by
  unfold State.cellClaim
  split
  · split
    · split <;> rfl
    · rfl
  · rfl

theorem completeUnit_pending (u : PartialUnit) : (s.completeUnit u).pending = s.pending := by
  unfold State.completeUnit State.placeUnit
  split
  · dsimp only
    split
    · rfl
    · split <;> rfl
  · rfl

theorem unitCompletion_pending (l : LinkNo) : (s.unitCompletion l).pending = s.pending := by
  unfold State.unitCompletion
  dsimp only
  split
  · split
    · exact completeUnit_pending _ _
    · rfl
  · rfl

/-! ### The output side (R64, R133) -/

theorem shrinkCompletion_pending (c : CarrierNo) : (s.shrinkCompletion c).pending = s.pending := by
  unfold State.shrinkCompletion
  split
  · exact (shrinkNext_shape s c).pending
  · rfl

theorem sliceEmission_pending (c : CarrierNo) : (s.sliceEmission c).pending = s.pending := by
  unfold State.sliceEmission
  split
  · exact (emitSlice_shape s c).pending
  · rfl

/-! ### Lines and the restart (R149, R155) -/

theorem linkDown_pending (q : PortId) : (s.linkDown q).pending = s.pending := by
  unfold State.linkDown
  split
  · unfold State.managerLinkDown
    split <;> rfl
  · unfold State.accessLinkDown
    dsimp only
    split <;> simp

theorem restartCompletion_pending : s.restartCompletion.pending = s.pending := by
  unfold State.restartCompletion
  split
  · rfl
  · dsimp only
    split <;> rfl

end

/-! ### Orders (R145 to R147) -/

theorem pending_offLine (queue : List Instr) : OffLine (fun s => s.pending = queue) where
  line s q ln h := (State.setLine_pending s q ln).trans h
  count s q h := (State.countRefusal_pending s q).trans h

/-- An order frame keeps the waiting commands where its effect does. -/
theorem takeOrder_pending {s : State} {f : Frame} {o : Order} {effect : State → State × Response}
    (h : (effect s).1.pending = s.pending) : (s.takeOrder f o effect).pending = s.pending :=
  (pending_offLine s.pending).takeOrder rfl h

theorem takeAccessOrder_pending {s : State} {f : Frame} {o : Order} {effect : PortNo → State → State × Response}
    (h : ∀ p, (effect p s).1.pending = s.pending) : (s.takeOrder f o (onAccess f effect)).pending = s.pending :=
  takeOrder_pending (onAccess_keeps (P := fun t => t.pending = s.pending) rfl h)

/-- A frame that is no order comes to a refusal at most. -/
theorem takeFrame_refuse_pending (s : State) (p : PortId) (code : Nat) (r r' : RefusalCode) :
    (s.takeFrame p code r' (fun s => s.refuse p code r)).pending = s.pending :=
  (pending_offLine s.pending).takeFrame rfl ((pending_offLine s.pending).refuse _ _ _ _ rfl)

theorem takeRestart_pending (s : State) (f : Frame) : (s.takeRestart f).pending = s.pending := by
  refine (pending_offLine s.pending).takeFrame rfl ?_
  split
  · exact (pending_offLine s.pending).refuse _ _ _ _ rfl
  · rfl

/-- What an order does past a check keeps the waiting commands where its effect does. -/
theorem unlessRefused_pending {s : State} {b : Prop} [Decidable b] {r : RefusalCode} {x : State × Response}
    (h : x.1.pending = s.pending) : (if b then refused s r else x).1.pending = s.pending := by
  split
  · rfl
  · exact h

section
variable (s : State)

theorem setCarrierOff_pending (carrier : Nat) : (setCarrierOff carrier s).1.pending = s.pending := by
  unfold setCarrierOff
  split
  · rfl
  · dsimp only
    split <;> simp [refused]

theorem setProgrammeLive_pending (programme : Nat) (target : Selector) :
    (setProgrammeLive programme target s).1.pending = s.pending := by
  unfold setProgrammeLive
  split
  · split
    · exact goLive_pending s _
    · rfl
  · rfl

theorem setProgrammeIdle_pending (programme : Nat) : (setProgrammeIdle programme s).1.pending = s.pending := by
  unfold setProgrammeIdle
  split
  · rfl
  · split
    · exact goIdle_pending s _
    · rfl

theorem defineGroup_pending (group : Nat) (roster : BitVec 8) (preference : List Nat) (repeatMs limit policy : Nat) :
    (defineGroup group roster preference repeatMs limit policy s).1.pending = s.pending := by
  unfold defineGroup
  split
  · dsimp only
    rw [resolve_pending]
    split
    · rfl
    · exact redefine_pending s _ _
  · rfl

theorem releaseGroup_pending (group : Nat) : (releaseGroup group s).1.pending = s.pending := by
  unfold releaseGroup
  split
  · rfl
  · exact unlessRefused_pending (release_pending s _)

theorem restartGroupOrder_pending (group : Nat) : (restartGroup group s).1.pending = s.pending := by
  unfold restartGroup
  split
  · rfl
  · split
    · exact restartGroup_pending s _
    · rfl

theorem attach_pending (o : Offer) (p : PortNo) : (attach o p s).1.pending = s.pending := by
  unfold attach
  split
  · rfl
  · dsimp only
    rw [resolveFor_pending]
    split <;> rfl

theorem planAck_pending (group number : Nat) (o : Offer) (p : PortNo) :
    (planAck group number o p s).1.pending = s.pending := by
  unfold planAck
  split
  · rfl
  · refine unlessRefused_pending (unlessRefused_pending (unlessRefused_pending ?_))
    dsimp only
    split
    · exact join_pending s _ p
    · exact resolveFor_pending _ p

theorem submitAccess_pending (group : Nat) (serial : Serial) (body : List Byte) (p : PortNo) :
    (submitAccess group serial body p s).1.pending = s.pending := by
  unfold submitAccess
  split
  · rfl
  · refine unlessRefused_pending ?_
    split
    · rfl
    · split
      · dsimp only
        exact storePacket_pending s _ _ _ p body
      · rfl

theorem acknowledgeGroupAlert_pending (f : Frame) (object : Nat) :
    (acknowledgeGroupAlert f object s).1.pending = s.pending := by
  unfold acknowledgeGroupAlert
  split
  · dsimp only
    split <;> rfl
  · rfl

theorem acknowledgeCarrierAlert_pending (f : Frame) (object : Nat) :
    (acknowledgeCarrierAlert f object s).1.pending = s.pending := by
  unfold acknowledgeCarrierAlert
  split
  · dsimp only
    split <;> rfl
  · rfl

end

/-! ### Every command -/

/-- Every command has a next state, with the same commands waiting. -/
theorem exec_pending (c : Instr) (s : State) : ∃ t, exec c s = .next t ∧ t.pending = s.pending := by
  cases c
  case defineCarrier => exact ⟨_, rfl, takeOrder_pending (by fun_cases defineCarrier <;> rfl)⟩
  case setCarrierOn => exact ⟨_, rfl, takeOrder_pending (by fun_cases setCarrierOn <;> rfl)⟩
  case setCarrierOff => exact ⟨_, rfl, takeOrder_pending (setCarrierOff_pending s _)⟩
  case readCarrier => exact ⟨_, rfl, takeOrder_pending (congrArg _ (readCarrier_state s _))⟩
  case defineProgramme => exact ⟨_, rfl, takeOrder_pending (by fun_cases defineProgramme <;> rfl)⟩
  case setProgrammeLive => exact ⟨_, rfl, takeOrder_pending (setProgrammeLive_pending s _ _)⟩
  case setProgrammeIdle => exact ⟨_, rfl, takeOrder_pending (setProgrammeIdle_pending s _)⟩
  case setProgrammeUnused => exact ⟨_, rfl, takeOrder_pending (by fun_cases setProgrammeUnused <;> rfl)⟩
  case readProgramme => exact ⟨_, rfl, takeOrder_pending (congrArg _ (readProgramme_state s _))⟩
  case defineGroup => exact ⟨_, rfl, takeOrder_pending (defineGroup_pending s _ _ _ _ _ _)⟩
  case releaseGroup => exact ⟨_, rfl, takeOrder_pending (releaseGroup_pending s _)⟩
  case restartGroup => exact ⟨_, rfl, takeOrder_pending (restartGroupOrder_pending s _)⟩
  case readGroup => exact ⟨_, rfl, takeOrder_pending (congrArg _ (readGroup_state s _))⟩
  case setAllowance => exact ⟨_, rfl, takeOrder_pending (by fun_cases setAllowance <;> rfl)⟩
  case restartPart => exact ⟨_, rfl, takeRestart_pending s _⟩
  case restartCompletion => exact ⟨_, rfl, restartCompletion_pending s⟩
  case attach => exact ⟨_, rfl, takeAccessOrder_pending (attach_pending s _)⟩
  case detach => exact ⟨_, rfl, takeAccessOrder_pending (detachPort_pending s)⟩
  case planAck => exact ⟨_, rfl, takeAccessOrder_pending (planAck_pending s _ _ _)⟩
  case fetchKeyActive => exact ⟨_, rfl, takeAccessOrder_pending fun p => congrArg _ (fetchActive_state s _ _ p)⟩
  case fetchKeyPending => exact ⟨_, rfl, takeAccessOrder_pending fun p => by fun_cases fetchPending <;> rfl⟩
  case submitAccess => exact ⟨_, rfl, takeAccessOrder_pending (submitAccess_pending s _ _ _)⟩
  case probeGroup => exact ⟨_, rfl, takeAccessOrder_pending fun p => congrArg _ (probeGroup_state s _ p)⟩
  case openBatch => exact ⟨_, rfl, takeAccessOrder_pending fun p => by fun_cases openBatch <;> rfl⟩
  case submitSubscriber => exact ⟨_, rfl, takeAccessOrder_pending fun p => by fun_cases submitSubscriber <;> rfl⟩
  case readTime => exact ⟨_, rfl, takeOrder_pending rfl⟩
  case readCondition => exact ⟨_, rfl, takeOrder_pending (by fun_cases readCondition <;> rfl)⟩
  case readSummary => exact ⟨_, rfl, takeOrder_pending (congrArg _ (readSummary_state s _))⟩
  case acknowledgeBatchEnd => exact ⟨_, rfl, takeOrder_pending (by fun_cases acknowledgeBatchEnd <;> rfl)⟩
  case acknowledgeGroupAlert => exact ⟨_, rfl, takeOrder_pending (acknowledgeGroupAlert_pending s _ _)⟩
  case acknowledgeCarrierAlert => exact ⟨_, rfl, takeOrder_pending (acknowledgeCarrierAlert_pending s _ _)⟩
  case unknownOrderCode => exact ⟨_, rfl, takeFrame_refuse_pending s _ _ _ _⟩
  case framingFailure => exact ⟨_, rfl, takeFrame_refuse_pending s _ _ _ _⟩
  case replySent => exact ⟨_, rfl, State.setLine_pending s _ _⟩
  case orderLinkUp => exact ⟨_, rfl, State.setLine_pending s _ _⟩
  case orderLinkDown => exact ⟨_, rfl, linkDown_pending s _⟩
  case powerOn => exact ⟨_, rfl, rfl⟩
  case resetInputLow => exact ⟨_, rfl, rfl⟩
  case signalDetected => exact ⟨_, rfl, rfl⟩
  case lossOfSignal => exact ⟨_, rfl, lossOfSignal_pending s _⟩
  case syncMarkFound => exact ⟨_, rfl, syncMarkFound_pending s _ _⟩
  case headerTaken => exact ⟨_, rfl, headerTaken_pending s _ _⟩
  case cellClaim => exact ⟨_, rfl, cellClaim_pending s _ _⟩
  case missingSyncMark => exact ⟨_, rfl, missingSync_pending s _⟩
  case runawayUnit => exact ⟨_, rfl, runaway_pending s _⟩
  case unitCompletion => exact ⟨_, rfl, unitCompletion_pending s _⟩
  case boundary => exact ⟨_, rfl, (boundary_shape s _).pending⟩
  case shrinkCompletion => exact ⟨_, rfl, shrinkCompletion_pending s _⟩
  case sliceEmission => exact ⟨_, rfl, sliceEmission_pending s _⟩
  case drawEvent => exact ⟨_, rfl, drawEvent_pending s _⟩
  case startEvent => exact ⟨_, rfl, startEvent_pending s _⟩
  case changeoverEvent => exact ⟨_, rfl, changeover_pending s _⟩

end Sys2Proof.Machine

namespace Sys2Proof.Settled

open Sys2Proof.Machine

/-- Settles O2, command by command in `exec_pending`. -/
theorem everyCommandCompletes : Obligations.EveryCommandCompletes := exec_pending

end Sys2Proof.Settled

/-! SUPPORT. The hunt for a mark behind bytes that hold none (R145, R157). -/

namespace Sys2Proof

section
variable {mark junk : List Byte}

/-- Bytes that hold no mark leave at most the beginning of one. -/
theorem hunt_of_no_mark (h : ¬ mark <:+: junk) : hunt mark junk <+: mark ∧ hunt mark junk ≠ mark := by
  have hsuffix := hunt_suffix mark junk
  have hne : hunt mark junk ≠ mark := fun heq => h (heq ▸ hsuffix.isInfix)
  refine ⟨?_, hne⟩
  obtain hnil | hbegins := hunt_begins mark junk
  · rw [hnil]
    exact List.nil_prefix
  · rw [beginsMark, Bool.or_eq_true, List.isPrefixOf_iff_prefix, List.isPrefixOf_iff_prefix] at hbegins
    exact hbegins.resolve_left fun hmark => h (hmark.isInfix.trans hsuffix.isInfix)

/-- A mark whose first byte does not recur in it begins nowhere between bytes that hold none and the mark behind
them. -/
theorem not_beginsMark_of_no_mark {m b : Byte} {ms : List Byte} (hm : m ∉ ms) (h : ¬ m :: ms <:+: b :: junk)
    (rest : List Byte) : beginsMark (m :: ms) (b :: (junk ++ (m :: ms ++ rest))) = false := by
  have hlong : ¬ b :: (junk ++ (m :: ms ++ rest)) <+: m :: ms := fun hp => by
    have hlength := hp.length_le
    simp only [List.length_cons, List.length_append] at hlength
    omega
  have hmark : ¬ m :: ms <+: (b :: junk) ++ (m :: ms ++ rest) := fun hp => by
    obtain hin | ⟨tail, htail⟩ := List.prefix_or_prefix_of_prefix hp (List.prefix_append ..)
    · exact h hin.isInfix
    · cases tail with
      | nil => exact h (by rw [← htail, List.append_nil])
      | cons x tail =>
        rw [← htail, List.prefix_append_right_inj, htail, List.cons_append, List.cons_prefix_cons] at hp
        obtain ⟨rfl, -⟩ := hp
        rw [List.cons_append, List.cons.injEq] at htail
        exact hm (htail.2 ▸ List.mem_append_right _ (List.mem_cons_self ..))
  rw [beginsMark, Bool.or_eq_false_iff]
  exact ⟨Bool.eq_false_iff.2 (mt List.isPrefixOf_iff_prefix.1 hmark),
    Bool.eq_false_iff.2 (mt List.isPrefixOf_iff_prefix.1 hlong)⟩

/-- The hunt discards bytes that hold no mark, and stops at the mark behind them. -/
theorem hunt_append {m : Byte} {ms : List Byte} (hm : m ∉ ms) (rest : List Byte) :
    ∀ {junk : List Byte}, ¬ m :: ms <:+: junk → hunt (m :: ms) (junk ++ (m :: ms ++ rest)) = m :: ms ++ rest
  | [], _ => hunt_mark _ _
  | b :: junk, h => by
      have htail : ¬ m :: ms <:+: junk := fun hin => h (hin.trans (List.suffix_cons b junk).isInfix)
      rw [List.cons_append, hunt, not_beginsMark_of_no_mark hm h]
      exact hunt_append hm rest htail

end

end Sys2Proof

/-! SUPPORT. Order frames: the fields of each body read back, the frame around a body, and what the hunt makes of a line
(R145, R156). -/

namespace Sys2Proof
open Sys2Proof.Machine (byteOf_toNat)

/-! ### Numbers of a known width -/

theorem beNat_word {v : Nat} (h : v < 65536) : beNat (beBytes 2 v) = v := beNat_beBytes (n := 2) h

theorem beNat_long {v : Nat} (h : v < 4294967296) : beNat (beBytes 4 v) = v := beNat_beBytes (n := 4) h

theorem byteOf_map_toNat {vs : List Nat} (h : ∀ v ∈ vs, v < 256) : (vs.map byteOf).map (·.toNat) = vs := by
  rw [List.map_map]
  exact (List.map_congr_left fun v hv => byteOf_toNat (h v hv)).trans (List.map_id' _)

/-! ### Bodies (R156) -/

section
variable (p : PortId)

theorem readDefineCarrier_fields {c q t a : Nat} (hc : c < 256) (hq : q < 4294967296) (ht : t < 4294967296)
    (ha : a < 65536) :
    readDefineCarrier p (byteOf c :: (beBytes 4 q ++ beBytes 4 t ++ beBytes 2 a)) =
      .defineCarrier (goodFrame p) c q t a := by
  change Instr.defineCarrier _ (byteOf c).toNat (beNat (beBytes 4 q)) (beNat (beBytes 4 t)) (beNat (beBytes 2 a)) = _
  rw [byteOf_toNat hc, beNat_long hq, beNat_long ht, beNat_word ha]

theorem readDefineProgramme_fields {n c g w fl k : Nat} (hn : n < 256) (hc : c < 256) (hg : g < 256) (hw : w < 65536)
    (hfl : fl < 65536) (hk : k < 65536) :
    readDefineProgramme p ([byteOf n, byteOf c, byteOf g] ++ beBytes 2 w ++ beBytes 2 fl ++ beBytes 2 k) =
      .defineProgramme (goodFrame p) n c g w fl k := by
  change Instr.defineProgramme _ (byteOf n).toNat (byteOf c).toNat (byteOf g).toNat (beNat (beBytes 2 w))
    (beNat (beBytes 2 fl)) (beNat (beBytes 2 k)) = _
  rw [byteOf_toNat hn, byteOf_toNat hc, byteOf_toNat hg, beNat_word hw, beNat_word hfl, beNat_word hk]

theorem readDefineGroup_fields {g m l pol : Nat} {prefs : List Nat} (r : BitVec 8) (hg : g < 256)
    (hlength : prefs.length < 256) (hprefs : ∀ v ∈ prefs, v < 256) (hm : m < 65536) (hl : l < 65536)
    (hpol : pol < 256) :
    readDefineGroup p
        ([byteOf g, r, byteOf prefs.length] ++ prefs.map byteOf ++ beBytes 2 m ++ beBytes 2 l ++ [byteOf pol]) =
      .defineGroup (goodFrame p) g r prefs m l pol := by
  have hcount : (byteOf prefs.length).toNat = (prefs.map byteOf).length := by rw [byteOf_toNat hlength, List.length_map]
  simp only [List.append_assoc, List.cons_append, List.nil_append, readDefineGroup]
  rw [hcount, List.drop_left, List.take_left]
  change Instr.defineGroup _ (byteOf g).toNat r _ (beNat (beBytes 2 m)) (beNat (beBytes 2 l)) (byteOf pol).toNat = _
  rw [byteOf_toNat hg, byteOf_map_toNat hprefs, beNat_word hm, beNat_word hl, byteOf_toNat hpol]

theorem readSetAllowance_fields {n c a : Nat} (hn : n < 256) (hc : c < 256) (ha : a < 65536) :
    readSetAllowance p ([byteOf n, byteOf c] ++ beBytes 2 a) = .setAllowance (goodFrame p) n c a := by
  change Instr.setAllowance _ (byteOf n).toNat (byteOf c).toNat (beNat (beBytes 2 a)) = _
  rw [byteOf_toNat hn, byteOf_toNat hc, beNat_word ha]

theorem readSubmitAccess_fields {g : Nat} (serial : Serial) {body : List Byte} (hg : g < 256)
    (hbody : body.length < 65536) :
    readSubmitAccess p (byteOf g :: (beBytes 2 serial.toNat ++ beBytes 2 body.length ++ body)) =
      .submitAccess (goodFrame p) g serial body := by
  change (if body.length = beNat (beBytes 2 body.length) then
    Instr.submitAccess _ (byteOf g).toNat (BitVec.ofNat 16 (beNat (beBytes 2 serial.toNat))) body else _) = _
  rw [beNat_word hbody, if_pos rfl, byteOf_toNat hg, beNat_word serial.isLt, BitVec.ofNat_toNat, BitVec.setWidth_eq]

theorem readOpenBatch_fields {present n : Nat} (hpresent : present < 256) (hn : n < 65536) :
    readOpenBatch p (byteOf present :: beBytes 2 n) = .openBatch (goodFrame p) present n := by
  change Instr.openBatch _ (byteOf present).toNat (beNat (beBytes 2 n)) = _
  rw [byteOf_toNat hpresent, beNat_word hn]

theorem readSubmitSubscriber_fields {body : List Byte} {u : Nat} (m : BitVec 8) (hbody : body.length < 65536)
    (hu : u < 256) :
    readSubmitSubscriber p (beBytes 2 body.length ++ body ++ [m, byteOf u]) =
      .submitSubscriber (goodFrame p) body m u := by
  rw [List.append_assoc]
  change (match (body ++ [m, byteOf u]).drop (beNat (beBytes 2 body.length)) with
    | [m, u] => Instr.submitSubscriber _ ((body ++ _).take (beNat (beBytes 2 body.length))) m u.toNat
    | _ => _) = _
  rw [beNat_word hbody, List.drop_left, List.take_left]
  change Instr.submitSubscriber _ _ _ (byteOf u).toNat = _
  rw [byteOf_toNat hu]

/-- A selector that names no row of its order has a byte that none of the rows has. -/
theorem Selector.wf_other {taken : List Nat} {v : Nat} (h : (Selector.other v).wf taken = true) :
    v < 256 ∧ v ∉ taken := by
  simpa [Selector.wf, fits8] using h

theorem readSetCarrier_target {c : Nat} {sel : Selector} (hc : c < 256) (hsel : sel.wf [0, 1] = true) :
    readSetCarrier p [byteOf c, byteOf (sel.value 0)] = .setCarrierOn (goodFrame p) c sel := by
  cases sel with
  | named => simp [readSetCarrier, Selector.value, byteOf_toNat, hc]
  | other v =>
    obtain ⟨hv, htaken⟩ := Selector.wf_other hsel
    simp_all [readSetCarrier, Selector.value, byteOf_toNat]

theorem readSetProgramme_target {n : Nat} {sel : Selector} (hn : n < 256) (hsel : sel.wf [0, 1, 2] = true) :
    readSetProgramme p [byteOf n, byteOf (sel.value 0)] = .setProgrammeLive (goodFrame p) n sel := by
  cases sel with
  | named => simp [readSetProgramme, Selector.value, byteOf_toNat, hn]
  | other v =>
    obtain ⟨hv, htaken⟩ := Selector.wf_other hsel
    simp_all [readSetProgramme, Selector.value, byteOf_toNat]

theorem readFetchKey_selector {g : Nat} {sel : Selector} (hg : g < 256) (hsel : sel.wf [0, 1] = true) :
    readFetchKey p [byteOf g, byteOf (sel.value 0)] = .fetchKeyActive (goodFrame p) g sel := by
  cases sel with
  | named => simp [readFetchKey, Selector.value, byteOf_toNat, hg]
  | other v =>
    obtain ⟨hv, htaken⟩ := Selector.wf_other hsel
    simp_all [readFetchKey, Selector.value, byteOf_toNat]

theorem readAcknowledge_kind {o : Nat} {kind : Selector} (ho : o < 256) (hkind : kind.wf [2, 3, 4] = true) :
    readAcknowledge p [byteOf (kind.value 2), byteOf o] = .acknowledgeBatchEnd (goodFrame p) kind o := by
  cases kind with
  | named => simp [readAcknowledge, Selector.value, byteOf_toNat, ho]
  | other v =>
    obtain ⟨hv, htaken⟩ := Selector.wf_other hkind
    simp_all [readAcknowledge, Selector.value, byteOf_toNat]

end

/-! ### Every order -/

theorem orderBody_code {i : Instr} {f : Frame} {code : Nat} {body : List Byte}
    (h : orderBody i = some (f, code, body)) : code < 256 := by
  cases i <;> cases h <;> decide

/-- The body of a well-formed order is within the length that a frame allows (R145). -/
theorem orderBody_length {i : Instr} {f : Frame} {code : Nat} {body : List Byte} (hwf : i.wf = true)
    (h : orderBody i = some (f, code, body)) : body.length ≤ 1024 := by
  cases i <;> cases h
  case defineGroup | submitAccess | submitSubscriber =>
    simp [Instr.wf, fits8] at hwf ⊢
    omega
  all_goals simp

/-- The code and the body of a well-formed order are read as the order. -/
theorem readOrder_orderBody {i : Instr} {f : Frame} {code : Nat} {body : List Byte} (hwf : i.wf = true)
    (h : orderBody i = some (f, code, body)) (hfits : f.fits = true) : readOrder f.port code body = i := by
  obtain ⟨p, fits⟩ := f
  obtain rfl : fits = true := hfits
  cases i <;> cases h
  all_goals simp only [Instr.wf, Offer.wf, fits8, fits16, fits32, Bool.and_eq_true, decide_eq_true_eq,
    List.all_eq_true] at hwf
  case defineCarrier =>
    obtain ⟨⟨⟨hc, hq⟩, ht⟩, ha⟩ := hwf
    exact readDefineCarrier_fields p hc hq ht ha
  case setCarrierOn => exact readSetCarrier_target p hwf.1 hwf.2
  case defineProgramme =>
    obtain ⟨⟨⟨⟨⟨hn, hc⟩, hg⟩, hw⟩, hfl⟩, hk⟩ := hwf
    exact readDefineProgramme_fields p hn hc hg hw hfl hk
  case setProgrammeLive => exact readSetProgramme_target p hwf.1 hwf.2
  case defineGroup =>
    obtain ⟨⟨⟨⟨⟨hg, hlength⟩, hprefs⟩, hm⟩, hl⟩, hpol⟩ := hwf
    exact readDefineGroup_fields p _ hg hlength hprefs hm hl hpol
  case setAllowance =>
    obtain ⟨⟨hn, hc⟩, ha⟩ := hwf
    exact readSetAllowance_fields p hn hc ha
  case fetchKeyActive => exact readFetchKey_selector p hwf.1 hwf.2
  case submitAccess => exact readSubmitAccess_fields p _ hwf.1 (hwf.2.trans_lt (by decide))
  case openBatch => exact readOpenBatch_fields p hwf.1 hwf.2
  case submitSubscriber => exact readSubmitSubscriber_fields p _ (hwf.1.trans_lt (by decide)) hwf.2
  case acknowledgeBatchEnd => exact readAcknowledge_kind p hwf.2 hwf.1
  case setCarrierOff => exact congrArg (Instr.setCarrierOff _) (byteOf_toNat hwf)
  case setProgrammeIdle => exact congrArg (Instr.setProgrammeIdle _) (byteOf_toNat hwf)
  case setProgrammeUnused => exact congrArg (Instr.setProgrammeUnused _) (byteOf_toNat hwf)
  case fetchKeyPending => exact congrArg (Instr.fetchKeyPending _) (byteOf_toNat hwf)
  case acknowledgeGroupAlert => exact congrArg (Instr.acknowledgeGroupAlert _) (byteOf_toNat hwf)
  case acknowledgeCarrierAlert => exact congrArg (Instr.acknowledgeCarrierAlert _) (byteOf_toNat hwf)
  case readCarrier => exact congrArg (Instr.readCarrier _) (byteOf_toNat hwf)
  case readProgramme => exact congrArg (Instr.readProgramme _) (byteOf_toNat hwf)
  case releaseGroup => exact congrArg (Instr.releaseGroup _) (byteOf_toNat hwf)
  case restartGroup => exact congrArg (Instr.restartGroup _) (byteOf_toNat hwf)
  case readGroup => exact congrArg (Instr.readGroup _) (byteOf_toNat hwf)
  case probeGroup => exact congrArg (Instr.probeGroup _) (byteOf_toNat hwf)
  case attach o => exact congrArg (fun lead => Instr.attach ⟨p, true⟩ ⟨o.mask, lead⟩) (byteOf_toNat hwf)
  case planAck o =>
    obtain ⟨⟨hg, hn⟩, hlead⟩ := hwf
    exact congr (congr (congrArg (fun g n lead => Instr.planAck ⟨p, true⟩ g n ⟨o.mask, lead⟩) (byteOf_toNat hg))
      (byteOf_toNat hn)) (byteOf_toNat hlead)
  case restartPart | detach | readTime | readCondition | readSummary => rfl

/-! ### The frame around a body (R145, R156) -/

theorem beNat_pair_lt (b1 b0 : Byte) : beNat [b1, b0] < 65536 := by
  simp only [beNat, List.foldl_cons, List.foldl_nil]
  omega

/-- Two check bytes match a check where the number they spell is the check's. -/
theorem eq_ofNat_beNat_iff (b1 b0 : Byte) (x : BitVec 16) :
    x = BitVec.ofNat 16 (beNat [b1, b0]) ↔ beNat [b1, b0] = x.toNat := by
  rw [BitVec.toNat_eq, BitVec.toNat_ofNat, Nat.mod_eq_of_lt (beNat_pair_lt b1 b0), eq_comm]

/-- A whole frame: its order where the check matches, a framing failure with its code where it does not (R145). -/
theorem decodeFrame_whole (p : PortId) (code : Byte) {body check : List Byte} (hbody : body.length ≤ 1024)
    (hcheck : check.length = 2) (rest : List Byte) :
    decodeFrame p (startMark ++ (code :: (beBytes 2 body.length ++ (body ++ (check ++ rest))))) =
      some (if beNat check = (frameCheck (code :: (beBytes 2 body.length ++ body))).toNat then
        readOrder p code.toNat body else .framingFailure p code.toNat, rest) := by
  have hlength : beNat (beBytes 2 body.length) = body.length := beNat_word (by omega)
  obtain ⟨l1, l0, hl⟩ : ∃ l1 l0, beBytes 2 body.length = [l1, l0] := ⟨_, _, rfl⟩
  obtain ⟨k1, k0, rfl⟩ := List.length_eq_two.1 hcheck
  rw [hl] at hlength ⊢
  change decodeFrame p (171#8 :: 205#8 :: code :: l1 :: l0 :: (body ++ k1 :: k0 :: rest)) = _
  rw [decodeFrame]
  simp only [hlength, if_neg (Nat.not_lt.2 hbody), List.drop_left, List.take_left, eq_ofNat_beNat_iff]
  exact (apply_ite (fun i => some (i, rest)) _ _ _).symm

/-- A length above 1,024: the body is not read (R145). -/
theorem decodeFrame_long (p : PortId) (code : Byte) {len : Nat} (hlong : 1024 < len) (hlen : len < 65536)
    (rest : List Byte) :
    decodeFrame p (startMark ++ (code :: (beBytes 2 len ++ rest))) = some (.framingFailure p code.toNat, rest) := by
  refine if_pos ?_
  change 1024 < beNat (beBytes 2 len)
  rwa [beNat_word hlen]

/-- Fewer bytes than a start mark has are no frame. -/
theorem decodeFrame_short (p : PortId) {bytes : List Byte} (h : bytes.length < 2) : decodeFrame p bytes = none := by
  unfold decodeFrame
  split
  · simp at h
  · rfl

/-- A frame with a well-formed order is read as the order. -/
theorem decodeFrame_frameBytes {i : Instr} {f : Frame} {code : Nat} {body : List Byte} (hwf : i.wf = true)
    (h : orderBody i = some (f, code, body)) (hfits : f.fits = true) (rest : List Byte) :
    decodeFrame f.port (frameBytes code body ++ rest) = some (i, rest) := by
  have hframe : frameBytes code body ++ rest =
      startMark ++ (byteOf code :: (beBytes 2 body.length ++ (body ++
        (beBytes 2 (frameCheck (byteOf code :: (beBytes 2 body.length ++ body))).toNat ++ rest)))) := by
    simp [frameBytes]
  rw [hframe, decodeFrame_whole f.port _ (orderBody_length hwf h) (beBytes_length ..), beNat_word (BitVec.isLt _),
    if_pos rfl, byteOf_toNat (orderBody_code h), readOrder_orderBody hwf h hfits]

/-! ### A line (R145) -/

/-- A frame behind bytes that hold no start mark is the next frame. -/
theorem nextFrame_of_mark (p : PortId) {junk : List Byte} (h : ¬ startMark <:+: junk) (bytes : List Byte) :
    nextFrame p (junk ++ (startMark ++ bytes)) = decodeFrame p (startMark ++ bytes) :=
  congrArg (decodeFrame p) (hunt_append (m := 171) (ms := [205]) (by decide) bytes h)

/-- Bytes that hold no start mark hold no frame. -/
theorem nextFrame_of_no_mark (p : PortId) {junk : List Byte} (h : ¬ startMark <:+: junk) : nextFrame p junk = none := by
  obtain ⟨hprefix, hne⟩ := hunt_of_no_mark h
  exact decodeFrame_short p (hprefix.length_le.lt_of_ne fun hlength => hne (hprefix.eq_of_length hlength))

theorem frameBytes_eq_startMark_append (code : Nat) (body : List Byte) :
    ∃ bytes, frameBytes code body = startMark ++ bytes :=
  ⟨_, List.append_assoc ..⟩

end Sys2Proof

namespace Sys2Proof.Settled

open Sys2Proof.Machine

/-- Settles O59: the frame behind the junk by `nextFrame_of_mark`, its bytes by `decodeFrame_whole` and
`decodeFrame_long`, its body field by field in `readOrder_orderBody`. -/
theorem orderFramesRoundTrip : Obligations.OrderFramesRoundTrip := by
  refine ⟨fun i f code body rest hwf hbody hfits => ?order, fun p junk rest hjunk => ⟨nextFrame_of_no_mark p hjunk,
    fun code len hlong hlen => ?long, fun code body check hbody hcheck hne => ?mismatch⟩⟩
  case order =>
    have hdecode := decodeFrame_frameBytes hwf hbody hfits rest
    refine ⟨hdecode, fun junk hjunk => ?_⟩
    obtain ⟨bytes, hbytes⟩ := frameBytes_eq_startMark_append code body
    rw [hbytes, List.append_assoc] at hdecode
    rw [hbytes, List.append_assoc, List.append_assoc, nextFrame_of_mark f.port hjunk, hdecode]
  case long =>
    have hbytes : junk ++ [171, 205, code] ++ beBytes 2 len ++ rest =
        junk ++ (startMark ++ (code :: (beBytes 2 len ++ rest))) := by simp [startMark]
    rw [hbytes, nextFrame_of_mark p hjunk, decodeFrame_long p code hlong hlen]
  case mismatch =>
    have hbytes : junk ++ [171, 205, code] ++ beBytes 2 body.length ++ body ++ check ++ rest =
        junk ++ (startMark ++ (code :: (beBytes 2 body.length ++ (body ++ (check ++ rest))))) := by simp [startMark]
    rw [hbytes, nextFrame_of_mark p hjunk, decodeFrame_whole p code hbody hcheck, if_neg hne]

end Sys2Proof.Settled

/-! SUPPORT. Unit headers: their 14 bytes read back, and what a link makes of the marks on its line (R21, R27, R28,
R157). -/

namespace Sys2Proof

/-! ### Fields of a header -/

theorem toNat_append_byte {n : Nat} (x : BitVec n) (b : Byte) : (x ++ b).toNat = x.toNat * 256 + b.toNat := by
  rw [BitVec.toNat_append, ← Nat.shiftLeft_add_eq_or_of_lt b.isLt, Nat.shiftLeft_eq]

/-- A 16-bit field is read back from its two bytes. -/
theorem append_beBytes_word (x : BitVec 16) :
    (BitVec.ofNat 8 (x.toNat / 256 ^ 1) ++ BitVec.ofNat 8 (x.toNat / 256 ^ 0) : BitVec 16) = x := by
  apply BitVec.eq_of_toNat_eq
  calc (BitVec.ofNat 8 (x.toNat / 256 ^ 1) ++ BitVec.ofNat 8 (x.toNat / 256 ^ 0) : BitVec 16).toNat
      = beNat (beBytes 2 x.toNat) := by simp only [toNat_append_byte, beNat, beBytes, List.foldl]; omega
    _ = x.toNat := beNat_word x.isLt

/-- A 32-bit field is read back from its four bytes. -/
theorem append_beBytes_long (x : BitVec 32) :
    (BitVec.ofNat 8 (x.toNat / 256 ^ 3) ++ BitVec.ofNat 8 (x.toNat / 256 ^ 2) ++ BitVec.ofNat 8 (x.toNat / 256 ^ 1)
      ++ BitVec.ofNat 8 (x.toNat / 256 ^ 0) : BitVec 32) = x := by
  apply BitVec.eq_of_toNat_eq
  calc (BitVec.ofNat 8 (x.toNat / 256 ^ 3) ++ BitVec.ofNat 8 (x.toNat / 256 ^ 2) ++ BitVec.ofNat 8 (x.toNat / 256 ^ 1)
        ++ BitVec.ofNat 8 (x.toNat / 256 ^ 0) : BitVec 32).toNat
      = beNat (beBytes 4 x.toNat) := by simp only [toNat_append_byte, beNat, beBytes, List.foldl]; omega
    _ = x.toNat := beNat_long x.isLt

@[simp] theorem encodeHeader_length (h : UnitHeader) : (encodeHeader h).length = 14 := rfl

theorem encodeHeader_eq_syncMark_append (h : UnitHeader) : ∃ bytes, encodeHeader h = syncMark ++ bytes := ⟨_, rfl⟩

theorem decodeHeader_syncMark_append (slot kind q1 q0 z3 z2 z1 z0 x1 x0 : Byte) :
    decodeHeader (syncMark ++ [slot, kind, q1, q0, z3, z2, z1, z0, x1, x0]) =
      some ⟨slot, kind, q1 ++ q0, z3 ++ z2 ++ z1 ++ z0, x1 ++ x0⟩ := rfl

theorem decodeHeader_encodeHeader (h : UnitHeader) : decodeHeader (encodeHeader h) = some h := by
  refine (decodeHeader_syncMark_append ..).trans ?_
  rw [append_beBytes_word, append_beBytes_long, append_beBytes_word]

/-- Fewer bytes than a header has are no header. -/
theorem decodeHeader_short {bytes : List Byte} (h : bytes.length < 14) : decodeHeader bytes = none := by
  unfold decodeHeader
  split
  · simp at h
  · rfl

theorem take_encodeHeader_append (h : UnitHeader) (rest : List Byte) :
    (encodeHeader h ++ rest).take 14 = encodeHeader h := List.take_left' rfl

theorem drop_encodeHeader_append (h : UnitHeader) (rest : List Byte) :
    (encodeHeader h ++ rest).drop 14 = rest := List.drop_left' rfl

/-! ### The search of a SEARCHING link (R157) -/

section
variable (l : LinkNo) {junk : List Byte} (hjunk : ¬ syncMark <:+: junk)
include hjunk

/-- A header behind bytes that hold no sync mark is found. -/
theorem searchLink_of_header (h : UnitHeader) (rest : List Byte) :
    searchLink l (junk ++ (encodeHeader h ++ rest)) = some (.syncMarkFound l h, rest) := by
  have hfound : hunt syncMark (junk ++ (encodeHeader h ++ rest)) = encodeHeader h ++ rest := by
    obtain ⟨bytes, hbytes⟩ := encodeHeader_eq_syncMark_append h
    rw [hbytes, List.append_assoc]
    exact hunt_append (m := 71) (ms := [182, 29, 232]) (by decide) _ hjunk
  rw [searchLink, hfound, take_encodeHeader_append, drop_encodeHeader_append,
    decodeHeader_encodeHeader, Option.map_some]

/-- Bytes that hold no sync mark hold no header. -/
theorem searchLink_of_no_mark : searchLink l junk = none := by
  obtain ⟨hprefix, -⟩ := hunt_of_no_mark hjunk
  have hfew : (hunt syncMark junk).length ≤ 4 := hprefix.length_le
  have hshort : ((hunt syncMark junk).take 14).length < 14 := (List.length_take_le' ..).trans_lt (by omega)
  rw [searchLink, decodeHeader_short hshort, Option.map_none]

end

/-! ### A LOCKED link (R21, R27, R28) -/

/-- The mark that four bytes are, whatever follows them. -/
theorem markAt_append {mark : List Byte} (h : mark.length = 4) (rest : List Byte) :
    markAt (mark ++ rest) =
      some (if mark = syncMark then .sync else if mark = idleMark then .idle else .neither) := by
  have hlong : ¬ (mark ++ rest).length < 4 := by rw [List.length_append]; omega
  rw [markAt, if_neg hlong, List.take_left' h, apply_ite some, apply_ite some]

/-- A LOCKED link passes an idle mark. -/
theorem nextHeader_idleMark (l : LinkNo) (bytes : List Byte) : nextHeader l (idleMark ++ bytes) = nextHeader l bytes :=
  rfl

/-- A LOCKED link passes any run of idle marks. -/
theorem nextHeader_idleMarks (l : LinkNo) (bytes : List Byte) :
    ∀ n : Nat, nextHeader l ((List.replicate n idleMark).flatten ++ bytes) = nextHeader l bytes
  | 0 => rfl
  | n + 1 => by
      rw [List.replicate_succ, List.flatten_cons, List.append_assoc, nextHeader_idleMark,
        nextHeader_idleMarks l bytes n]

/-- A LOCKED link takes the header that a sync mark begins. -/
theorem nextHeader_encodeHeader (l : LinkNo) (h : UnitHeader) (rest : List Byte) :
    nextHeader l (encodeHeader h ++ rest) = some (.headerTaken l h, rest) :=
  congrArg (Option.map fun h => (Instr.headerTaken l h, rest)) (decodeHeader_encodeHeader h)

/-- Four bytes that are no mark are a missing sync mark, and stay to be searched (log entry 43). -/
theorem nextHeader_neither (l : LinkNo) {mark : List Byte} (hlength : mark.length = 4) (hsync : mark ≠ syncMark)
    (hidle : mark ≠ idleMark) (rest : List Byte) :
    nextHeader l (mark ++ rest) = some (.missingSyncMark l, mark ++ rest) := by
  have hmark := markAt_append hlength []
  rw [if_neg hsync, if_neg hidle, List.append_nil] at hmark
  obtain ⟨a, b, c, d, rfl⟩ := List.length_eq_four.1 hlength
  simp only [List.cons_append, List.nil_append, nextHeader, hmark]

/-- Behind a body, either mark completes the unit and any other four bytes are a runaway (R27, R28). -/
theorem bodyEnd_append (l : LinkNo) {mark : List Byte} (h : mark.length = 4) (rest : List Byte) :
    bodyEnd l (mark ++ rest) =
      some (if mark = syncMark ∨ mark = idleMark then .unitCompletion l else .runawayUnit l) := by
  rw [bodyEnd, markAt_append h]
  by_cases hsync : mark = syncMark
  · rw [if_pos hsync, if_pos (.inl hsync)]
  · by_cases hidle : mark = idleMark
    · rw [if_neg hsync, if_pos hidle, if_pos (.inr hidle)]
    · rw [if_neg hsync, if_neg hidle, if_neg (not_or_intro hsync hidle)]

end Sys2Proof

/-! SUPPORT. A check behind what it covers: the register that is left (R159). -/

namespace Sys2Proof

theorem crcRun_append {n : Nat} (poly reg : BitVec n) (xs ys : List Byte) :
    crcRun poly reg (xs ++ ys) = crcRun poly (crcRun poly reg xs) ys := by
  rw [crcRun, List.flatMap_append, List.foldl_append]
  rfl

/-- A bit that differs from the register's first acts as a bit of one on what is added to the register. -/
theorem crcBit_xor_not_msb {n : Nat} (poly x y : BitVec n) :
    crcBit poly (x ^^^ y) (!x.msb) = (x <<< 1) ^^^ crcBit poly y true := by
  have hdiffer : (((x ^^^ y).msb != !x.msb) = true) = ((y.msb != true) = true) := by
    rw [BitVec.msb_xor]
    cases x.msb <;> cases y.msb <;> rfl
  unfold crcBit
  simp only [hdiffer, BitVec.shiftLeft_xor_distrib]
  split
  · exact BitVec.xor_assoc ..
  · rfl

/-- The inverted bits of a register, sent after it, shift the register out, and what they leave no longer depends on
it. -/
theorem foldl_crcBit_not_getMsbD {n : Nat} (poly reg : BitVec n) : ∀ k : Nat, k ≤ n →
    ((List.range k).map fun i => !reg.getMsbD i).foldl (crcBit poly) reg =
      (reg <<< k) ^^^ (List.replicate k true).foldl (crcBit poly) 0
  | 0, _ => by simp
  | k + 1, hk => by
      have hmsb : reg.getMsbD k = (reg <<< k).msb := by simp [BitVec.msb, BitVec.getMsbD_shiftLeft]
      rw [List.range_succ, List.map_append, List.foldl_append, foldl_crcBit_not_getMsbD poly reg k (by omega),
        List.replicate_succ', List.foldl_append, BitVec.shiftLeft_add, List.map_singleton, hmsb]
      exact crcBit_xor_not_msb ..

/-- The bits of a number on the line are its bits, the most significant first. -/
theorem flatMap_byteBits_beBytes (v : Nat) : ∀ n : Nat,
    (beBytes n v).flatMap byteBits = (List.range (8 * n)).map fun i => v.testBit (8 * n - 1 - i)
  | 0 => rfl
  | n + 1 => by
      have hbits : byteBits (BitVec.ofNat 8 (v / 256 ^ n)) =
          (List.range 8).map fun i => v.testBit (8 * (n + 1) - 1 - i) := by
        refine List.map_congr_left fun i hi => ?_
        have hi : i < 8 := List.mem_range.1 hi
        have hpow : 256 ^ n = 2 ^ (8 * n) := by rw [pow_mul]; rfl
        rw [BitVec.getLsbD_ofNat, hpow, Nat.testBit_div_two_pow, decide_eq_true (by omega), Bool.true_and]
        congr 1
        omega
      rw [beBytes, List.flatMap_cons, hbits, flatMap_byteBits_beBytes v n, Nat.mul_succ, Nat.add_comm (8 * n) 8,
        List.range_add, List.map_append, List.map_map]
      refine congrArg _ (List.map_congr_left fun i _ => congrArg v.testBit ?_)
      change 8 * n - 1 - i = 8 + 8 * n - 1 - (8 + i)
      omega

/-- The directory check sends the register inverted, so that bytes followed by their check leave one value (R159). -/
theorem crcRun_directoryCheck (covered : List Byte) :
    crcRun directoryPoly (BitVec.allOnes 32) (covered ++ beBytes 4 (directoryCheck covered).toNat) =
      (List.replicate 32 true).foldl (crcBit directoryPoly) 0 := by
  have hbits (reg : BitVec 32) : (beBytes 4 (~~~reg).toNat).flatMap byteBits =
      (List.range 32).map fun i => !reg.getMsbD i := by
    refine (flatMap_byteBits_beBytes _ 4).trans (List.map_congr_left fun i hi => ?_)
    have hi : i < 32 := List.mem_range.1 hi
    rw [BitVec.testBit_toNat, BitVec.getLsbD_not, BitVec.getMsbD, decide_eq_true hi, decide_eq_true (by omega),
      Bool.true_and, Bool.true_and]
  rw [crcRun_append, directoryCheck, crcRun, hbits, foldl_crcBit_not_getMsbD _ _ 32 le_rfl,
    BitVec.shiftLeft_eq_zero le_rfl, BitVec.zero_xor]

end Sys2Proof

/-! SUPPORT. Reply frames and key records, field by field (R156, R160). -/

namespace Sys2Proof.Machine

/-! ### Reply frames (R156) -/

section
variable (r : Reply)

/-- What the check of a reply frame covers: code, result, length and body. -/
def Reply.covered : List Byte :=
  [byteOf r.code, byteOf r.response.result] ++ beBytes 2 r.response.body.length ++ r.response.body

theorem Reply.bytes_eq : r.bytes = startMark ++ r.covered ++ beBytes 2 (frameCheck r.covered).toNat := rfl

theorem Reply.covered_length : r.covered.length = 4 + r.response.body.length := by
  simp only [Reply.covered, List.length_append, List.length_cons, List.length_nil, beBytes_length]

theorem Reply.bytes_length : r.bytes.length = 8 + r.response.body.length := by
  rw [r.bytes_eq, List.length_append, List.length_append, r.covered_length, beBytes_length, startMark]
  simp only [List.length_cons, List.length_nil]
  omega

theorem Reply.bytes_result : r.bytes[3]? = some (byteOf r.response.result) := rfl

theorem Reply.bytes_bodyLength (h : r.response.body.length < 65536) :
    beNat ((r.bytes.drop 4).take 2) = r.response.body.length := beNat_word h

theorem Reply.bytes_body : (r.bytes.drop 6).take r.response.body.length = r.response.body := List.take_left

/-- What the check covers stands behind the start mark. -/
theorem Reply.bytes_covered : (r.bytes.drop 2).take (4 + r.response.body.length) = r.covered :=
  List.take_left' r.covered_length

/-- The check stands behind what it covers. -/
theorem Reply.bytes_check : beNat (r.bytes.drop (6 + r.response.body.length)) = (frameCheck r.covered).toNat := by
  have hfront : (startMark ++ r.covered).length = 6 + r.response.body.length := by
    rw [List.length_append, r.covered_length, startMark]
    simp only [List.length_cons, List.length_nil]
    omega
  rw [r.bytes_eq, List.drop_left' hfront]
  exact beNat_word (BitVec.isLt _)

end

/-- The refusal codes in the order of their numbers 1 to 15 (R156). -/
def refusalCodes : List RefusalCode :=
  [.busy, .check, .unknown, .notPermitted, .range, .state, .overBudget, .exceptionPending, .detached, .stale, .length,
    .queueFull, .noBatch, .batchSpent, .noCarrier]

theorem RefusalCode.code_eq (c : RefusalCode) : ∃ i, refusalCodes[i]? = some c ∧ c.code = i + 1 :=
  ⟨c.code - 1, by cases c <;> rfl, by cases c <;> rfl⟩

/-! ### Key records (R160) -/

section
variable (r : KeyRecord)

@[simp] theorem timeField_length (t : Option Time) : (timeField t).length = 8 := by cases t <;> rfl

theorem KeyRecord.bytes_phase : r.bytes[1]? = some (match r.phase with | .a => (1 : Byte) | .b => 2) := by
  change some (byteOf r.phase.code) = _
  cases r.phase <;> rfl

theorem KeyRecord.bytes_serial : beNat ((r.bytes.drop 2).take 2) = r.serial.toNat := beNat_word r.serial.isLt

theorem KeyRecord.bytes_key : beNat ((r.bytes.drop 4).take 12) = r.key.toNat := beNat_beBytes (n := 12) r.key.isLt

/-- Behind the key stand the next changeover and the record number. -/
theorem KeyRecord.bytes_drop : r.bytes.drop 16 = timeField r.nextChangeover ++ [r.number] := rfl

theorem KeyRecord.bytes_nextChangeover : (r.bytes.drop 16).take 8 = timeField r.nextChangeover := by
  rw [r.bytes_drop, List.take_left' (timeField_length _)]

theorem KeyRecord.bytes_number : r.bytes[24]? = some r.number := by
  change (r.bytes.drop 16)[8]? = _
  rw [r.bytes_drop, List.getElem?_append_right (timeField_length _).le, timeField_length]
  rfl

theorem KeyRecord.bytes_length : r.bytes.length = 25 := by
  simp only [KeyRecord.bytes, List.length_append, List.length_cons, List.length_nil, beBytes_length, timeField_length]

end

end Sys2Proof.Machine

namespace Sys2Proof.Settled

open Sys2Proof.Machine

/-- Settles O60: headers and marks by `decodeHeader_encodeHeader` and the lemmas about each reader of a link, replies
and key records field by field, the directory check by `crcRun_directoryCheck`. -/
theorem layoutsOfRecords : Obligations.LayoutsOfRecords := by
  refine ⟨fun h => ⟨encodeHeader_length h, decodeHeader_encodeHeader h⟩,
    fun l h junk rest hjunk => ⟨?search, searchLink_of_no_mark l hjunk⟩,
    fun l h n rest => ⟨?header, fun mark hmark => ⟨bodyEnd_append l hmark rest, fun hsync hidle => ?missing⟩⟩,
    fun r hbody => ⟨r.bytes_length, rfl, rfl, ?done, ?refused, r.bytes_bodyLength hbody, r.bytes_body, ?check⟩,
    fun r => ⟨r.bytes_length, rfl, r.bytes_phase, r.bytes_serial, r.bytes_key, ?absent, ?present, r.bytes_number⟩,
    ⟨_, fun d => crcRun_directoryCheck d.covered⟩⟩
  case search => rw [List.append_assoc, searchLink_of_header l hjunk]
  case header =>
    rw [List.append_assoc]
    exact (nextHeader_idleMarks l _ n).trans (nextHeader_encodeHeader l h rest)
  case missing =>
    rw [List.append_assoc]
    exact (nextHeader_idleMarks l _ n).trans (nextHeader_neither l hmark hsync hidle rest)
  case done =>
    intro b hb
    rw [r.bytes_result, hb]
    exact ⟨rfl, rfl⟩
  case refused =>
    intro c hc
    obtain ⟨i, hi, hcode⟩ := c.code_eq
    rw [r.bytes_result, hc]
    exact ⟨rfl, i, hi, congrArg (some ∘ byteOf) hcode⟩
  case check =>
    rw [r.bytes_check, r.bytes_covered]
    rfl
  case absent =>
    intro h
    rw [r.bytes_nextChangeover, h]
    rfl
  case present =>
    intro t h ht
    rw [r.bytes_nextChangeover, h]
    exact beNat_beBytes (n := 8) ht

end Sys2Proof.Settled
